-- ==== Sys2Proof/Word.lean ====
section
/-! DEFINITION. The word types of the module and the one map type that every sparse table of the state uses.

A table or a memory is a list of (key, value) pairs in one canonical form: keys strictly rising, and no entry
equal to the default, which is what an unlisted key reads as. -/

namespace Sys2Proof

abbrev Byte := BitVec 8
abbrev Word := BitVec 32
abbrev Lanes := BitVec 64

/-- A sparse table keyed by a natural number. -/
abbrev NMap (β : Type) := List (Nat × β)

namespace NMap

/-- The value at a key; an unlisted key reads as the default. -/
def get {β : Type} (d : β) : NMap β → Nat → β
  | [], _ => d
  | (a, v) :: m, k => if a = k then v else get d m k

/-- The entry of a key, for a table whose unlisted keys have no value. -/
def get? {β : Type} : NMap β → Nat → Option β
  | [], _ => none
  | (a, v) :: m, k => if a = k then some v else get? m k

/-- Removes the entry of a key. -/
def del {β : Type} : NMap β → Nat → NMap β
  | [], _ => []
  | (a, v) :: m, k => if a = k then del m k else (a, v) :: del m k

/-- Lists a value at a key, whatever the value. -/
def ins {β : Type} : NMap β → Nat → β → NMap β
  | [], k, w => [(k, w)]
  | (a, v) :: m, k, w =>
    if a = k then (k, w) :: m else if k < a then (k, w) :: (a, v) :: m else (a, v) :: ins m k w

/-- Writes a key and keeps the canonical form: the default is never listed. -/
def put {β : Type} [DecidableEq β] (d : β) (m : NMap β) (k : Nat) (w : β) : NMap β :=
  if w = d then del m k else ins m k w

/-- Every key of `m` lies above `k`. -/
def above {β : Type} (k : Nat) (m : NMap β) : Prop := ∀ e ∈ m, k < e.1

/-- The canonical form, as a computation. -/
def wf {β : Type} [DecidableEq β] (d : β) : NMap β → Bool
  | [] => true
  | (k, v) :: m => decide (v ≠ d) && m.all (fun e => decide (k < e.1)) && wf d m

end NMap

/-- Byte-addressed memory: an unlisted byte reads as zero. -/
abbrev Mem := NMap Byte

end Sys2Proof
end

