-- ==== Sys2Proof/Syntax.lean ====
section
/-! DEFINITION. The commands the block takes: one constructor of `Instr` per row of spec/opcode_table.json, with the
operands its rule gives. Field widths are the checks of WellFormed.lean. An operand `t` is the TIME64 instant (R10) at
which the command happens; a command without one happens at the block's present instant. -/

namespace Sys2Proof

/-! ## Unit numbers -/

/-- Linear brick number, course × 40 + column (00_scope, Nicknames). -/
abbrev BrickNo := Fin 1200
/-- Micro-core index in a brick. -/
abbrev CoreNo := Fin 256
abbrev PalletNo := Fin 16
/-- Goullor port GP0 to GP11. -/
abbrev PortNo := Fin 12
/-- Logical device of a host. -/
abbrev LdNo := Fin 16
/-- Owner of rings, queues and registrations: LD 0–15, or 16 for the FM-owned LD (R359). -/
abbrev OwnerNo := Fin 17
abbrev RingNo := Fin 64
/-- Key slot (R344). -/
abbrev SlotNo := Fin 1024
/-- Transport queue number. -/
abbrev QueueNo := Fin 262144
/-- x- or f-register number. -/
abbrev RegNo := Fin 32
/-- v-register number: fields with bits [4:3] zero (Jx, Vector instructions). -/
abbrev VRegNo := Fin 8
/-- Arrival counter ID, brick × 64 + index. -/
abbrev CounterId := Fin 76800

/-- Lane format of a Jx vector instruction (funct7 FMT). -/
inductive LaneFmt where
  | fp16 | bf16
  deriving DecidableEq, Repr

/-- Status codes 0x00 to 0x0F (R414). -/
inductive Status where
  | ok | flushed | deadlineMissed | cancelledDropped | admitDenied | regionRevoked | keyRetired | targetDead
  | stateRebuilt | notReady | epochStale | timeout | transportError | accessDenied | formatFallback | uncorrectable
  deriving DecidableEq, Repr

/-! ## Mortar operands -/

/-- A work token: payload bytes 0x08–0x3F of a TOKEN flit, with the sending node and the step tag of its header (02, Work
tokens; R27). -/
structure Token where
  src : Nat
  kind : Nat
  engines : Nat
  passes : Nat
  arrId : Nat
  page : Nat
  args : List Byte
  tag : Nat
  deriving DecidableEq, Repr

/-- The endpoint a mortar request names: a brick, or an HBM controller by its number (02, Nodes and routes). -/
inductive MortarTarget where
  | brick (b : BrickNo)
  | hbm (i : Fin 8)
  deriving DecidableEq, Repr

/-- The routing header fields a receiver uses (R27): SRC, PALLET and TAG. -/
structure MortarHdr where
  src : Nat
  pallet : PalletNo
  tag : Nat
  deriving DecidableEq, Repr

/-- Where a protected word lies (R185). -/
inductive WordPlace where
  | requestState (slot : Nat) (region : Nat)
  | palletImage (p : PalletNo) (frame : Nat)
  | queueContext (q : QueueNo)
  | hostStructure (o : LdNo) (addr : Nat)
  | brickStore (b : BrickNo) (addr : Nat)
  | accumulator (b : BrickNo) (addr : Nat)
  | mortarFlit (p : PalletNo)
  | instrBuffer (b : BrickNo)
  deriving DecidableEq, Repr

/-! ## Transport operands -/

/-- The trailer of a packet (R239): its 16 bytes as a number, where the packet stands with its data; or the outcome of the check,
for the packets of a message whose body stands as fields. -/
inductive Trailer where
  | bytes (v : Nat)
  | checked (ok : Bool)
  deriving DecidableEq, Repr

/-- A transport packet as it arrives: the fields of the header (R238), its data, BIRTH of its frame (R220), and whether
its trailer passes the check of R239. The opcode is the command's constructor. -/
structure Pkt where
  openF : Bool
  first : Bool
  last : Bool
  coded : Bool
  flagged : Bool
  relaxed : Bool
  epoch : Nat
  srcMod : Nat
  dstMod : Nat
  flow : Nat
  keyId : Nat
  psn : Nat
  fgen : Nat
  flowT : Nat
  dq : Nat
  sq : Nat
  addr : Nat
  rkey : Nat
  status : Status
  tag : Nat
  imm : Nat
  ackPsn : Nat
  aux : Nat
  birth : Nat
  /-- PCP of its frame (R224). -/
  cls : Nat
  data : List Byte
  icv : Trailer
  deriving DecidableEq, Repr

/-- A work queue entry less its opcode (R255). `reserved` says that a reserved field is non-zero; the device ignores it
(R8). -/
structure Wqe where
  signal : Bool
  flush : Bool
  flag : Bool
  dstMod : Nat
  dq : Nat
  wrid : Nat
  laddr : Nat
  lkey : Nat
  len : Nat
  raddr : Nat
  rkey : Nat
  imm : Nat
  wcq : Nat
  wcount : Nat
  reserved : Bool
  deriving DecidableEq, Repr

/-- Context bytes 0x00–0x3F of a TRN_QMODIFY write (R251, R252), less STATE, which the command's name gives. -/
structure QModify where
  typ : Nat
  relaxed : Bool
  pallet : PalletNo
  cls : Nat
  keyId : Nat
  cqn : Nat
  logSize : Nat
  ring : Nat
  reserved : Bool
  deriving DecidableEq, Repr

/-- A rack command slot as GO finds it (R271), less OP. -/
structure RackCmd where
  aop : Nat
  w64 : Bool
  region : Nat
  offset : Nat
  laddr : Nat
  len : Nat
  opnd1 : Nat
  opnd2 : Nat
  arrId : Nat
  arrTag : Nat
  deriving DecidableEq, Repr

/-- A composition record (R268). -/
structure MapRecord where
  kind : Nat
  remove : Bool
  key : Nat
  ports : Nat
  home : Nat
  writer : Nat
  rkey : Nat
  base : Nat
  length : Nat
  split : Nat
  accel : Nat
  members : List Nat
  rid : Nat
  deriving DecidableEq, Repr

/-- A COLL_ABORT payload (R282). -/
structure CollAbort where
  gid : Nat
  reason : Status
  step : Nat
  rid : Nat
  tDetect : Nat
  origin : Nat
  deriving DecidableEq, Repr

/-! ## Attention, drafting and request-state operands -/

/-- An attention-call payload (R86). `nq` is the number of query positions. `reserved` says that a reserved field is
non-zero, which the device ignores (R8); `length` is the payload's length in bytes. -/
structure AttCall where
  handle : Nat
  step : Nat
  layer : Nat
  nq : Nat
  mode : Nat
  bulk : Bool
  dense : Bool
  fresh : Bool
  qfmt : Nat
  segmode : Nat
  nqh : Nat
  nkv : Nat
  hdimc : Nat
  part : Nat
  npart : Nat
  ctxlen : Nat
  scaleS : BitVec 32
  massB : Nat
  reserved : Bool
  qseg : List Nat
  parent : List Nat
  qElems : List Nat
  qScales : List Nat
  freshElems : List Nat
  freshScales : List Nat
  length : Nat
  deriving DecidableEq, Repr

/-- A LOGITS payload (R114): the codes of the logits in the order of the layout. -/
structure LogitsMsg where
  handle : Nat
  step : Nat
  nnodes : Nat
  nstream : Nat
  lfmt : Nat
  vocab : List Nat
  reserved : Bool
  logits : List Nat
  length : Nat
  deriving DecidableEq, Repr

/-- A sampler parameter block (R117). -/
structure Block where
  active : Bool
  sampled : Bool
  window : Nat
  vocab : Nat
  temp : BitVec 32
  topk : Nat
  topp : BitVec 32
  minp : BitVec 32
  rep : BitVec 32
  freq : BitVec 32
  pres : BitVec 32
  seed : Nat
  stop : Nat
  deriving DecidableEq, Repr

/-- The body of an ADMIT command (R301). -/
structure AdmitBody where
  rid : Nat
  pallet : PalletNo
  pfmt : Nat
  nstream : Nat
  keyslot : SlotNo
  nlayer : Nat
  nkv : Nat
  hdimc : Nat
  dlayer : Nat
  dnkv : Nat
  dhdimc : Nat
  lmax : Nat
  reserved : Bool
  blocks : List Block
  deriving DecidableEq, Repr

/-- A descriptor entry (R310). -/
structure StepEntry where
  handle : Nat
  step : Nat
  ntok : Nat
  attach : Bool
  last : Bool
  offer : Bool
  incPos0 : Nat
  dstHandle : Nat
  dstMod : Nat
  dstPallet : Nat
  deadline : Nat
  deriving DecidableEq, Repr

/-- A prefetch hint (R310). -/
structure Hint where
  entry : Nat
  layer : Nat
  kvhead : Nat
  page : Nat
  deriving DecidableEq, Repr

/-- A carried result entry of a replay area (R157), in the fields of R127. -/
structure CarriedEntry where
  step : Nat
  status : Status
  frames : List (List Nat)
  deriving DecidableEq, Repr

/-- A step descriptor (R309). -/
structure StepDesc where
  batch : Nat
  pallet : PalletNo
  kind : Nat
  arrTarget : Nat
  accelMod : Nat
  accelQ : Nat
  imageId : Nat
  length : Nat
  reserved : Bool
  entries : List StepEntry
  hints : List Hint
  replay : List CarriedEntry
  deriving DecidableEq, Repr

/-- Handover message header (R137). `typ` is TYPE as it arrives: a reserved code is refused (R9), and of the others the command's
name says which it is. -/
structure HoHdr where
  typ : Nat
  status : Status
  xid : Nat
  rid : Nat
  srcHandle : Nat
  dstHandle : Nat
  srcMod : Nat
  dstMod : Nat
  homeSeq : Nat
  deriving DecidableEq, Repr

/-- The rest of an OFFER (R138). `kind` is KIND: 0 WHOLE, 1 INCREMENT, 2 and 3 reserved. -/
structure OfferBody where
  kind : Nat
  last : Bool
  pos0 : Nat
  ntok : Nat
  nunits : Nat
  reg : Nat
  keyslot : SlotNo
  dstPallet : PalletNo
  nspill : Nat
  image : Nat
  tExpire : Nat
  pending : List Nat
  deriving DecidableEq, Repr

/-- A page record of an extent image (R139): the 8 KiB element area and the 1 KiB side record (R82), with the layer, KV
head and page index that name it, and the spill payloads its fallback blocks name, in block order. -/
structure PageRec where
  layer : Nat
  head : Nat
  page : Nat
  elems : List Byte
  side : List Byte
  spill : List (List Byte)
  deriving DecidableEq, Repr

/-- The geometry and settings a request header carries (R130). -/
structure Geom where
  nlayer : Nat
  nkv : Nat
  hdimc : Nat
  dlayer : Nat
  dnkv : Nat
  dhdimc : Nat
  deriving DecidableEq, Repr

/-- A count table (R120): WINDOW, FILL, HEAD, VOCAB, the ring and the counts. -/
structure CountTable where
  window : Nat
  fill : Nat
  head : Nat
  vocab : Nat
  ring : NMap Nat
  count : NMap Nat
  deriving DecidableEq, Repr

/-- An increment lying in an inbox (R145), with its page records. -/
structure Increment where
  pos0 : Nat
  ntok : Nat
  last : Bool
  pending : List Nat
  nspill : Nat
  pages : List PageRec
  deriving DecidableEq, Repr

/-- A WHOLE extent image (R129, R139): the header fields it carries, the blocks, the count tables, the page records and
the inbox. -/
structure Image where
  geom : Geom
  keyslot : SlotNo
  nstream : Nat
  pfmt : Nat
  pendValid : Bool
  ctxlen : Nat
  nextStep : Nat
  cstep : Nat
  copyVer : Nat
  admitHandle : Nat
  resPages : Nat
  resSpill : Nat
  copyGroup : List Nat
  tAdmit : Nat
  tLast : Nat
  pending : List Nat
  blocks : List Block
  counts : NMap CountTable
  pages : List PageRec
  inbox : List Increment
  deriving DecidableEq, Repr

/-- The checks that a decode can fail (R199, R200). -/
inductive CheckFail where
  | code | len | crc
  deriving DecidableEq, Repr

/-- What the coded reads of an image met (R199 to R202): the answer of its table read, a stream header with its table area and
nothing where the source codes nothing; and for each damaged block the checks that its coded reads failed, in order. -/
structure WireRead where
  stream : List Byte
  damaged : List (List CheckFail)
  deriving DecidableEq, Repr

/-- What the shards of a copy gave: the image, if the stripes could be decoded, and what the coded reads met (R156, R201). -/
structure RebuildRead where
  img : Option Image
  wire : WireRead
  deriving DecidableEq, Repr

/-- Units of an image in order: the first, and how many (R202). -/
structure UnitRange where
  first : Nat
  count : Nat
  deriving DecidableEq, Repr

/-- The wait of a token at a brick for a page: its whole length in nanoseconds, and how long the cause that now applies has
lasted (R178). -/
structure StallWait where
  b : BrickNo
  va : Nat
  wait : Nat
  ns : Nat
  deriving DecidableEq, Repr

/-- A sector of the brick store that backs a scratch tile, and the address it is written back to (R174). -/
structure SectorAt where
  sector : Nat
  va : Nat
  deriving DecidableEq, Repr

/-- What a destination reads of an image's header and blocks before it answers a WHOLE OFFER (R142, R306). -/
structure ImageHdr where
  geom : Geom
  pfmt : Nat
  resPages : Nat
  resSpill : Nat
  blocks : List Block
  deriving DecidableEq, Repr

/-- A placement command less OP (R171). -/
structure PlaceCmd where
  pallet : PalletNo
  ld : LdNo
  stackMask : Nat
  npages : Nat
  va : Nat
  hostPa : Nat
  tag : Nat
  reserved : Bool
  deriving DecidableEq, Repr

/-! ## Host, dictionary and security operands -/

/-- Where a dictionary or command-object access comes from (R333, R335, R399). -/
inductive Via where
  | vdp (session : Nat)
  | unauth
  | mailbox (o : OwnerNo)
  deriving DecidableEq, Repr

/-- An object address (R381). -/
structure ObjAddr where
  index : Nat
  sub : Nat
  inst : Nat
  deriving DecidableEq, Repr

/-- A manifest (R318): `variants` are (NCOL, ENTRY[0..3]) in ascending NCOL; `loads` gives by NCOL the load records (BRICK,
LEN64, BSADDR, SRC) in order; `counts` the three count rules (BASE, PER_REQ, PER_TOKEN). -/
structure Manifest where
  magic : Nat
  version : Nat
  kind : Nat
  ncourse : Nat
  imageId : Nat
  geom : Geom
  nqh : Nat
  macPerNode : Nat
  counts : List (Nat × Nat × Nat)
  variants : List (Nat × List Nat)
  loads : List (Nat × List (Nat × Nat × Nat × Nat))
  deriving DecidableEq, Repr

/-- The keys of a key bundle (R349): XTS_KEY, LINK_KEY and MODEL_KEY as numbers of 64, 32 and 32 bytes. -/
structure SlotKeys where
  xts : Nat
  link : Nat
  model : Nat
  deriving DecidableEq, Repr

/-- The tenant policy of a key bundle (R349). -/
structure Policy where
  tenantId : Nat
  consent : Nat
  pallets : Nat
  lds : Nat
  minFwSvn : Nat
  minKilnSvn : Nat
  imageSigner : Nat
  reserved : Bool
  deriving DecidableEq, Repr

/-- What a release bundle that opens installs: the keys and the policy (R349). -/
structure KeyBundle where
  keys : SlotKeys
  policy : Policy
  deriving DecidableEq, Repr

/-- A GOULLOR frame as the MAC sees it (R220, R222): the outcome of each field the port checks, and of a transport packet its
opcode. -/
structure Frame where
  fcsOk : Bool
  daOk : Bool
  tpid : Nat
  etype : Nat
  gver : Nat
  kind : Nat
  op : Nat
  pcp : Fin 8
  plen : Nat
  bytes : Nat
  pause8023x : Bool
  deriving DecidableEq, Repr

/-- An image that the Kiln verifies (R337, R338): fields of its header, the SHAKE256 digest of its SIGNER_PK, that of its
plaintext body as the Kiln finds it beside the header's BODY_DIGEST, and how its signature and its tag come out. -/
structure ImageCheck where
  magic : Nat
  version : Nat
  typ : Nat
  svn : Nat
  imageId : Nat
  enc : Bool
  signer : Nat
  digest : Nat
  bodyDigest : Nat
  sigOk : Bool
  tagOk : Bool
  deriving DecidableEq, Repr

/-- A write of the LD control block (R365): the STATUS bits written 1, and EVENT_RING with EVENT_EN where their word is written. -/
structure LdControl where
  clear : BitVec 3
  events : Option (RingNo × Bool)
  deriving DecidableEq, Repr

/-- A configuration request (R359): a write, or a read of a word of the function's header or of one of its DVSECs, by ID. -/
inductive CfgAccess where
  | write
  | read (dvsec : Option Nat) (offset : Nat)
  deriving DecidableEq, Repr

/-- The data set of an Announce that the best master clock algorithm compares (R232), and the identity of the port that sent
it. -/
structure PtpMaster where
  priority1 : Nat
  clockClass : Nat
  accuracy : Nat
  variance : Nat
  priority2 : Nat
  identity : Nat
  steps : Nat
  sender : Nat
  deriving DecidableEq, Repr

/-- A source of time (R231, TB_SOURCE_ORDER codes). -/
inductive TbSource where
  | mgmtA | mgmtB | pps
  deriving DecidableEq, Repr

/-- Where a PTP message comes from (R230): the source, and the domain it names. -/
structure PtpFrom where
  src : TbSource
  domain : Nat
  deriving DecidableEq, Repr

/-- What a 100 µs window of a port shows beside the symbols corrected (R216): the lanes found without signal or lock, and the
codewords corrected and uncorrectable. -/
structure LaneWindow where
  lost : List (Fin 9)
  corrCw : Nat
  uncorrCw : Nat
  deriving DecidableEq, Repr

/-- The commands: one constructor per row of spec/opcode_table.json. -/
inductive Instr where
  /-- BASE_INSTRUCTION (R21. A micro-core executes an RV32IMFC base instruction; any exception raises a pallet fault. Core c of brick b executes the instruction word w (a compressed one in its low half).) -/
  | baseInstruction (b : BrickNo) (c : CoreNo) (w : Word) (t : Nat)
  /-- JX_TAKE (R49. JX.TAKE takes a token from the brick's queue into the brick store, or starts waiting for one.) -/
  | jxTake (b : BrickNo) (c : CoreNo) (rd rs1 : RegNo) (t : Nat)
  /-- JX_TAKENB (R49. JX.TAKENB takes a token if one is queued and otherwise returns 0 without waiting.) -/
  | jxTakenb (b : BrickNo) (c : CoreNo) (rd rs1 : RegNo) (t : Nat)
  /-- JX_PUT (R49. JX.PUT sends 56 bytes as a token to the next ring brick or to a named brick of the pallet, waiting for credit.) -/
  | jxPut (b : BrickNo) (c : CoreNo) (rd rs1 rs2 : RegNo) (t : Nat)
  /-- JX_CWAIT (R49. JX.CWAIT waits until a credit counter reaches an immediate value.) -/
  | jxCwait (b : BrickNo) (c : CoreNo) (rd rs1 : RegNo) (imm : BitVec 12) (t : Nat)
  /-- JX_AWAIT (R49. JX.AWAIT waits until a local arrival counter reaches a count.) -/
  | jxAwait (b : BrickNo) (c : CoreNo) (rd rs1 rs2 : RegNo) (t : Nat)
  /-- JX_ARRIVE (R49. JX.ARRIVE requests an ARRIVE to a counter ID with an increment and the core's step tag.) -/
  | jxArrive (b : BrickNo) (c : CoreNo) (rs1 rs2 : RegNo) (t : Nat)
  /-- JX_TBRLO (R52. JX.TBRLO returns the low timebase word and latches the high word.) -/
  | jxTbrlo (b : BrickNo) (c : CoreNo) (rd : RegNo) (t : Nat)
  /-- JX_TBRHI (R52. JX.TBRHI returns the latched high timebase word.) -/
  | jxTbrhi (b : BrickNo) (c : CoreNo) (rd : RegNo)
  /-- JX_BWAIT (R49. JX.BWAIT waits until a tagged bulk move has finished.) -/
  | jxBwait (b : BrickNo) (c : CoreNo) (rs1 : RegNo) (t : Nat)
  /-- JX_BMOVE (R53. JX.BMOVE starts a brick-store bulk move and returns its tag, waiting if 16 are outstanding.) -/
  | jxBmove (b : BrickNo) (c : CoreNo) (rd rs1 rs2 rs3 : RegNo) (t : Nat)
  /-- JX_VADD (R54. Per-lane FP16 or BF16 addition of two vector registers.) -/
  | jxVadd (b : BrickNo) (c : CoreNo) (fmt : LaneFmt) (vd vs1 vs2 : VRegNo)
  /-- JX_VMUL (R54. Per-lane multiplication of two vector registers.) -/
  | jxVmul (b : BrickNo) (c : CoreNo) (fmt : LaneFmt) (vd vs1 vs2 : VRegNo)
  /-- JX_VFMA (R54. Per-lane fused multiply-add into the destination vector register.) -/
  | jxVfma (b : BrickNo) (c : CoreNo) (fmt : LaneFmt) (vd vs1 vs2 : VRegNo)
  /-- JX_VMAX (R54. Per-lane maximum of two vector registers.) -/
  | jxVmax (b : BrickNo) (c : CoreNo) (fmt : LaneFmt) (vd vs1 vs2 : VRegNo)
  /-- JX_VMIN (R54. Per-lane minimum of two vector registers.) -/
  | jxVmin (b : BrickNo) (c : CoreNo) (fmt : LaneFmt) (vd vs1 vs2 : VRegNo)
  /-- JX_VRSUM (R54. Sums the four lanes in order into an FP32 register, rounding after each addition.) -/
  | jxVrsum (b : BrickNo) (c : CoreNo) (fmt : LaneFmt) (fd : RegNo) (vs1 : VRegNo)
  /-- JX_VBCAST (R54. Broadcasts an f-register converted to the lane format into every lane.) -/
  | jxVbcast (b : BrickNo) (c : CoreNo) (fmt : LaneFmt) (vd : VRegNo) (fs1 : RegNo)
  /-- JX_VLD (R54. Loads 8 aligned bytes into a vector register.) -/
  | jxVld (b : BrickNo) (c : CoreNo) (vd : VRegNo) (rs1 : RegNo) (imm : BitVec 12) (t : Nat)
  /-- JX_VST (R54. Stores a vector register to 8 aligned bytes.) -/
  | jxVst (b : BrickNo) (c : CoreNo) (vs2 : VRegNo) (rs1 : RegNo) (imm : BitVec 12) (t : Nat)
  /-- JX_WAIT_END (R51. A waiting JX.TAKE, CWAIT, AWAIT, BWAIT, PUT or BMOVE completes once its condition holds. The condition of the core's waiting instruction is looked at again.) -/
  | jxWaitEnd (b : BrickNo) (c : CoreNo) (t : Nat)
  /-- BULK_MOVE_DONE (R53. A bulk move finishes and frees its tag.) -/
  | bulkMoveDone (b : BrickNo) (c : CoreNo) (tag : Fin 16)
  /-- ARRIVE_SEND (R30. A deferred ARRIVE leaves once the core's earlier WR_ACKs are acknowledged and its bulk moves have finished.) -/
  | arriveSend (b : BrickNo) (c : CoreNo) (t : Nat)
  /-- RD (R29. A mortar RD request arrives and asks for up to 248 bytes.) -/
  | rd (tgt : MortarTarget) (h : MortarHdr) (addr len : Nat)
  /-- WR (R29. A mortar WR request arrives and writes data without acknowledgement.) -/
  | wr (tgt : MortarTarget) (h : MortarHdr) (addr : Nat) (data : List Byte)
  /-- WR_ACK (R29. A mortar WR_ACK arrives; the target writes the data and answers WR_DONE.) -/
  | wrAck (tgt : MortarTarget) (h : MortarHdr) (addr : Nat) (data : List Byte)
  /-- RD_DATA (R29. Data for an RD with the same tag arrives.) -/
  | rdData (b : BrickNo) (h : MortarHdr) (data : List Byte)
  /-- WR_DONE (R30. Acknowledgement of a WR_ACK arrives, possibly releasing a deferred ARRIVE.) -/
  | wrDone (b : BrickNo) (h : MortarHdr)
  /-- ERR (R29. A mortar ERR response with a status arrives for a request tag.) -/
  | err (b : BrickNo) (h : MortarHdr) (status : Status)
  /-- TOKEN (R39. A work token arrives at a brick, which takes it or passes it along the claim ring. A work token arrives at brick b.) -/
  | token (b : BrickNo) (tok : Token)
  /-- TOKEN_CREDIT_RETURN (R40. A token credit returns and a waiting token is passed on, or an entry brick resumes putting tokens. A token credit of the next ring brick returns to brick b.) -/
  | tokenCreditReturn (b : BrickNo)
  /-- ARM (R42. An ARM reaches an arrival counter and arms it with tag and target.) -/
  | arm (k : CounterId) (tag target : Nat) (t : Nat)
  /-- ARRIVE (R42. An ARRIVE reaches a counter, which adds, ignores a stale tag, reaches DONE or faults.) -/
  | arrive (k : CounterId) (tag n : Nat) (t : Nat)
  /-- COUNTER_RELEASE (R42. A RELEASE returns a DONE arrival counter to IDLE.) -/
  | counterRelease (k : CounterId)
  /-- STEP_DONE (R44. A counter's STEP_DONE reaches the management cores.) -/
  | stepDone (p : PalletNo) (tag : Nat) (t : Nat)
  /-- HALT (R22. A HALT control packet halts the pallet's bricks.) -/
  | halt (p : PalletNo)
  /-- FLIT_UNCORRECTABLE (R418. A flit arrives with an uncorrectable word or a reserved TYPE or node; the named or every loaded pallet faults.) -/
  | flitUncorrectable (p : PalletNo) (node src : Nat) (headerBad : Bool) (t : Nat)
  /-- ISLAND_TEMP_SAMPLE (R36. Every 10 µs each island's temperature is sampled and neighbour and junction thermal rules are applied. The temperatures sampled, in 0.5 °C units, of the islands whose temperature changed.) -/
  | islandTempSample (temps : List (BrickNo × Int)) (t : Nat)
  /-- PWR_ISLAND_SETTING (R34. A write requests an island setting, which is checked and applied or refused.) -/
  | pwrIslandSetting (via : Via) (b : BrickNo) (value : BitVec 16)
  /-- GOVERNOR_DECISION (R451. Every 5 µs the governor compares averaged power with the budget and lowers or raises a class of islands. Delivered power averaged over 50 µs and over 1 ms, and the input's power, voltage and current.) -/
  | governorDecision (mw50us mw1ms inputMw inputMv inputMa : Nat) (t : Nat)
  /-- STEP (R311. A STEP entry with its descriptor becomes visible on a STEP ring, and the ring enters its step domain or the descriptor is refused whole.) -/
  | step (o : OwnerNo) (r : RingNo) (d : StepDesc) (t : Nat)
  /-- STEP_START (R314. At a READY pallet's step boundary the step domain is popped, the counter armed and the popped step started.) -/
  | stepStart (p : PalletNo) (t : Nat)
  /-- HELD_ENTRY_RESUME (R13. A held entry's work resumes when its increment is PLACED or its move fails. Entry e of the pallet's running step.) -/
  | heldEntryResume (p : PalletNo) (e : Nat) (t : Nat)
  /-- STEP_BOUNDARY (R41. When the counter is DONE and no token of the step remains, the pallet reaches its step boundary.) -/
  | stepBoundary (p : PalletNo) (t : Nat)
  /-- QUANTISER_GO (R74. A write of GO queues a quantiser command, or faults on a bad field. Core c stores 1 to GO of a quantiser slot.) -/
  | quantiserGo (b : BrickNo) (c : CoreNo) (slot : Fin 8) (t : Nat)
  /-- QUANTISER_DONE (R75. A quantiser command completes or stops at SPILL_FULL, and its counts are charged. The brick's quantiser ends the command at the head of its queue.) -/
  | quantiserDone (b : BrickNo) (t : Nat)
  /-- ATT_CALL (R87. An attention call arrives and is checked, dropped, refused, held or queued for service.) -/
  | attCall (port : PortNo) (pkt : Pkt) (call : AttCall) (t : Nat)
  /-- ATT_CALL_SERVICE (R90. A held or queued call starts to be served, installing its fresh rows and selecting pages. The first waiting call of the triple starts to be served.) -/
  | attCallService (handle layer step : Nat) (t : Nat)
  /-- ATT_ANSWER (R91. The call's work completes and its answer header and areas are sent. The work of the call being served is complete.) -/
  | attAnswer (handle layer step : Nat) (paused : Bool) (t : Nat)
  /-- ATT_DEADLINE (R93. 4 µs after a DECODE call, an unfinished answer is replaced by a TIMEOUT header.) -/
  | attDeadline (handle layer step : Nat) (t : Nat)
  /-- DRAFT_TREE (R113. A complete draft tree is sent to the accelerator endpoint. The draft model's logits by node, stream and token, in FP32.) -/
  | draftTree (handle : Nat) (logits : List (List (List (BitVec 32)))) (t : Nat)
  /-- LOGITS (R115. A LOGITS message arrives and is dropped, judged malformed or accepted for verification.) -/
  | logits (port : PortNo) (pkt : Pkt) (msg : LogitsMsg) (t : Nat)
  /-- DRF_LOGITS_TIMEOUT (R495. DRF_LOGITS_WAIT_US after DRAFT_TREE without valid LOGITS, the entry ends with TIMEOUT.) -/
  | drfLogitsTimeout (handle : Nat) (t : Nat)
  /-- ADMIT (R302. The ADMIT command checks and admits a request and returns its handle.) -/
  | admitCmd (o : OwnerNo) (r : RingNo) (tag : Nat) (body : AdmitBody) (t : Nat)
  /-- REQ_UPDATE (R118. The request-update command writes sampler blocks from the next step on, or is refused.) -/
  | reqUpdate (o : OwnerNo) (r : RingNo) (tag handle mask : Nat) (blocks : List Block) (t : Nat)
  /-- RESERVE (R307. The reserve command changes a request's LMAX, judging only the difference.) -/
  | reserve (o : OwnerNo) (r : RingNo) (tag handle lmax : Nat) (t : Nat)
  /-- RELEASE (R308. The release command marks a request for freeing and refuses its later entries.) -/
  | release (o : OwnerNo) (r : RingNo) (tag handle : Nat) (t : Nat)
  /-- RELEASE_FREE (R308. At the first boundary with no step naming it, a released request is freed and its slot quarantined.) -/
  | releaseFree (slot : Nat) (t : Nat)
  /-- CANCEL (R316. The cancel command marks a request's step CANCELLED_DROPPED or waits for it.) -/
  | cancel (o : OwnerNo) (r : RingNo) (tag handle step : Nat) (t : Nat)
  /-- MOVE (R141. The host move command requests a WHOLE move of a request.) -/
  | move (o : OwnerNo) (r : RingNo) (tag rid dst : Nat) (dstPallet : PalletNo) (alt : Nat) (t : Nat)
  /-- RQS_MOVE (R141. A write of RQS_MOVE requests a WHOLE move of a request.) -/
  | rqsMove (via : Via) (rid dst : Nat) (dstPallet : PalletNo) (alt : Nat) (t : Nat)
  /-- MOVE_OFFER (R140. At a boundary with no step naming the request, the source enters MOVING_OUT and sends OFFER.) -/
  | moveOffer (slot : Nat) (t : Nat)
  /-- OFFER_WHOLE (R142. A destination receives a WHOLE OFFER and reserves and answers PULL, or refuses it. hdr is what the image's header carries.) -/
  | offerWhole (port : PortNo) (pkt : Pkt) (h : HoHdr) (body : OfferBody) (hdr : ImageHdr) (t : Nat)
  /-- OFFER_INCREMENT (R145. A destination receives an INCREMENT OFFER for its resident request and pulls it into the inbox.) -/
  | offerIncrement (port : PortNo) (pkt : Pkt) (h : HoHdr) (body : OfferBody) (t : Nat)
  /-- PULL (R141. The source receives PULL and serves the image or tries the alternate.) -/
  | pull (port : PortNo) (pkt : Pkt) (h : HoHdr) (t : Nat)
  /-- OFFER_EXPIRY (R141. T_EXPIRE passes on an OFFERED move, which is treated as a TIMEOUT refusal.) -/
  | offerExpiry (slot : Nat) (t : Nat)
  /-- IMAGE_READ_DONE (R142. The destination has read the image, rewritten handles and slots, and starts the flush. The image read for the move xid of module srcMod; for an increment its page records; wire is what its coded reads met.) -/
  | imageReadDone (srcMod xid : Nat) (img : Image) (wire : WireRead) (t : Nat)
  /-- FLUSH_COMPLETE (R175. A flush completes, allowing PLACED, COPY_COMMIT, FLUSH_ACK, a PUT's ARRIVE or a save to proceed. The flush with this number is complete.) -/
  | flushComplete (id : Nat) (t : Nat)
  /-- PLACED (R135. The primary receives PLACED and accepts it by HOME_SEQ compare or refuses it.) -/
  | placed (port : PortNo) (pkt : Pkt) (h : HoHdr) (tSent : Nat) (t : Nat)
  /-- HOME_REGISTER_MIRROR (R134. The backup receives a forwarded home-register update and acknowledges it.) -/
  | homeRegisterMirror (port : PortNo) (pkt : Pkt) (rid handle homeMod homeSeq copyVer cstep tHome : Nat) (t : Nat)
  /-- HOME_UPDATE_ACK (R134. After the backup's acknowledgement the primary acknowledges the home update.) -/
  | homeUpdateAck (rid : Nat) (t : Nat)
  /-- PLACED_RESPONSE (R142. The destination learns that its PLACED was accepted or refused and becomes home or discards.) -/
  | placedResponse (rid : Nat) (accepted : Bool) (t : Nat)
  /-- PLACED_RESEND_EXPIRY (R142. RQS_PLACE_WAIT after the first PLACED, a destination stops resending and frees everything.) -/
  | placedResendExpiry (rid : Nat) (t : Nat)
  /-- HANDOVER_RELEASE (R141. The source receives RELEASE, frees the pages, quarantines the slot and completes the move OK.) -/
  | handoverRelease (port : PortNo) (pkt : Pkt) (h : HoHdr) (t : Nat)
  /-- PLACE_WAIT_EXPIRY (R141. With no RELEASE in time after PULL, the source reads the home register.) -/
  | placeWaitExpiry (slot : Nat) (t : Nat)
  /-- MOVE_STUCK (R141. Neither register holder answers and the source raises an error event.) -/
  | moveStuck (slot : Nat) (t : Nat)
  /-- COPY_REFRESH (R150. At a refresh point, or when its predecessor commits, the home snapshots and sends COPY_WRITEs.) -/
  | copyRefresh (slot : Nat) (t : Nat)
  /-- COPY_WRITE (R151. A copy member receives a shard unit and stores it beside the committed version. unitOk says that the unit's decode checks pass (R199).) -/
  | copyWrite (port : PortNo) (pkt : Pkt) (h : HoHdr) (version stripe : Nat) (shard : Fin 6) (unit : List Byte) (unitOk : Bool) (t : Nat)
  /-- COPY_COMMIT_SEND (R152. Once every live member has acknowledged, the home sends COPY_COMMIT.) -/
  | copyCommitSend (slot : Nat) (t : Nat)
  /-- COPY_COMMIT (R152. A member switches to the new copy version and the primary records COPY_VER and CSTEP.) -/
  | copyCommit (port : PortNo) (pkt : Pkt) (h : HoHdr) (version cstep stripes : Nat) (t : Nat)
  /-- RQS_REBUILD (R156. A write of RQS_REBUILD starts a rebuild from the coded copy.) -/
  | rqsRebuild (via : Via) (rid : Nat) (members : List Nat) (p : PalletNo) (t : Nat)
  /-- REBUILD_READ_DONE (R156. Shards are read and the object rebuilt; PLACED is sent with the register's HOME_SEQ. The image the shards give back, none if some stripe has fewer than four good shards, and what its coded reads met.) -/
  | rebuildReadDone (rid homeSeq copyVer goodMembers : Nat) (read : RebuildRead) (t : Nat)
  /-- RQS_REGROUP (R154. A write of RQS_REGROUP changes one request's copy group now or at its next boundary.) -/
  | rqsRegroup (via : Via) (rid : Nat) (members : List Nat)
  /-- PLACE_HBM (R172. A placement command moves pages to permitted HBM stacks.) -/
  | placeHbm (o : OwnerNo) (r : RingNo) (cmd : PlaceCmd) (t : Nat)
  /-- PLACE_HOST (R172. A placement command moves pages to the host memory of an LD.) -/
  | placeHost (o : OwnerNo) (r : RingNo) (cmd : PlaceCmd) (t : Nat)
  /-- FLUSH (R175. A placement FLUSH command writes back a range.) -/
  | flush (o : OwnerNo) (r : RingNo) (cmd : PlaceCmd) (t : Nat)
  /-- PLACEMENT_DONE (R173. The last leaf switch and frame free end a placement command.) -/
  | placementDone (id : Nat) (t : Nat)
  /-- TRANSLATION_WALK_DONE (R169. A gather walk completes and fills the TLB.) -/
  | translationWalkDone (b : BrickNo) (p : PalletNo) (va : Nat) (t : Nat)
  /-- PREFETCH (R176. The gather engine prefetches known pages into a chosen brick store.) -/
  | prefetch (p : PalletNo) (va : Nat) (t : Nat)
  /-- STALL_THRESHOLD (R178. A token's memory wait exceeds MEM_STALL_NS and is counted as a stall by cause. The brick and the page of the token that waits, the nanoseconds of its wait so far, and those of them under the cause that now applies.) -/
  | stallThreshold (p : PalletNo) (w : StallWait) (t : Nat)
  /-- WRITEBACK_COMPLETE (R174. The HBM controller completes a sector write and its dirty bit clears. va is the scratch address that the sector's data goes to.) -/
  | writebackComplete (b : BrickNo) (x : SectorAt)
  /-- PROTECTED_READ (R185. A read of a protected word completes and is checked, corrected or handled as uncorrectable. The 80 bits read.) -/
  | protectedRead (place : WordPlace) (addr : Nat) (word : BitVec 64 × BitVec 16) (t : Nat)
  /-- HBM_SCRUB (R186. An HBM controller scrubs its next line.) -/
  | hbmScrub (stack : Fin 8) (data : List (BitVec 64)) (check : List (BitVec 16)) (place : WordPlace) (t : Nat)
  /-- BRICK_SCRUB (R186. A brick scrubs its next brick-store or accumulator word. The word read, and its place: in the accumulator file or in the brick store, and its address there.) -/
  | brickScrub (b : BrickNo) (data : BitVec 64) (check : BitVec 16) (acc : Bool) (addr : Nat) (t : Nat)
  /-- IMAGE_TABLE_READ (R202. A coded table read of an image returns the stream header and tables.) -/
  | imageTableRead (rid : Nat) (reader : Nat)
  /-- IMAGE_UNIT_READ (R202. A unit-range read returns index entries and coded or raw block bytes. The first units read, or stripes of a member's shard, and how many; coded: the read asks for coding.) -/
  | imageUnitRead (rid reader : Nat) (units : UnitRange) (coded : Bool)
  /-- CMP_VERIFY (R206. A write of CMP_VERIFY starts decoding every stored block of a RID in CRC mode.) -/
  | cmpVerify (via : Via) (rid : Nat)
  /-- CMP_VERIFY_DONE (R206. Verification completes with OK or a list of damaged units. The units or stripes that the HBM gave back damaged, with the check each failed.) -/
  | cmpVerifyDone (rid : Nat) (damaged : List (Nat × CheckFail))
  /-- PORT_ENABLE (R211. LNK_PORT_ENABLE written 1 starts negotiation.) -/
  | portEnable (port : PortNo) (via : Via)
  /-- PORT_DISABLE (R211. LNK_PORT_ENABLE written 0 closes the MAC and disables the port.) -/
  | portDisable (port : PortNo) (via : Via)
  /-- NEGOTIATION_DONE (R211. The partner agrees on the PMD and training starts.) -/
  | negotiationDone (port : PortNo) (spare : Bool)
  /-- NEGOTIATION_TIMEOUT (R211. No agreement within 3 s restarts negotiation.) -/
  | negotiationTimeout (port : PortNo)
  /-- TRAINING_DONE (R211. Lanes train, possibly sparing one, and alignment starts. The lane training has spared in each direction, if any.) -/
  | trainingDone (port : PortNo) (sparedRx sparedTx : Option (Fin 9))
  /-- TRAINING_FAIL (R211. Training fails otherwise and the port waits 100 ms.) -/
  | trainingFail (port : PortNo)
  /-- TRAINING_WAIT_EXPIRY (R211. The 100 ms wait after a training failure ends and negotiation restarts.) -/
  | trainingWaitExpiry (port : PortNo)
  /-- ALIGNMENT_DONE (R211. PCS lanes align with 1 ms clean and the port goes UP or UP_SPARED.) -/
  | alignmentDone (port : PortNo)
  /-- ALIGNMENT_TIMEOUT (R211. No alignment within 50 ms returns the port to negotiation.) -/
  | alignmentTimeout (port : PortNo)
  /-- ALIGNMENT_LOSS (R211. Loss of PCS alignment takes the port down.) -/
  | alignmentLoss (port : PortNo) (t : Nat)
  /-- PREDICTIVE_TRIGGER (R216. At the end of a 100 µs window, a lane's corrected symbols above threshold trigger a predictive remap. The symbols corrected in the window on physical lanes 0 to 8, the lanes found without signal or lock in it, and the codewords corrected and uncorrectable in it.) -/
  | predictiveTrigger (port : PortNo) (symbols : List Nat) (w : LaneWindow) (t : Nat)
  /-- SUDDEN_TRIGGER (R216. A lane loses signal or CDR lock and triggers a sudden remap or takes the port down. The lanes lost at this instant.) -/
  | suddenTrigger (port : PortNo) (lanes : List (Fin 9)) (t : Nat)
  /-- MIRROR_REQ (R217. Four copies of MIRROR_REQ make the transmitter mirror the lane onto the spare.) -/
  | mirrorReq (port : PortNo) (llane : Fin 8) (plane : Fin 9) (sudden : Bool) (seq : Nat)
  /-- REMAP_SWITCH (R217. After deskew and comparison the receiver switches the lane to the spare and sends SWITCHED.) -/
  | remapSwitch (port : PortNo)
  /-- SWITCHED (R217. The transmitter stops data on the old lane and sends the training pattern.) -/
  | switched (port : PortNo) (llane : Fin 8) (plane : Fin 9) (seq : Nat)
  /-- GOULLOR_FRAME (R222. A frame is received whole, checked and delivered or discarded.) -/
  | goullorFrame (port : PortNo) (f : Frame) (t : Nat)
  /-- XOFF_REPEAT (R226. Every 10 µs above XON the pause frame is repeated.) -/
  | xoffRepeat (port : PortNo) (cls : Fin 8)
  /-- XON (R226. Occupancy falls to the XON level as frames are taken, and pause 0 is sent. Bytes of the class taken from the receive buffer.) -/
  | xon (port : PortNo) (cls : Fin 8) (taken : Nat)
  /-- PFC_FRAME (R225. A received PFC frame sets or replaces the pause times of classes.) -/
  | pfcFrame (port : PortNo) (enable : Nat) (times : List Nat) (t : Nat)
  /-- PAUSE_EXPIRY (R225. A class's pause time runs out and the class resumes.) -/
  | pauseExpiry (port : PortNo) (cls : Fin 8) (t : Nat)
  /-- PFC_STORM (R229. A class paused for LNK_STORM_US is reported degraded.) -/
  | pfcStorm (port : PortNo) (cls : Fin 8) (t : Nat)
  /-- PTP_SYNC (R230. A PTP Sync message is timestamped and used for offset. Origin time (TAI ns) and local receive time of the Sync.) -/
  | ptpSync (x : PtpFrom) (oneStep : Bool) (origin rx : Int) (t : Nat)
  /-- PTP_FOLLOW_UP (R230. A two-step master's Follow_Up completes a Sync.) -/
  | ptpFollowUp (x : PtpFrom) (origin : Int) (t : Nat)
  /-- PTP_DELAY_REQ (R230. The slave sends a Delay_Req on its schedule.) -/
  | ptpDelayReq (src : TbSource) (t : Nat)
  /-- PTP_DELAY_RESP (R234. A Delay_Resp completes a delay measurement and drives the timebase state machine. Receive time the master reports (TAI ns).) -/
  | ptpDelayResp (x : PtpFrom) (rxTime : Int) (t : Nat)
  /-- PTP_ANNOUNCE (R232. An Announce feeds master selection. The data set that the Announce carries.) -/
  | ptpAnnounce (src : TbSource) (domain : Nat) (master : PtpMaster)
  /-- TB_PPS_IN_EDGE (R231. A rising edge of TB_PPS_IN marks a whole second and feeds the PPS source.) -/
  | tbPpsInEdge (tenMPresent consistent : Bool) (t : Nat)
  /-- TB_SOURCE_LOSS (R234. No source stays qualified and the timebase enters HOLDOVER or FREERUN.) -/
  | tbSourceLoss (src : TbSource) (t : Nat)
  /-- TB_HOLDOVER_EXPIRY (R234. TB_HOLDOVER_S elapses in HOLDOVER, an event is raised and FREERUN entered.) -/
  | tbHoldoverExpiry (t : Nat)
  /-- TB_HOLDOVER_S (R498. A write of TB_HOLDOVER_S applies to the holdover in progress.) -/
  | tbHoldoverS (via : Via) (value : Nat) (t : Nat)
  /-- TB_PPS_OUT (R236. TB_PPS_OUT rises as TIME64 becomes a multiple of 10^9.) -/
  | tbPpsOut (t : Nat)
  /-- SEND (R259. A SEND packet arrives and is placed into a posted buffer.) -/
  | send (port : PortNo) (pkt : Pkt) (t : Nat)
  /-- SEND_IMM (R259. A SEND_IMM packet arrives and reports IMM at the RQ.) -/
  | sendImm (port : PortNo) (pkt : Pkt) (t : Nat)
  /-- WRITE (R265. A WRITE packet arrives and is placed under its registration.) -/
  | write (port : PortNo) (pkt : Pkt) (t : Nat)
  /-- WRITE_IMM (R259. A WRITE_IMM packet is placed and on LAST consumes a posted buffer.) -/
  | writeImm (port : PortNo) (pkt : Pkt) (t : Nat)
  /-- READ_REQ (R265. A READ_REQ arrives and the target returns READ_RESP data.) -/
  | readReq (port : PortNo) (pkt : Pkt) (t : Nat)
  /-- READ_RESP (R257. Read response data is placed locally.) -/
  | readResp (port : PortNo) (pkt : Pkt) (t : Nat)
  /-- ACK (R248. An ACK releases acknowledged packets and completes covered entries.) -/
  | ack (port : PortNo) (pkt : Pkt) (t : Nat)
  /-- NAK_SEQ (R248. A SEQ NAK makes the sender resend from ACK_PSN.) -/
  | nakSeq (port : PortNo) (pkt : Pkt) (t : Nat)
  /-- NAK_NOT_READY (R248. A NOT_READY NAK releases earlier packets and starts the backoff.) -/
  | nakNotReady (port : PortNo) (pkt : Pkt) (t : Nat)
  /-- NAK_NO_FLOW (R248. A NO_FLOW NAK opens a new incarnation and resends.) -/
  | nakNoFlow (port : PortNo) (pkt : Pkt) (t : Nat)
  /-- NAK_STATUS (R248. A STATUS NAK ends the message with its status, or re-routes it on EPOCH_STALE.) -/
  | nakStatus (port : PortNo) (pkt : Pkt) (t : Nat)
  /-- FLUSH_ACK (R257. A FLUSH_ACK completes a flushed WRITE.) -/
  | flushAck (port : PortNo) (pkt : Pkt) (t : Nat)
  /-- NR_BACKOFF_EXPIRY (R248. The NOT_READY backoff ends and the sender resends.) -/
  | nrBackoffExpiry (flow : Nat) (t : Nat)
  /-- TRN_TIMER_EXPIRY (R249. 8 µs without an advancing ACK resends the flow and may move it to another port.) -/
  | trnTimerExpiry (flow : Nat) (t : Nat)
  /-- FLOW_FAIL (R250. A packet that can no longer be resent fails its flow and ends its messages.) -/
  | flowFail (flow : Nat) (t : Nat)
  /-- FLOW_IDLE_EXPIRY (R244. An acknowledged flow idle for TRN_FLOW_IDLE_NS closes its incarnation.) -/
  | flowIdleExpiry (flow : Nat) (t : Nat)
  /-- FLOW_ENTRY_WAIT_END (R244. A packet waiting for a sender flow entry opens a flow when one frees.) -/
  | flowEntryWaitEnd (t : Nat)
  /-- RECEIVER_FLOW_EXPIRY (R245. A receiver flow entry is freed 500 µs + δ after its last accepted BIRTH.) -/
  | receiverFlowExpiry (srcMod flow : Nat) (t : Nat)
  /-- CONTEXT_FETCH_DONE (R254. A queue context arrives in the cache and miss-buffer packets are handed on in order.) -/
  | contextFetchDone (q : QueueNo) (t : Nat)
  /-- CONTEXT_IDLE_MOVE (R253. A context idle for TRN_CTX_IDLE_US moves to granted host memory.) -/
  | contextIdleMove (q : QueueNo) (t : Nat)
  /-- QUEUE_DOORBELL (R368. A producer doorbell for an SQ or RQ makes new work queue entries visible.) -/
  | queueDoorbell (o : OwnerNo) (q : QueueNo) (index : Nat) (t : Nat)
  /-- CQ_DOORBELL (R258. A CQ consumer doorbell frees space and releases held completions.) -/
  | cqDoorbell (o : OwnerNo) (q : QueueNo) (index : Nat) (t : Nat)
  /-- WQE_SEND (R257. An SQ SEND entry is sent as packets on its flow.) -/
  | wqeSend (q : QueueNo) (w : Wqe) (t : Nat)
  /-- WQE_SEND_IMM (R257. An SQ SEND_IMM entry is sent.) -/
  | wqeSendImm (q : QueueNo) (w : Wqe) (t : Nat)
  /-- WQE_WRITE (R257. An SQ WRITE entry is sent, strict or relaxed, with optional FLUSH.) -/
  | wqeWrite (q : QueueNo) (w : Wqe) (t : Nat)
  /-- WQE_WRITE_IMM (R257. An SQ WRITE_IMM entry is sent.) -/
  | wqeWriteImm (q : QueueNo) (w : Wqe) (t : Nat)
  /-- WQE_READ (R257. An SQ READ entry sends a READ_REQ.) -/
  | wqeRead (q : QueueNo) (w : Wqe) (t : Nat)
  /-- WAIT_CQ (R257. A WAIT_CQ entry blocks its queue until a CQ count is reached.) -/
  | waitCq (q : QueueNo) (w : Wqe) (t : Nat)
  /-- WAIT_CQ_SATISFIED (R257. The awaited CQ count is reached and the queue continues.) -/
  | waitCqSatisfied (q : QueueNo) (t : Nat)
  /-- NOP (R257. A NOP entry completes in order.) -/
  | nop (q : QueueNo) (w : Wqe) (t : Nat)
  /-- QMODIFY_READY (R252. TRN_QMODIFY to READY sets up a queue from RESET.) -/
  | qmodifyReady (via : Via) (q : QueueNo) (m : QModify) (t : Nat)
  /-- QMODIFY_RESET (R252. TRN_QMODIFY to RESET returns an idle or errored queue to RESET.) -/
  | qmodifyReset (via : Via) (q : QueueNo) (m : QModify)
  /-- QMODIFY_ERROR (R252. TRN_QMODIFY to ERROR gives the queue an error event with FLUSHED.) -/
  | qmodifyError (via : Via) (q : QueueNo) (m : QModify) (t : Nat)
  /-- REGISTER (R266. The register command fills a FREE registration with a new generation.) -/
  | register (o : OwnerNo) (r : RingNo) (tag : Nat) (p : PalletNo) (access keyId va length : Nat) (t : Nat)
  /-- REVOKE (R266. The revoke command moves a registration to REVOKING.) -/
  | revoke (o : OwnerNo) (r : RingNo) (tag rkey : Nat) (t : Nat)
  /-- REVOKE_DRAINED (R266. INFLIGHT reaches 0 and CXL writes complete; the revoke completes and the entry is DRAINED.) -/
  | revokeDrained (idx : Fin 65536) (t : Nat)
  /-- REGISTRATION_FREE (R266. 500 µs after DRAINED a registration becomes FREE.) -/
  | registrationFree (idx : Fin 65536) (t : Nat)
  /-- RMF_MAP_STAGE (R291. A staged composition record is written or marked for removal.) -/
  | rmfMapStage (via : Via) (m : MapRecord)
  /-- RMF_MAP_COMMIT (R270. A commit makes a new epoch current in one update cycle, or is refused.) -/
  | rmfMapCommit (via : Via) (epoch : Nat)
  /-- RMF_MAP_DISCARD (R269. The staged set is emptied.) -/
  | rmfMapDiscard (via : Via)
  /-- EPOCH_PURGE (R278. An old epoch whose in-flight count is zero is purged in epoch order.) -/
  | epochPurge
  /-- LOAD (R274. A rack LOAD command is sent as RM_LOAD.) -/
  | load (b : BrickNo) (c : CoreNo) (slot : Fin 16) (cmd : RackCmd) (t : Nat)
  /-- STORE (R274. A rack STORE command is sent as RM_STORE.) -/
  | store (b : BrickNo) (c : CoreNo) (slot : Fin 16) (cmd : RackCmd) (t : Nat)
  /-- ATOMIC (R274. A rack ATOMIC command is sent as RM_ATOMIC.) -/
  | atomic (b : BrickNo) (c : CoreNo) (slot : Fin 16) (cmd : RackCmd) (t : Nat)
  /-- PUT (R274. A rack PUT command is sent as RM_PUT packets.) -/
  | put (b : BrickNo) (c : CoreNo) (slot : Fin 16) (cmd : RackCmd) (t : Nat)
  /-- GET (R274. A rack GET command is sent as RM_GET_REQ.) -/
  | get (b : BrickNo) (c : CoreNo) (slot : Fin 16) (cmd : RackCmd) (t : Nat)
  /-- RM_LOAD (R273. HOME judges an RM_LOAD and answers RM_LOAD_RESP.) -/
  | rmLoad (port : PortNo) (pkt : Pkt) (region : Nat) (t : Nat)
  /-- RM_LOAD_RESP (R274. Load data lands in the brick store and completes the command.) -/
  | rmLoadResp (port : PortNo) (pkt : Pkt) (t : Nat)
  /-- RM_STORE (R273. HOME judges the writer and places an RM_STORE.) -/
  | rmStore (port : PortNo) (pkt : Pkt) (region : Nat) (t : Nat)
  /-- FETCH_ADD (R274. HOME applies an atomic fetch-and-add once.) -/
  | fetchAdd (port : PortNo) (pkt : Pkt) (region : Nat) (t : Nat)
  /-- SWAP (R274. HOME applies an atomic swap once.) -/
  | swap (port : PortNo) (pkt : Pkt) (region : Nat) (t : Nat)
  /-- CAS (R274. HOME applies an atomic compare-and-swap once.) -/
  | cas (port : PortNo) (pkt : Pkt) (region : Nat) (t : Nat)
  /-- FETCH_MAXU (R274. HOME applies an atomic unsigned maximum once.) -/
  | fetchMaxu (port : PortNo) (pkt : Pkt) (region : Nat) (t : Nat)
  /-- FETCH_MINU (R274. HOME applies an atomic unsigned minimum once.) -/
  | fetchMinu (port : PortNo) (pkt : Pkt) (region : Nat) (t : Nat)
  /-- FETCH_OR (R274. HOME applies an atomic OR once.) -/
  | fetchOr (port : PortNo) (pkt : Pkt) (region : Nat) (t : Nat)
  /-- FETCH_AND (R274. HOME applies an atomic AND once.) -/
  | fetchAnd (port : PortNo) (pkt : Pkt) (region : Nat) (t : Nat)
  /-- RM_ATOMIC_RESP (R274. An atomic's prior value is written to RESULT and the command completes.) -/
  | rmAtomicResp (port : PortNo) (pkt : Pkt) (t : Nat)
  /-- RM_PUT (R274. HOME places an RM_PUT packet.) -/
  | rmPut (port : PortNo) (pkt : Pkt) (region : Nat) (t : Nat)
  /-- RM_GET_REQ (R274. HOME answers RM_GET_REQ with RM_GET_RESP data.) -/
  | rmGetReq (port : PortNo) (pkt : Pkt) (region : Nat) (t : Nat)
  /-- RM_GET_RESP (R274. GET data lands and the command completes at its last packet.) -/
  | rmGetResp (port : PortNo) (pkt : Pkt) (t : Nat)
  /-- RMF_DEAD_SET (R281. RMF_DEAD written 1 ends work to the module with TARGET_DEAD and halts dependent pallets.) -/
  | rmfDeadSet (via : Via) (m : Nat) (t : Nat)
  /-- RMF_DEAD_CLEAR (R281. RMF_DEAD written 0 allows traffic to the replaced module again.) -/
  | rmfDeadClear (via : Via) (m : Nat)
  /-- COLL_ABORT (R282. A member receives COLL_ABORT and aborts the group step.) -/
  | collAbort (port : PortNo) (pkt : Pkt) (a : CollAbort) (t : Nat)
  /-- COLL_ABORT_UNREACHABLE (R422. An abort undelivered after 50 µs raises PEER_UNREACHABLE.) -/
  | collAbortUnreachable (gid step member : Nat) (t : Nat)
  /-- ORDER_INSERT (R295. An ORDER entry is inserted in VFT order, waiting when blocks are full.) -/
  | orderInsert (domain entity cost : Nat)
  /-- SLACK_MOVE (R296. The engine moves an entry across a block boundary to keep slack.) -/
  | slackMove (blk : Nat)
  /-- DOMAIN_REBASE (R327. A domain's virtual time reaching 2^62 is rebased.) -/
  | domainRebase (domain : Nat)
  /-- PORT_BURST_POP (R325. With classes 7–4 idle the port pops its domain and sends a burst.) -/
  | portBurstPop (port : PortNo) (t : Nat)
  /-- SHAPER_REFILL (R329. At each refill instant shapers add tokens or reset, and committed shapers take effect.) -/
  | shaperRefill (t : Nat)
  /-- PAL_IMAGE_APPLY (R497. At the pallet's idle point a PAL_IMAGE group is checked, and saving, loading or unloading starts.) -/
  | palImageApply (p : PalletNo) (t : Nat)
  /-- PALLET_SAVE_DONE (R319. A save finishes and the pallet loads, restores or becomes EMPTY.) -/
  | palletSaveDone (p : PalletNo) (t : Nat)
  /-- PALLET_LOAD_DONE (R319. Loads and any restore finish and the pallet is READY. marchOk is the outcome of the repeated march test of R419, true where none runs.) -/
  | palletLoadDone (p : PalletNo) (marchOk : Bool) (t : Nat)
  /-- GEOMETRY_APPLY (R47. When every changed pallet is at a boundary, the geometry set is checked and applied.) -/
  | geometryApply (t : Nat)
  /-- COMMIT_GROUP_APPLY (R389. A captured idle or pallet group reaches its commit point and is checked and applied whole or refused. The captured group with this number.) -/
  | commitGroupApply (id : Nat) (t : Nat)
  /-- BRK_COMMIT (R386. A write of BRK_COMMIT captures the pending shadows of a scope into groups.) -/
  | brkCommit (via : Via) (value : Nat) (t : Nat)
  /-- BRK_STAGE_DISCARD (R390. Pending shadows in a scope are dropped.) -/
  | brkStageDiscard (via : Via) (value : Nat)
  /-- OBJECT_WRITE (R384. A write to an object without its own row is checked and stored, or recorded in the shadow.) -/
  | objectWrite (via : Via) (a : ObjAddr) (data : List Byte) (t : Nat)
  /-- SEC_SLOT_ASSIGN (R344. A key slot is assigned a generation and permitted LDs.) -/
  | secSlotAssign (via : Via) (slot : SlotNo) (gen lds : Nat)
  /-- SEC_ATTEST_REQ (R347. An attestation request is queued for the Kiln.) -/
  | secAttestReq (via : Via) (slot : Nat) (nonce : Nat) (t : Nat)
  /-- ATTEST_REPORT_SIGNED (R345. The Kiln signs a report, generating or replacing the slot's ML-KEM key pair. digest is the SHAKE256 of the whole report.) -/
  | attestReportSigned (sig : List Byte) (t : Nat)
  /-- EK_EXPIRY (R345. SEC_EK_LIFE_S after the report, the decapsulation key is erased.) -/
  | ekExpiry (slot : SlotNo) (t : Nat)
  /-- SEC_KEY_RELEASE (R348. A key release passes first checks and the slot enters INSTALLING.) -/
  | secKeyRelease (via : Via) (magic version : Nat) (slot : SlotNo) (gen digest : Nat) (t : Nat)
  /-- KEY_INSTALL_DONE (R350. Bundle checks pass or fail; on success gates close and the slot is ACTIVE.) -/
  | keyInstallDone (slot : SlotNo) (tagOk : Bool) (bundle : KeyBundle) (t : Nat)
  /-- KEY_DISTRIBUTION_DONE (R346. The keys of an ACTIVE slot reach the HBM controllers and ports.) -/
  | keyDistributionDone (slot : SlotNo) (t : Nat)
  /-- SEC_RETIRE (R354. A slot retire starts the drain or erases an inactive slot.) -/
  | secRetire (via : Via) (slot : SlotNo) (t : Nat)
  /-- DRAIN_COMPLETE (R355. The retiring slot's work has drained and the slot becomes DRAINED.) -/
  | drainComplete (slot : SlotNo) (t : Nat)
  /-- DRAIN_FORCED (R355. SEC_DRAIN_MAX_MS passes and the drain is forced.) -/
  | drainForced (slot : SlotNo) (t : Nat)
  /-- ZEROISE (R356. At T_D + 500 µs the slot's keys are zeroised and it becomes EMPTY.) -/
  | zeroise (slot : SlotNo) (t : Nat)
  /-- SEC_IMAGE_INSTALL (R351. The Kiln starts verifying and decrypting a staged pallet image.) -/
  | secImageInstall (via : Via) (p : PalletNo) (src dst tag : Nat) (t : Nat)
  /-- IMAGE_INSTALL_DONE (R351. Image install completes OK or is refused and its frames freed.) -/
  | imageInstallDone (p : PalletNo) (chk : ImageCheck) (m : Manifest) (body : List Byte) (t : Nat)
  /-- HELLO (R394. A VDP HELLO is checked against the management credential.) -/
  | hello (port : Fin 2) (credentialOk : Bool) (t : Nat)
  /-- CHALLENGE (R394. The signed CHALLENGE is sent.) -/
  | challenge (session : Nat) (t : Nat)
  /-- CHALLENGE_EXPIRY (R394. A CHALLENGE without valid AUTH in 10 s is forgotten.) -/
  | challengeExpiry (session : Nat) (t : Nat)
  /-- AUTH (R394. AUTH is verified, a key agreed and ACCEPT sent, or the session dropped.) -/
  | auth (port : Fin 2) (session : Nat) (sigOk : Bool) (t : Nat)
  /-- CLOSE (R395. A CLOSE ends the session at once.) -/
  | close (session : Nat)
  /-- SESSION_IDLE_EXPIRY (R395. A session silent for BRK_SESSION_IDLE_S is closed.) -/
  | sessionIdleExpiry (session : Nat) (t : Nat)
  /-- REASSEMBLY_EXPIRY (R392. An incomplete VDP message older than 10 ms is dropped.) -/
  | reassemblyExpiry (session msg : Nat) (t : Nat)
  /-- VDP_READ (R396. A VDP READ request returns object bytes.) -/
  | vdpRead (port : Fin 2) (session reqId : Nat) (a : ObjAddr) (offset length : Nat) (t : Nat)
  /-- VDP_WRITE (R396. A VDP WRITE request writes object bytes.) -/
  | vdpWrite (port : Fin 2) (session reqId : Nat) (a : ObjAddr) (offset : Nat) (data : List Byte) (t : Nat)
  /-- READ_SHADOW (R385. A VDP READ_SHADOW returns a pending shadow or the current value.) -/
  | readShadow (port : Fin 2) (session reqId : Nat) (a : ObjAddr) (offset length : Nat) (t : Nat)
  /-- KEEPALIVE (R396. A VDP KEEPALIVE keeps the session alive.) -/
  | keepalive (port : Fin 2) (session reqId : Nat) (t : Nat)
  /-- TELEMETRY_SAMPLE (R402. At a subscription's sampling instant its objects are read and sent as TELEMETRY.) -/
  | telemetrySample (sub : Fin 64) (t : Nat)
  /-- ERR_FAULT_CLEAR (R431. A write removes the event assertion of MOD_FAULT_N.) -/
  | errFaultClear (via : Via) (value : Nat)
  /-- DICT_READ (R375. The mailbox DICT_READ command returns object bytes.) -/
  | dictRead (o : OwnerNo) (a : ObjAddr) (offset length : Nat) (t : Nat)
  /-- DICT_WRITE (R375. The mailbox DICT_WRITE command writes object bytes or holds a piece.) -/
  | dictWrite (o : OwnerNo) (a : ObjAddr) (offset : Nat) (data : List Byte) (t : Nat)
  /-- IDENTIFY (R376. The CXL Identify command returns device identity.) -/
  | identify (o : OwnerNo)
  /-- GET_EVENT_RECORDS (R376. Returns event records of an LD's logs.) -/
  | getEventRecords (o : LdNo) (log : Fin 4)
  /-- CLEAR_EVENT_RECORDS (R376. Clears event records.) -/
  | clearEventRecords (o : LdNo) (log : Fin 4) (all : Bool) (handles : List Nat)
  /-- GET_EVENT_INTERRUPT_POLICY (R376. Returns the event interrupt policy.) -/
  | getEventInterruptPolicy (o : LdNo)
  /-- SET_EVENT_INTERRUPT_POLICY (R376. Sets the event interrupt policy.) -/
  | setEventInterruptPolicy (o : LdNo) (policy : List Byte)
  /-- GET_FW_INFO (R376. Returns firmware information.) -/
  | getFwInfo (o : LdNo)
  /-- GET_TIMESTAMP (R376. Returns TIME64 converted to the CXL epoch.) -/
  | getTimestamp (o : LdNo) (t : Nat)
  /-- GET_SUPPORTED_LOGS (R376. Returns the supported logs.) -/
  | getSupportedLogs (o : LdNo)
  /-- GET_LOG (R376. Returns a log.) -/
  | getLog (o : LdNo) (log offset length : Nat)
  /-- IDENTIFY_MEMORY_DEVICE (R376. Reports volatile capacity equal to the allocation.) -/
  | identifyMemoryDevice (o : LdNo)
  /-- GET_PARTITION_INFO (R376. Returns partition information.) -/
  | getPartitionInfo (o : LdNo)
  /-- GET_HEALTH_INFO (R376. Returns health information.) -/
  | getHealthInfo (o : LdNo)
  /-- TRANSFER_FW (R376. Answered Unsupported.) -/
  | transferFw (o : LdNo)
  /-- ACTIVATE_FW (R376. Answered Unsupported.) -/
  | activateFw (o : LdNo)
  /-- SET_TIMESTAMP (R376. Answered Unsupported.) -/
  | setTimestamp (o : LdNo)
  /-- GET_POISON_LIST (R376. Answered Unsupported.) -/
  | getPoisonList (o : LdNo)
  /-- INJECT_POISON (R376. Answered Unsupported.) -/
  | injectPoison (o : LdNo)
  /-- CLEAR_POISON (R376. Answered Unsupported.) -/
  | clearPoison (o : LdNo)
  /-- SET_LD_ALLOCATIONS (R361. The FM API sets LD window allocations or refuses with Invalid Input.) -/
  | setLdAllocations (start : LdNo) (mib : List Nat)
  /-- GET_LD_INFO (R361. The FM API returns LD information.) -/
  | getLdInfo
  /-- GET_LD_ALLOCATIONS (R361. The FM API returns LD allocations.) -/
  | getLdAllocations (start : LdNo) (count : Nat)
  /-- QOS_TELEMETRY (R361. The FM API QoS telemetry commands read or set bandwidth fractions. The allocated-bandwidth fractions to set, or none to read them.) -/
  | qosTelemetry (start : LdNo) (set : Option (List Nat))
  /-- HDM_DECODER_COMMIT (R360. An HDM decoder commit is accepted only for a 1-way interleave.) -/
  | hdmDecoderCommit (o : LdNo) (iw ig : Nat)
  /-- CXL_MEM_READ (R363. A CXL.mem read is served from the mirror, repaired or answered all-ones. bad0 and bad1 say which of the two copies the 80/64 code reports uncorrectable.) -/
  | cxlMemRead (o : LdNo) (addr : Nat) (bad0 bad1 : Bool) (t : Nat)
  /-- CXL_MEM_WRITE (R362. A CXL.mem write completes once both mirror copies are stored.) -/
  | cxlMemWrite (o : LdNo) (addr : Nat) (line : List Byte)
  /-- RING_ENABLE (R367. ENABLE written 1 activates a host ring or is refused.) -/
  | ringEnable (o : OwnerNo) (r : RingNo)
  /-- RING_DISABLE (R367. ENABLE written 0 stops taking entries and disables the ring once taken entries complete.) -/
  | ringDisable (o : OwnerNo) (r : RingNo)
  /-- RING_TAIL_DOORBELL (R369. A CMD or STEP tail doorbell makes new entries visible for reading.) -/
  | ringTailDoorbell (o : OwnerNo) (r : RingNo) (value : Nat) (t : Nat)
  /-- RING_HEAD_DOORBELL (R368. A CPL or RESULT head doorbell frees space and releases held records.) -/
  | ringHeadDoorbell (o : OwnerNo) (r : RingNo) (value : Nat) (t : Nat)
  /-- SEQ_REREAD (R369. Every 100 ns an entry whose SEQ mismatches is read again.) -/
  | seqReread (o : OwnerNo) (r : RingNo) (t : Nat)
  /-- SEQ_WAIT_EXPIRY (R369. HST_SEQ_WAIT_US elapses with a SEQ mismatch and the ring enters ERROR.) -/
  | seqWaitExpiry (o : OwnerNo) (r : RingNo) (t : Nat)
  /-- MSIX_COALESCE_EXPIRY (R374. COAL_NS after the first unsignalled entry an MSI-X message is sent.) -/
  | msixCoalesceExpiry (o : LdNo) (r : RingNo) (t : Nat)
  /-- LD_STATUS_CLEAR (R365. A W1C write clears LD control status bits.) -/
  | ldStatusClear (o : LdNo) (word : LdControl)
  /-- HST_FM_DOORBELL (R377. A write rings a doorbell of the FM-owned LD.) -/
  | hstFmDoorbell (via : Via) (inst value : Nat) (t : Nat)
  /-- HOST_DMA_DONE (R378. A CXL.io access to host memory completes or fails with TARGET_DEAD.) -/
  | hostDmaDone (id : Nat) (ok : Bool) (t : Nat)
  /-- DMA_TIMEOUT (R378. A host access without completion in HST_DMA_TIMEOUT_US fails.) -/
  | dmaTimeout (id : Nat) (t : Nat)
  /-- LD_RESET (R379. An FLR or CXL LD reset disables rings, flushes queues and revokes registrations of the LD.) -/
  | ldReset (o : LdNo) (t : Nat)
  /-- CXL_PERST_N (R461. CXL_PERST_N rising starts the retry window and link training.) -/
  | cxlPerstN (t : Nat)
  /-- CXL_LINK_TRAINED (R461. The CXL link completes training.) -/
  | cxlLinkTrained (width speedGts : Nat) (t : Nat)
  /-- PC_SAMPLE (R434. At each period instant one micro-core's state is sampled into the buffer.) -/
  | pcSample (p : PalletNo) (inflightFull : Bool) (t : Nat)
  /-- COUNTER_INTERVAL_RECORD (R438. At an interval instant a counter set writes a record. The pallet's set, or none for the global set.) -/
  | counterIntervalRecord (set : Option PalletNo) (t : Nat)
  /-- TRACE_ARM (R444. OBS_TRACE_CTRL with ARM 1 arms the trace or is refused.) -/
  | traceArm (via : Via) (ctrl : BitVec 128) (t : Nat)
  /-- TRACE_TIME_TRIGGER (R443. The first cycle with TIME64 at or past T_AT triggers the trace.) -/
  | traceTimeTrigger (t : Nat)
  /-- TRACE_TRIGGER (R444. A matching trace sample triggers and starts the post count. A sample of a source the trace records.) -/
  | traceTrigger (src : Nat) (payload : BitVec 40) (t : Nat)
  /-- TRACE_FREEZE (R444. The post count reaches zero and the trace freezes.) -/
  | traceFreeze
  /-- TRACE_FINAL_READ (R444. A read covering the last byte of a frozen buffer returns it and sets OFF.) -/
  | traceFinalRead (via : Via) (offset length : Nat)
  /-- OBS_MUX_SEL (R445. A write selects the signals of the OBS outputs or is refused.) -/
  | obsMuxSel (via : Via) (sel : List Nat)
  /-- INPUT_EXCURSION (R447. The input leaves 40–60 V but stays within 36–65 V and an event is raised.) -/
  | inputExcursion (mv : Nat) (t : Nat)
  /-- BROWN_OUT (R447. The input below 36 V for 100 µs switches off every rail.) -/
  | brownOut (t : Nat)
  /-- OVER_VOLTAGE (R447. The input above 65 V for 10 µs switches off every rail.) -/
  | overVoltage (t : Nat)
  /-- POWER_RESTART (R448. After 100 ms within 40–60 V the start-up sequence restarts.) -/
  | powerRestart (t : Nat)
  /-- REFCLK_LOSS (R459. SYS_REFCLK absent for 1 µs stops islands, halts pallets and sets FAILED.) -/
  | refclkLoss (t : Nat)
  /-- RESET_N (R462. RESET_N low for at least 10 µs resets the module. The length of the low pulse that ends at t.) -/
  | resetN (lowNs : Nat) (t : Nat)
  /-- BULK_CHARGED (R460. Bulk capacitance is charged and conversion starts.) -/
  | bulkCharged (t : Nat)
  /-- MOD_PWRGD (R478. Management-domain rails reach regulation and MOD_PWRGD rises.) -/
  | modPwrgd (t : Nat)
  /-- INTERNAL_RESET_RELEASE (R463. Internal reset releases, the straps latch and the Kiln starts from mask ROM.) -/
  | internalResetRelease (strap : BitVec 8) (t : Nat)
  /-- PUF_IDENTITY (R341. The Kiln reconstructs the PUF secret and derives the identity, or boots without one. DEVICE_ID each helper copy gives, none where it fails or does not match the certificate.) -/
  | pufIdentity (copy0 copy1 : Option Nat) (serial : Nat)
  /-- KILN_FW_VERIFIED (R339. Kiln firmware is verified and measured, or the boot stops.) -/
  | kilnFwVerified (a b : ImageCheck)
  /-- CONFIG_VERIFIED (R340. The configuration image is verified and the strap word measured. vf is the VF table of the configuration image.) -/
  | configVerified (a b : ImageCheck) (vf : List Nat)
  /-- HBM_TRAINED (R460. HBM stacks are initialised and written under the fresh slot-0 key.) -/
  | hbmTrained (t : Nat)
  /-- MARCH_TEST (R419. Each brick's march test ends after island start.) -/
  | marchTest (b : BrickNo) (ok : Bool) (t : Nat)
  /-- CODEC_SELFTEST (R205. Each brick decodes the ROM test stream and is marked failed on error. The checks that its units failed, none where the test passes.) -/
  | codecSelftest (b : BrickNo) (failed : List CheckFail) (t : Nat)
  /-- RUNTIME_FW_RUNNING (R340. Runtime firmware is verified, measured and running with the governor active.) -/
  | runtimeFwRunning (a b : ImageCheck) (t : Nat)
  /-- MAILBOXES_OPEN (R460. VDP and mailboxes open with role UNASSIGNED and boot state RUNNING.) -/
  | mailboxesOpen (t : Nat)
  /-- EXTEST (R482. The TAP EXTEST instruction scans the low-speed lands, or selects BYPASS when gated.) -/
  | extest (pins : List Bool)
  /-- IDCODE (R482. The TAP IDCODE instruction returns 0xB4810A5B.) -/
  | idcode
  /-- SAMPLE_PRELOAD (R482. The TAP SAMPLE/PRELOAD instruction samples the boundary register.) -/
  | samplePreload (pins : List Bool)
  /-- BYPASS (R482. The TAP BYPASS instruction, also selected by every unlisted code.) -/
  | bypass
  /-- POWER_ON (R462. The 48 V input rises through 40 V from absence of power and the start-up sequence begins with bulk charging.) -/
  | powerOn (mv : Nat) (t : Nat)
  /-- CONFIGURATION_REQUEST (R461. A CXL/PCIe configuration request to an LD function is answered with Request Retry Status before the mailboxes open, and otherwise performed, including Bus Master Enable and D3hot writes.) -/
  | configurationRequest (o : LdNo) (op : CfgAccess) (busMaster : Option Bool) (d3hot : Option Bool) (t : Nat)
  /-- CONVENTIONAL_RESET (R379. A conventional reset of the whole CXL link resets every LD as an LD reset does.) -/
  | conventionalReset (t : Nat)
  /-- MANAGEMENT_PORT_LINK (R428. A 10GBASE-KR management port gains or loses its link, and ERR_HEALTH is re-evaluated.) -/
  | managementPortLink (port : Fin 2) (up : Bool) (t : Nat)
  /-- VDP_FRAME (R392. A VDP frame arrives and is dropped on a field, tag or sequence check, or held as a fragment of an incomplete message. msg names the message whose fragment the frame carries.) -/
  | vdpFrame (port : Fin 2) (session typ magic version msgLen fragOff fragLen : Nat) (seqNo : Nat) (sealedF tagOk : Bool) (msg : Nat) (t : Nat)
  /-- TB_SOURCE_SWITCH (R232. The selected timebase source loses qualification while another source stays qualified, and the device selects that source by slewing and counts TB_SOURCE_SWITCHES.) -/
  | tbSourceSwitch (src : TbSource) (t : Nat)
  /-- MSIX_VECTOR_UNMASK (R374. A write that unmasks an MSI-X vector whose pending bit is set sends the held message and clears the bit, as PCIe gives.) -/
  | msixVectorUnmask (o : LdNo) (vector : Nat)
  /-- RING_CONFIGURATION_WRITE (R366. A write to a ring configuration entry's fields other than ENABLE is stored while ENABLE is 0, and is ignored and counted in HST_DB_REFUSED while ENABLE is 1. The 32-bit word of the entry at 4 × word.) -/
  | ringConfigurationWrite (o : OwnerNo) (r : RingNo) (word : Fin 6) (value : Nat)
  deriving DecidableEq, Repr

end Sys2Proof
end

