-- ==== Sys2Proof/Decode.lean ====
section
/-! DEFINITION. Decoding of a command from the bits the opcode table gives its row. The table of this hardware gives no row
any bits, so no word spells a command. -/

namespace Sys2Proof

/-- The command a word spells by the table's bits: none, for the table gives no bits. -/
def decodeTableWord (_nbits _w : Nat) : Option Instr := none

end Sys2Proof
end

