-- ==== Sys2Proof/Config.lean ====
section
/-! DEFINITION. What an implementation of the module fixes and the spec does not state, and the free values: constants with
no body, so that nothing in Lean can evaluate one or prove a value of it. Each is named in notes/assumptions/. -/

namespace Sys2Proof

/-- The n-th free value the machine draws: an undefined or unstated value. The state's counter `free` is n. -/
opaque Config.freeValue : Nat → Nat
/-- The fixed digest of the mask ROM that is measured into M0 (R340). -/
opaque Config.romDigest : Nat
/-- The digest of Otnov's firmware signing key in mask ROM (R338). -/
opaque Config.firmwareKey : Nat
/-- The identity public key, 64 bytes, of a device identity (R341, R347). -/
opaque Config.identityPk : Nat → Nat
/-- The identity certificate in flash (R336), as the value of SEC_IDENTITY_CERT. -/
opaque Config.identityCert : Nat
/-- The ML-KEM-1024 encapsulation key of the n-th key pair the Kiln generates, 1,568 bytes (R345, R347). -/
opaque Config.encapKey : Nat → Nat
/-- The SLH-DSA signature over a message, 29,792 bytes (R347, R394). -/
opaque Config.signature : Nat → Nat
/-- The n-th random value of the Kiln's generator, 32 bytes (R343, R394). -/
opaque Config.nonce : Nat → Nat
/-- Frame of a pallet's root table (MEM_PT_ROOT, R165), and the frame of the table that an entry of level 3, 2 or 1 points to, by the
entry's key. -/
opaque Config.ptRoot : Nat → Nat
opaque Config.tableFrame : Nat → Nat
/-- Response payload bytes of a standard CXL command whose content only the CXL specification gives: opcode, LD, index. -/
opaque Config.cxlByte : Nat → Nat → Nat → Byte

/-- Words of a function's configuration space that only the PCIe and CXL specifications give: LD, DVSEC ID plus 1 (0 for the
header), offset. -/
opaque Config.cfgWord : Nat → Nat → Nat → Nat

/-- TIME64 converted to the epoch of CXL timestamps (R376). -/
opaque Config.cxlTime : Nat → Nat

/-- The region of rack memory that a holder's home registers are read in, and the offset of a RID's register in it (R136). -/
opaque Config.homeRegion : Nat
opaque Config.homeOffset : Nat → Nat

/-- Maximum of the credit counters 5, 7 and 8: gather, row-statistics and selector queues (R49 names engine chapters that
do not state it). -/
opaque Config.engineCredits : Nat → Nat

end Sys2Proof
end

