-- ==== Sys2Proof/Machine/Bits.lean ====
section
/-! DEFINITION. Bit fields, byte order, and list helpers the operations share. Multi-byte fields are little-endian (R7). -/

namespace Sys2Proof.Machine

/-- Bits [lo + n − 1 : lo] of a number. -/
def bitsOf (v lo n : Nat) : Nat := (v / 2 ^ lo) % 2 ^ n

/-- One bit of a number. -/
def bitOf (v i : Nat) : Bool := bitsOf v i 1 == 1

/-- `v` with bits [lo + n − 1 : lo] replaced by `f`. -/
def setBits (v lo n f : Nat) : Nat := v - bitsOf v lo n * 2 ^ lo + (f % 2 ^ n) * 2 ^ lo

/-- `v` with bit `i` set to `b`. -/
def setBit (v i : Nat) (b : Bool) : Nat := setBits v i 1 (if b then 1 else 0)

/-- A Bool as a bit. -/
def b2n (b : Bool) : Nat := if b then 1 else 0

/-- The low `n` bytes of a number, least significant first. -/
def toBytes : Nat → Nat → List Byte
  | 0, _ => []
  | n + 1, v => BitVec.ofNat 8 v :: toBytes n (v / 256)

/-- The number that bytes spell, least significant first. -/
def ofBytes : List Byte → Nat
  | [] => 0
  | b :: bs => b.toNat + 256 * ofBytes bs

/-- Fields (value, size in bytes) packed one after another. -/
def pack : List (Nat × Nat) → List Byte
  | [] => []
  | (v, n) :: fs => toBytes n v ++ pack fs

/-- `n` zero bytes. -/
def zeros (n : Nat) : List Byte := List.replicate n 0

/-- A list of bytes cut or zero-padded to `n` bytes. -/
def padTo (n : Nat) (bs : List Byte) : List Byte := bs.take n ++ zeros (n - bs.length)

/-- ⌈a / b⌉. -/
def ceilDiv (a b : Nat) : Nat := (a + b - 1) / b

/-- `a` rounded up to a multiple of `m`. -/
def roundUp (a m : Nat) : Nat := ceilDiv a m * m

/-- The bytes of a memory from an address. -/
def memRead (m : Mem) (a : Nat) : Nat → List Byte
  | 0 => []
  | n + 1 => NMap.get 0 m a :: memRead m (a + 1) n

/-- Stores bytes at an address. -/
def memWrite (m : Mem) (a : Nat) : List Byte → Mem
  | [] => m
  | b :: bs => memWrite (NMap.put 0 m a b) (a + 1) bs

/-- The little-endian number of `n` bytes at an address. -/
def memNat (m : Mem) (a n : Nat) : Nat := ofBytes (memRead m a n)

/-- A memory without the entries of [lo, hi). -/
def memClear (m : Mem) (lo hi : Nat) : Mem := m.filter (fun e => e.1 < lo || hi ≤ e.1)

/-- Replaces the n-th element of a list. -/
def setAt {α : Type} (l : List α) (n : Nat) (v : α) : List α := l.set n v

/-- Maps the elements of a list that satisfy a test. -/
def mapIf {α : Type} (l : List α) (c : α → Bool) (f : α → α) : List α := l.map (fun x => if c x then f x else x)

/-- The number of a list's elements that satisfy a test. -/
def countIf {α : Type} (l : List α) (c : α → Bool) : Nat := (l.filter c).length

/-- A sum over a list. -/
def sumOf {α : Type} (l : List α) (f : α → Nat) : Nat := l.foldl (fun a x => a + f x) 0

/-- The least number below `n` that satisfies a test. -/
def leastBelow (n : Nat) (c : Nat → Bool) : Option Nat := (List.range n).find? c

end Sys2Proof.Machine
end

