-- ==== Sys2Proof/Machine/BrickState.lean ====
section
/-! DEFINITION. The records of the state that chapters 02, 03 and 11 give a brick: its micro-cores, brick store, accumulator
file, token queue, credits, engine-ring control blocks and outstanding mortar requests, and an arrival counter. -/

namespace Sys2Proof.Machine

/-- A waiting instruction (R51, R53) with its operand values. -/
inductive Waiting where
  | take (rd : Nat) (dst : Nat)
  | put (rd : Nat) (src target : Nat)
  | cwait (rd : Nat) (k n : Nat)
  | await (rd : Nat) (idx n : Nat)
  | bwait (tag : Nat)
  | bmove (rd : Nat) (dst src len : Nat)
  deriving DecidableEq, Repr

/-- A bulk move in progress in the brick store (R53). `id` numbers moves, since tags are reused. -/
structure BulkMove where
  id : Nat
  tag : Nat
  dst : Nat
  src : Nat
  len : Nat
  deriving DecidableEq, Repr

/-- An ARRIVE held under R30: counter ID, increment, step tag, and what it still waits for. -/
structure HeldArrive where
  k : Nat
  n : Nat
  tag : Nat
  acks : List Nat
  moves : List Nat
  deriving DecidableEq, Repr

/-- A micro-core. An unlisted register holds 0. -/
structure Core where
  pc : Word
  x : NMap Word
  f : NMap Word
  v : NMap Lanes
  /-- frm [7:5] and fflags [4:0]. -/
  fcsr : BitVec 8
  jxstep : BitVec 16
  /-- KIND of the token last taken, and whether the core has executed since load (R435). -/
  kind : Nat
  started : Bool
  /-- The latched upper half of the timebase (R52). -/
  tbHi : Word
  waiting : Option Waiting
  bulk : List BulkMove
  bulkNext : Nat
  /-- Tags of WR_ACK requests without their WR_DONE (R30). -/
  acks : List Nat
  arrives : List HeldArrive
  deriving DecidableEq, Repr

/-- A micro-core after pallet load: every register 0. -/
def Core.reset : Core :=
  { pc := 0, x := [], f := [], v := [], fcsr := 0, jxstep := 0, kind := 0, started := false, tbHi := 0, waiting := none,
    bulk := [], bulkNext := 0, acks := [], arrives := [] }

/-- A quantiser command slot (R73). -/
structure QSlot where
  src : Nat
  nblk : Nat
  srctype : Nat
  fmt : Nat
  outmax : Nat
  blk0 : Nat
  elem : Nat
  scale : Nat
  outl : Nat
  outcap : Nat
  spillcap : Nat
  spill0 : Nat
  stg : Nat
  reqslot : Nat
  done : Nat
  busy : Bool
  complete : Bool
  spillFull : Bool
  fallbacks : Nat
  outliers : Nat
  deriving DecidableEq, Repr

def QSlot.reset : QSlot :=
  { src := 0, nblk := 0, srctype := 0, fmt := 0, outmax := 0, blk0 := 0, elem := 0, scale := 0, outl := 0, outcap := 0,
    spillcap := 0, spill0 := 0, stg := 0, reqslot := 0, done := 0, busy := false, complete := false,
    spillFull := false, fallbacks := 0, outliers := 0 }

/-- The format limits a quantiser command runs under (R78): the bound codes and FMT_OUTLIERS_MAX. -/
structure QLimits where
  mxfp4 : Nat
  mxint4 : Nat
  k3 : Nat
  k2 : Nat
  mxfp6 : Nat
  outMax : Nat
  deriving DecidableEq, Repr

/-- A queued quantiser command (R74): its slot, the micro-core and pc of the GO store, and the limits in force then. -/
structure QCmd where
  slot : Nat
  core : Nat
  pc : Nat
  limits : QLimits
  deriving DecidableEq, Repr

/-- A request a brick has sent on the mortar and that has no answer yet (R27): its tag and the micro-core it serves. -/
structure MortarReq where
  tag : Nat
  core : Nat
  isRead : Bool
  deriving DecidableEq, Repr

/-- A brick. -/
structure Brick where
  store : Mem
  acc : Mem
  /-- Token queue, oldest first (R38). -/
  tokens : List Token
  /-- Tokens decided as passed that wait for a credit of the next ring brick (R40). -/
  passing : List Token
  /-- Credits in use of each credit counter 0–10 (R49); the counter's value is its maximum less these. -/
  used : NMap Nat
  cores : NMap Core
  qslots : NMap QSlot
  /-- Quantiser commands that wait or run, in GO order (R74). -/
  qqueue : List QCmd
  requests : List MortarReq
  /-- Data of the RD_DATA answers received, newest first: tag and bytes. -/
  answers : List (Nat × List Byte)
  /-- Statuses of the ERR answers received, newest first. -/
  errors : List (Nat × Status)
  /-- Dirty 4 KiB sectors of the scratch tiles (R174). -/
  dirty : List Nat
  /-- Dirty sectors on which a write landed while their write-back was in progress (R174). -/
  again : List Nat
  /-- Prefetched pages held in the store, most recently used first: leaf key, and whether it has been used (R176). -/
  prefetched : List (Nat × Bool)
  /-- TLB entries of the gather engine, most recently used first: leaf keys (R169). -/
  tlb : List Nat
  /-- The 64 level-1 entries of its walk cache, most recently used first (R169). -/
  walks : List Nat
  deriving DecidableEq, Repr

/-- A brick after reset: memories zero, queues empty. -/
def Brick.reset : Brick :=
  { store := [], acc := [], tokens := [], passing := [], used := [], cores := [], qslots := [], qqueue := [],
    requests := [], answers := [], errors := [], dirty := [], again := [], prefetched := [], tlb := [], walks := [] }

/-- States of an arrival counter (R42). -/
inductive CtrState where
  | idle | armed | done
  deriving DecidableEq, Repr

/-- An arrival counter. -/
structure ArrCounter where
  state : CtrState
  count : Nat
  target : Nat
  tag : Nat
  deriving DecidableEq, Repr

def ArrCounter.reset : ArrCounter := { state := .idle, count := 0, target := 0, tag := 0 }

end Sys2Proof.Machine
end

