-- ==== Sys2Proof/Machine/FabricState.lean ====
section
/-! DEFINITION. The records of the state that chapters 09 to 13 give the fabric side: Goullor ports and the timebase, transport
flows, queues and registrations, the composition map and its epochs, the associative engine's tables, and shapers. -/

namespace Sys2Proof.Machine

/-! ## Ports (chapter 09) -/

/-- Port states (R211), by their codes 0 to 5. -/
inductive PortState where
  | disabled | negotiating | training | aligning | up | upSpared
  deriving DecidableEq, Repr

/-- A remap in progress in one direction (R217): logical lane, failed physical lane, whether SUDDEN. -/
structure Remap where
  llane : Nat
  plane : Nat
  sudden : Bool
  seq : Nat
  deriving DecidableEq, Repr

/-- A Goullor port. -/
structure Port where
  state : PortState
  spareOk : Bool
  /-- A training failure waits out its 100 ms (R211). -/
  trainWait : Bool
  /-- Physical lane of logical lane k; 15 marks a failed lane, until the lane is switched (LNK_LANE_MAP, R217). -/
  rxMap : List Nat
  txMap : List Nat
  /-- The spare of the direction carries data (R216). -/
  rxSpareUsed : Bool
  txSpareUsed : Bool
  rxRemap : Option Remap
  txRemap : Option Remap
  /-- SEQ of the next spare word sent, and SEQs already acted on (R215). -/
  seqTx : Nat
  seqSeen : List Nat
  /-- Receive occupancy by class in bytes, and the classes for which XOFF stands (R226). -/
  occ : NMap Nat
  xoff : List Nat
  /-- Classes the partner holds paused: class to the instant the pause ends, and the instant the pause began without a
  break (R225, R229). -/
  pausedTill : NMap Nat
  pausedSince : NMap Nat
  /-- Classes reported degraded (R229). -/
  degraded : List Nat
  /-- Spare words that wait, oldest first, while the partner pauses class 7 (R215, R224). -/
  heldWords : List Nat
  deriving DecidableEq, Repr

/-- A port at reset: logical lane k on physical lane k (R208). -/
def Port.reset : Port :=
  { state := .disabled, spareOk := false, trainWait := false, rxMap := List.range 8, txMap := List.range 8, rxSpareUsed := false,
    txSpareUsed := false, rxRemap := none, txRemap := none, seqTx := 0, seqSeen := [], occ := [], xoff := [],
    pausedTill := [], pausedSince := [], degraded := [], heldWords := [] }

/-! ## Timebase (chapter 09) -/

/-- TB_STATE (R234), by its codes 0 to 3. -/
inductive TbState where
  | freerun | acquiring | locked | holdover
  deriving DecidableEq, Repr

/-- A source of time as the device tracks it (R232). -/
structure TbSrc where
  qualified : Bool
  /-- Consecutive delay measurements answered. -/
  delays : Nat
  lastDelay : Option Nat
  /-- The master that the best master clock algorithm has selected, by its data set. -/
  master : Option PtpMaster
  /-- A two-step Sync waiting for its Follow_Up: receive time. -/
  sync : Option Int
  /-- Receive time less origin of the last Sync, none before the first, and the send time of the Delay_Req in progress. -/
  diff : Option Int
  reqAt : Option Nat
  /-- The offset of the last delay measurement, in ps. -/
  offset : Int
  /-- PPS: consistent seconds so far; the second number of the last edge by the count from TB_PPS_SECONDS. -/
  good : Nat
  second : Option Nat
  deriving DecidableEq, Repr

def TbSrc.reset : TbSrc :=
  { qualified := false, delays := 0, lastDelay := none, master := none, sync := none, diff := none, reqAt := none,
    offset := 0, good := 0, second := none }

/-- The timebase (R230 to R236). -/
structure Timebase where
  state : TbState
  /-- Sources: 1 MGMT_A, 2 MGMT_B, 3 PPS. -/
  sources : NMap TbSrc
  selected : Nat
  /-- Consecutive measurements within ±2 ns, and outside ±4 ns. -/
  inside : Nat
  outside : Nat
  /-- Last measured offset in ps. -/
  offsetPs : Int
  holdoverAt : Nat
  /-- Correction by slewing that was pending at `slewAt`, in ps (R233). -/
  slewPs : Int
  slewAt : Nat
  /-- When TB_PPS_SECONDS was written, until an edge takes its number (R231). -/
  ppsAt : Option Nat
  deriving DecidableEq, Repr

def Timebase.reset : Timebase :=
  { state := .freerun, sources := [], selected := 0, inside := 0, outside := 0, offsetPs := 0, holdoverAt := 0,
    slewPs := 0, slewAt := 0, ppsAt := none }

/-! ## Transport (chapter 10) -/

/-- What a message the module has sent serves, so that its end finds the operation it belongs to. -/
inductive MsgFor where
  /-- A work queue entry of an SQ: queue and entry number. -/
  | entry (q : Nat) (n : Nat)
  /-- A rack command: brick, slot and its message tag. -/
  | rack (b : Nat) (slot : Nat) (tag : Nat)
  /-- A gather read through a window, by its message tag. -/
  | gather (tag : Nat)
  /-- Handover and copy messages, by type and RID. -/
  | handover (typ : Nat) (rid : Nat)
  | copyWrite (slot : Nat) (member : Nat) (stripe : Nat)
  | answer
  | draftTree (handle : Nat)
  | abort (gid : Nat) (step : Nat) (member : Nat)
  | homeMirror (rid : Nat)
  | response
  /-- The rest of a message that has ended: it is refused in turn and ends nothing (R248). -/
  | dropped
  deriving DecidableEq, Repr

/-- A packet a flow holds until it is acknowledged: opcode, packet and what its message serves. -/
structure Held where
  op : Nat
  pkt : Pkt
  purpose : MsgFor
  /-- Times sent. -/
  sent : Nat
  deriving DecidableEq, Repr

/-- A sender flow (R242 to R250). -/
structure Flow where
  dst : Nat
  cls : Nat
  /-- 0 for the flow of every ordered packet; above it the flows over which relaxed writes spread (R262). -/
  lane : Nat
  flowT : Nat
  opened : Bool
  /-- The incarnation's first ACK has been received, so OPEN is 0 (R238). -/
  acked : Bool
  port : Nat
  nextPsn : Nat
  /-- Times that the PSN of the incarnation has passed 2^24 (R352). -/
  wraps : Nat
  /-- Unacknowledged packets in PSN order, and packets queued behind TRN_WINDOW or a port. -/
  unacked : List Held
  queued : List Held
  /-- Acknowledged packets of a message whose last packet is not acknowledged (R279). -/
  part : List Held
  /-- Consecutive timer expiries; consecutive NOT_READY answers; the instant a backoff ends. -/
  expiries : Nat
  notReady : Nat
  backoffTill : Option Nat
  /-- When the oldest unacknowledged packet was last sent, or the last advancing answer came, the later of the two (R249). -/
  lastSent : Nat
  /-- When a packet was last queued (R244). -/
  lastBusy : Nat
  /-- Virtual finish time of the entity (R324), and its weight and shaper (R323). -/
  vft : Nat
  weight : Nat
  shaper : Nat
  deriving DecidableEq, Repr

/-- A receiver flow entry, keyed by SRC_MOD × 2^14 + FLOW (R243). -/
structure RxFlow where
  flowT : Nat
  expected : Nat
  /-- Times that the expected PSN has passed 2^24 (R352). -/
  wraps : Nat
  m : Nat
  /-- The expected value a NAK SEQ was last sent for (R246 order 6). -/
  nakFor : Option Nat
  /-- The least PSN not yet acknowledged of a packet whose acknowledgement is held (R134). -/
  hold : Option Nat
  deriving DecidableEq, Repr

/-- A started entry of an SQ or RQ. -/
structure QEntry where
  n : Nat
  w : Wqe
  op : Nat
  epoch : Nat
  /-- Message tag. -/
  tag : Nat
  fgen : Nat
  /-- Its status once it has ended; it completes in submission order (R257). -/
  ended : Option Status
  /-- Bytes transferred or received; READ: bytes still missing. -/
  bytes : Nat
  missing : Nat
  imm : Option Nat
  acked : Bool
  /-- RQ: SRC_MOD and SQ of the message the buffer is bound to. -/
  src : Nat
  sq : Nat
  deriving DecidableEq, Repr

/-- A transport queue's context (R251). -/
structure Queue where
  /-- 0 RESET, 1 READY, 2 FLUSHING, 3 ERROR. -/
  state : Nat
  typ : Nat
  relaxed : Bool
  pallet : Nat
  ld : Nat
  cls : Nat
  errStatus : Nat
  keyId : Nat
  cqn : Nat
  logSize : Nat
  ring : Nat
  head : Nat
  tail : Nat
  count : Nat
  outst : Nat
  fgen : Nat
  pcount : Nat
  tErr : Nat
  /-- SQ, RQ: entries started and not completed, oldest first. -/
  entries : List QEntry
  /-- SQ: WAIT_CQ stands at the head (R257): the CQ and the count awaited. -/
  waits : Option (Nat × Nat)
  /-- SQ, relaxed: packets sent in FGEN by destination (R251, R263). -/
  counts : NMap Nat
  /-- CQ: completions held because the ring is full (R258), oldest first, with the queue that reports each (an empty record
  where none is written), and the instant the hold began. -/
  held : List (Nat × List Byte)
  heldSince : Option Nat
  /-- Where the context is: 0 cached, 1 HBM, 2 host memory (R253), and its place in the grant there; being fetched; the instant it
  was last used. -/
  place : Nat
  hostSlot : Nat
  fetching : Bool
  lastUse : Nat
  deriving DecidableEq, Repr

def Queue.reset : Queue :=
  { state := 0, typ := 0, relaxed := false, pallet := 0, ld := 0, cls := 0, errStatus := 0, keyId := 0, cqn := 0,
    logSize := 0, ring := 0, head := 0, tail := 0, count := 0, outst := 0, fgen := 0, pcount := 0, tErr := 0,
    entries := [], waits := none, counts := [], held := [], heldSince := none, place := 0, hostSlot := 0, fetching := false,
    lastUse := 0 }

/-- A registration (R264). State codes 0 FREE, 1 VALID, 2 REVOKING, 3 DRAINED. -/
structure Reg where
  state : Nat
  lwrite : Bool
  rwrite : Bool
  rread : Bool
  ratomic : Bool
  pallet : Nat
  ld : Nat
  gen : Nat
  keyId : Nat
  va : Nat
  length : Nat
  inflight : Nat
  /-- The instant of the revoke, of the drain, and of the last return to FREE. -/
  tRevoke : Nat
  tDrained : Nat
  freedAt : Nat
  source : Option (Nat × Nat × Nat)
  deriving DecidableEq, Repr

def Reg.reset : Reg :=
  { state := 0, lwrite := false, rwrite := false, rread := false, ratomic := false, pallet := 0, ld := 0, gen := 0,
    keyId := 0, va := 0, length := 0, inflight := 0, tRevoke := 0, tDrained := 0, freedAt := 0, source := none }

/-- A tracker of relaxed writes (R263), keyed by SRC_MOD, SQ and FGEN: packets placed. -/
structure Tracker where
  src : Nat
  sq : Nat
  fgen : Nat
  count : Nat
  deriving DecidableEq, Repr

/-- The transport. -/
structure Transport where
  flows : NMap Flow
  rx : NMap RxFlow
  queues : NMap Queue
  regs : NMap Reg
  trackers : List Tracker
  /-- Packets waiting for a context: queue, opcode, packet, port (R254), oldest first. -/
  missed : List (Nat × Nat × Pkt × Nat)
  /-- Messages waiting for a sender flow entry (R244): module, class, lane, packets. -/
  waiting : List (Nat × Nat × Nat × List Held)
  nextTag : Nat
  /-- The least BIRTH of the next answer: no two answers carry the same (R352). -/
  ansNext : Nat
  deriving DecidableEq, Repr

/-! ## Composition (chapter 11) -/

/-- A held epoch (R270, R292): its number and slot 0–3. -/
structure Epoch where
  number : Nat
  slot : Nat
  deriving DecidableEq, Repr

/-- An entry of the COMPOSITION table (R285, R291) with its record. -/
structure CompEntry where
  record : MapRecord
  emask : Nat
  staged : Bool
  drop : Bool
  deriving DecidableEq, Repr

/-- A rack command in progress in a brick's slot (R271). -/
structure RackSlot where
  op : Nat
  cmd : RackCmd
  busy : Bool
  complete : Bool
  status : Nat
  result : Nat
  /-- Module the command went to, its message tag, epoch, and bytes of data still missing. `pallet` is the brick's. -/
  dst : Nat
  tag : Nat
  epoch : Nat
  missing : Nat
  /-- Micro-core that wrote GO, and its pallet. -/
  core : Nat
  pallet : Nat
  deriving DecidableEq, Repr

/-- A gather read through a window in progress (R275): message tag, region, module it went to, pallet, epoch, bytes still missing, the
instant it began, and the nanoseconds of its wait counted as a stall so far (R178). -/
structure GatherRead where
  tag : Nat
  region : Nat
  dst : Nat
  pallet : Nat
  epoch : Nat
  missing : Nat
  since : Nat
  stalled : Nat
  deriving DecidableEq, Repr

/-- The composition side. -/
structure Compose where
  /-- Held epochs, oldest first; the last is current (R270). -/
  epochs : List Epoch
  /-- COMPOSITION entries by position. -/
  entries : NMap CompEntry
  overflow : Bool
  /-- Rack slots: brick × 16 + slot. -/
  rack : NMap RackSlot
  gathers : List GatherRead
  /-- Aborts already sent: (GID, RID, STEP), with the origin's T_DETECT. -/
  aborted : List (Nat × Nat × Nat × Nat)
  deriving DecidableEq, Repr

/-! ## Associative engine and fair share (chapters 12, 13) -/

/-- An ORDER entry (R287): its entity is a ring number (step domains) or a flow index (port domains). -/
structure OrderEntry where
  vft : Nat
  domain : Nat
  eligible : Bool
  entity : Nat
  deriving DecidableEq, Repr

/-- The associative engine: the ORDER entries of each block of the table, packed (R294); the applied CLASSIFY rules are the
ASC_RULE values of the dictionary. -/
structure Assoc where
  order : NMap (List OrderEntry)
  /-- Inserts waiting for room (R295), oldest first. -/
  waiting : List OrderEntry
  /-- V_d by domain, and F_e by domain × 2^20 + entity (R324). -/
  v : NMap Nat
  f : NMap Nat
  /-- Weight and shaper of a STEP ring's classification, by ring number: weight × 2^16 + shaper (R323). -/
  ringClass : NMap Nat
  /-- Descriptors visible in STEP rings and not yet taken, oldest first, by ring number. -/
  descs : NMap (List StepDesc)
  /-- TOKENS by shaper (R328); shapers whose committed values take effect at the coming refill. -/
  tokens : NMap Nat
  deriving DecidableEq, Repr

/-! ## Observability and the test port (chapters 19, 21) -/

/-- Sampling, counter and trace state. -/
structure Observe where
  /-- OBS_PC_BUF by pallet (R436), as a ring of bytes, and the number of the next sampling instant (R434). -/
  pcBufs : NMap Mem
  pcNext : NMap Nat
  /-- OBS_CNT_BUF by set (a pallet, or 16 for the global set), SEQ of its last record, and T_RESET (R440). -/
  cntBufs : NMap Mem
  cntSeq : NMap Nat
  cntAt : NMap Nat
  /-- Event totals of the selected codes at the last reset of the counts: set × 16 + index (R438). -/
  cntBase : NMap Nat
  /-- Event totals that no dictionary counter holds: set × 2^16 + code (R437). -/
  tally : NMap Nat
  /-- The trace buffer: slot to sample (R442); the slot the next sample takes; whether the buffer has been filled. -/
  trace : NMap Nat
  traceNext : Nat
  traceWrapped : Bool
  /-- TIME64 in the latest marker, other samples since it, and matches since arming. -/
  traceMark : Nat
  traceSince : Nat
  traceMatches : Nat
  /-- OBS_TRACE_STATE: 0 OFF, 1 ARMED, 2 TRIGGERED, 3 FROZEN; and samples left of the post count R (R444). -/
  traceState : Nat
  postLeft : Nat
  tTrigger : Nat
  /-- EXTRA_TRIG, oldest first. -/
  extra : List Nat
  deriving DecidableEq, Repr

def Observe.reset : Observe :=
  { pcBufs := [], pcNext := [], cntBufs := [], cntSeq := [], cntAt := [], cntBase := [], tally := [], trace := [],
    traceNext := 0, traceWrapped := false, traceMark := 0, traceSince := 0, traceMatches := 0, traceState := 0,
    postLeft := 0, tTrigger := 0, extra := [] }

end Sys2Proof.Machine
end

