-- ==== Sys2Proof/Machine/Objects.lean ====
section
/-! DEFINITION. The object table of the dictionary (R404): every row of the object tables of chapters 03 to 17, with its
size (R382), access, views (R333), instance space (R381), default, commit point (R387) and the stated range of a whole
value. An object is named by OID = index × 256 + subindex. Checks that a single range cannot say stand in Machine/Writes.lean (`rangeOk`). -/

namespace Sys2Proof.Machine

/-- Access codes (00_scope, Notation). -/
inductive Access where
  | ro | rw | rws | wo
  deriving DecidableEq, Repr

/-- Instance spaces (R381, R404). -/
inductive Space where
  | module | pallet | brick | port | ld | queue | registration | slot | tenant | window | position | moduleNum | shaper
  | subscription | fmRing | fmDoorbell
  deriving DecidableEq, Repr

/-- Commit points (R387). -/
inductive CommitPoint where
  | none | onWrite | refill | stepBoundary | palletIdle | idle | geometry
  deriving DecidableEq, Repr

/-- A row of an object table. `size` is the type's size in bytes, `fixed` is false for an OCTET object marked "up to",
`readBoth` and `writeBoth` say that the unprivileged view may read or write it. `lo` and `hi` bound an integer value. -/
structure ObjRow where
  oid : Nat
  size : Nat
  fixed : Bool
  octet : Bool
  access : Access
  readBoth : Bool
  writeBoth : Bool
  space : Space
  dflt : Nat
  point : CommitPoint
  lo : Nat
  hi : Nat
  deriving DecidableEq, Repr

/-! ### Object names -/

def Obj.FMT_ERR_BOUND_MXFP4 : Nat := 0x220001
def Obj.FMT_ERR_BOUND_MXINT4 : Nat := 0x220002
def Obj.FMT_ERR_BOUND_K3 : Nat := 0x220003
def Obj.FMT_ERR_BOUND_K2 : Nat := 0x220004
def Obj.FMT_ERR_BOUND_MXFP6 : Nat := 0x220005
def Obj.FMT_OUTLIERS_MAX : Nat := 0x220006
def Obj.FMT_FALLBACK_NOTE : Nat := 0x220007
def Obj.FMT_SPILL_PER_PAGE : Nat := 0x220101
def Obj.FMT_SPILL_SHARED : Nat := 0x220102
def Obj.FMT_BLOCKS_WRITTEN : Nat := 0x220201
def Obj.FMT_FALLBACK_BLOCKS : Nat := 0x220202
def Obj.FMT_OUTLIERS_WRITTEN : Nat := 0x220203
def Obj.FMT_OUTLIER_FULL : Nat := 0x220204
def Obj.FMT_SPILL_DENIED : Nat := 0x220205
def Obj.FMT_RANGE_CLAMP : Nat := 0x220206
def Obj.FMT_ACC_SAT : Nat := 0x220207
def Obj.FMT_NAN_INPUT : Nat := 0x220208
def Obj.ATT_DENSE_LIMIT : Nat := 0x300201
def Obj.ATT_SEL_PAGES : Nat := 0x300401
def Obj.ATT_SINK_PAGES : Nat := 0x300402
def Obj.ATT_RECENT_PAGES : Nat := 0x300403
def Obj.ATT_RANGES_OPEN : Nat := 0x300404
def Obj.ATT_MASS_BOUND : Nat := 0x300501
def Obj.ATT_WIDEN_STEP : Nat := 0x300502
def Obj.ATT_WIDEN_MAX : Nat := 0x300503
def Obj.ATT_CALLS : Nat := 0x300801
def Obj.ATT_ANSWERS_OK : Nat := 0x300802
def Obj.ATT_TIMEOUT : Nat := 0x300803
def Obj.ATT_WIDEN_ROUNDS : Nat := 0x300804
def Obj.ATT_BOUND_UNMET : Nat := 0x300805
def Obj.ATT_PAGES_READ : Nat := 0x300806
def Obj.ATT_BLOCKS_SKIPPED : Nat := 0x300807
def Obj.ATT_CALL_DROPPED : Nat := 0x300808
def Obj.ATT_PAUSED : Nat := 0x300809
def Obj.ATT_MALFORMED : Nat := 0x30080A
def Obj.DRF_PALLET : Nat := 0x310001
def Obj.DRF_NODES : Nat := 0x310101
def Obj.DRF_SHAPE : Nat := 0x310102
def Obj.DRF_TOPQ : Nat := 0x310103
def Obj.DRF_WINDOW_PAGES : Nat := 0x310104
def Obj.DRF_LOGITS_WAIT_US : Nat := 0x310105
def Obj.DRF_STEPS : Nat := 0x310801
def Obj.DRF_NODES_DRAFTED : Nat := 0x310802
def Obj.DRF_NODES_ACCEPTED : Nat := 0x310803
def Obj.DRF_NO_DRAFT : Nat := 0x310804
def Obj.DRF_LOGITS_MALFORMED : Nat := 0x310805
def Obj.DRF_LOGITS_DROPPED : Nat := 0x310806
def Obj.DRF_LOGITS_TIMEOUT : Nat := 0x310807
def Obj.SMP_FRAMES_EMITTED : Nat := 0x311001
def Obj.SMP_RESIDUAL_DRAWS : Nat := 0x311002
def Obj.SMP_STOPS : Nat := 0x311003
def Obj.SMP_BLOCK_REFUSED : Nat := 0x311004
def Obj.RQS_SLOTS_MAX : Nat := 0x320001
def Obj.RQS_QUARANTINE : Nat := 0x320002
def Obj.RQS_COPY_GROUP : Nat := 0x320101
def Obj.RQS_OFFER_TIMEOUT : Nat := 0x320201
def Obj.RQS_MOVE_PORTS : Nat := 0x320202
def Obj.RQS_PLACE_WAIT : Nat := 0x320203
def Obj.RQS_MOVE : Nat := 0x320301
def Obj.RQS_REBUILD : Nat := 0x320401
def Obj.RQS_REGROUP : Nat := 0x320601
def Obj.RQS_STRAGGLER_MARGIN : Nat := 0x320501
def Obj.RQS_STRAGGLER_STEPS : Nat := 0x320502
def Obj.RQS_POOL_MEDIAN : Nat := 0x320503
def Obj.RQS_OFFERS : Nat := 0x320801
def Obj.RQS_PLACED : Nat := 0x320802
def Obj.RQS_DECLINED : Nat := 0x320803
def Obj.RQS_REBUILDS : Nat := 0x320804
def Obj.RQS_STALE_DROPPED : Nat := 0x320805
def Obj.RQS_STRAGGLER_EVENTS : Nat := 0x320806
def Obj.RQS_COPY_DEGRADED : Nat := 0x320807
def Obj.RQS_RELEASE_LOST : Nat := 0x320808
def Obj.RQS_MERGED_BLOCKS : Nat := 0x320809
def Obj.RQS_COPY_BYTES : Nat := 0x32080A
def Obj.MEM_HBM_QUOTA : Nat := 0x210001
def Obj.MEM_REQ_SPAN_LOG : Nat := 0x210002
def Obj.MEM_PAGES_PER_HEAD : Nat := 0x210003
def Obj.MEM_PT_ROOT : Nat := 0x210004
def Obj.MEM_PLACE : Nat := 0x210101
def Obj.MEM_PREFETCH_KIB : Nat := 0x210201
def Obj.MEM_STALL_NS : Nat := 0x210202
def Obj.MEM_SCRUB_PERIOD : Nat := 0x210301
def Obj.MEM_BRICK_SCRUB_MS : Nat := 0x210302
/-- First of the objects MEM_STALL_EVENTS; the k-th lies k − 1 above it. -/
def Obj.MEM_STALL_EVENTS : Nat := 0x210801
/-- First of the objects MEM_STALL_NS_SUM; the k-th lies k − 1 above it. -/
def Obj.MEM_STALL_NS_SUM : Nat := 0x210901
def Obj.MEM_TLB_MISSES : Nat := 0x210A01
def Obj.MEM_WALKS : Nat := 0x210A02
def Obj.MEM_PREFETCH_USED : Nat := 0x210A03
def Obj.MEM_PREFETCH_WASTED : Nat := 0x210A04
def Obj.MEM_WRITEBACK_SECTORS : Nat := 0x210A05
def Obj.MEM_ECC_HBM_CORR : Nat := 0x210B01
def Obj.MEM_ECC_HBM_UNCORR : Nat := 0x210B02
def Obj.MEM_ECC_BRICK_CORR : Nat := 0x210B03
def Obj.MEM_ECC_BRICK_UNCORR : Nat := 0x210B04
def Obj.MEM_ECC_MORTAR_CORR : Nat := 0x210B05
def Obj.MEM_ECC_MORTAR_UNCORR : Nat := 0x210B06
def Obj.CMP_WIRE_MODE : Nat := 0x330001
def Obj.CMP_STORE_MODE : Nat := 0x330002
def Obj.CMP_SAMPLE_STRIDE : Nat := 0x330003
def Obj.CMP_REREAD : Nat := 0x330004
def Obj.CMP_VERIFY : Nat := 0x330101
def Obj.CMP_BLOCKS_CODED : Nat := 0x330801
def Obj.CMP_BLOCKS_RAW : Nat := 0x330802
def Obj.CMP_BLOCKS_ZERO : Nat := 0x330803
def Obj.CMP_BYTES_IN : Nat := 0x330804
def Obj.CMP_BYTES_OUT : Nat := 0x330805
def Obj.CMP_CODE_ERR : Nat := 0x330806
def Obj.CMP_LEN_ERR : Nat := 0x330807
def Obj.CMP_CRC_ERR : Nat := 0x330808
def Obj.CMP_REREADS : Nat := 0x330809
def Obj.CMP_TABLE_REFUSED : Nat := 0x33080A
def Obj.CMP_SELFTEST_FAIL : Nat := 0x33080B
def Obj.TB_STATE : Nat := 0x110001
def Obj.TB_ERR_BOUND_NS : Nat := 0x110002
def Obj.TB_OFFSET_PS : Nat := 0x110003
def Obj.TB_SOURCE_ORDER : Nat := 0x110101
def Obj.TB_PTP_DOMAIN : Nat := 0x110102
def Obj.TB_EPOCH_TAI : Nat := 0x110103
def Obj.TB_HOLDOVER_S : Nat := 0x110104
def Obj.TB_PPS_SECONDS : Nat := 0x110105
def Obj.TB_LOCK_LOSSES : Nat := 0x110801
def Obj.TB_SOURCE_SWITCHES : Nat := 0x110802
def Obj.TB_HOLDOVER_ENTRIES : Nat := 0x110803
def Obj.LNK_PORT_ENABLE : Nat := 0x400001
def Obj.LNK_MAC : Nat := 0x400002
def Obj.LNK_PMD : Nat := 0x400003
def Obj.LNK_CABLE_NS : Nat := 0x400101
def Obj.LNK_PFC_ALLOT : Nat := 0x400102
def Obj.LNK_PARTNER_NS : Nat := 0x400103
def Obj.LNK_XON_GAP_KIB : Nat := 0x400104
def Obj.LNK_PFC_ENABLE : Nat := 0x400105
def Obj.LNK_REMAP_SYM : Nat := 0x400201
def Obj.LNK_STORM_US : Nat := 0x400202
def Obj.LNK_STATE : Nat := 0x400801
def Obj.LNK_LANE_MAP : Nat := 0x400802
def Obj.LNK_SPARE_OK : Nat := 0x400803
def Obj.LNK_FRAMES_TX : Nat := 0x400901
def Obj.LNK_FRAMES_RX : Nat := 0x400902
def Obj.LNK_BYTES_TX : Nat := 0x400903
def Obj.LNK_BYTES_RX : Nat := 0x400904
def Obj.LNK_FCS_ERR : Nat := 0x400905
def Obj.LNK_FEC_CORR_CW : Nat := 0x400906
def Obj.LNK_FEC_UNCORR_CW : Nat := 0x400907
def Obj.LNK_DROP_FORMAT : Nat := 0x400908
def Obj.LNK_PAUSE_8023X : Nat := 0x400909
def Obj.LNK_PFC_STORM : Nat := 0x40090A
def Obj.LNK_PFC_OVERRUN : Nat := 0x40090B
def Obj.LNK_REMAPS : Nat := 0x40090C
def Obj.LNK_REMAP_SUDDEN : Nat := 0x40090D
def Obj.LNK_DOWN_EVENTS : Nat := 0x40090E
def Obj.LNK_TRAIN_FAIL : Nat := 0x40090F
def Obj.LNK_SER_EXCESS : Nat := 0x400910
def Obj.LNK_PFC_TX : Nat := 0x400911
def Obj.LNK_PFC_RX : Nat := 0x400912
/-- First of the objects LNK_PAUSED_NS; the k-th lies k − 1 above it. -/
def Obj.LNK_PAUSED_NS : Nat := 0x400A01
/-- First of the objects LNK_LANE_SYM; the k-th lies k − 1 above it. -/
def Obj.LNK_LANE_SYM : Nat := 0x400B01
def Obj.TRN_QCTX : Nat := 0x410001
def Obj.TRN_QMODIFY : Nat := 0x410002
def Obj.TRN_WINDOW : Nat := 0x410101
def Obj.TRN_RETRY_MAX : Nat := 0x410102
def Obj.TRN_NR_BACKOFF_NS : Nat := 0x410103
def Obj.TRN_FLOW_IDLE_NS : Nat := 0x410104
def Obj.TRN_RELAXED_FLOWS : Nat := 0x410105
def Obj.TRN_MISS_SLOTS : Nat := 0x410106
def Obj.TRN_CTX_HOST : Nat := 0x410107
def Obj.TRN_CTX_IDLE_US : Nat := 0x410108
def Obj.TRN_REG : Nat := 0x410201
def Obj.TRN_PKTS_TX : Nat := 0x410801
def Obj.TRN_PKTS_RX : Nat := 0x410802
def Obj.TRN_RETX : Nat := 0x410803
def Obj.TRN_ACKS_TX : Nat := 0x410804
def Obj.TRN_TIMER_EXP : Nat := 0x410805
def Obj.TRN_OOS_DROP : Nat := 0x410806
def Obj.TRN_NR_TX : Nat := 0x410807
def Obj.TRN_NR_RX : Nat := 0x410808
def Obj.TRN_DUP_RX : Nat := 0x410809
def Obj.TRN_AGED_DROP : Nat := 0x41080A
def Obj.TRN_STALE_FLOW : Nat := 0x41080B
def Obj.TRN_NO_FLOW : Nat := 0x41080C
def Obj.TRN_CTX_MISSES : Nat := 0x41080D
def Obj.TRN_PORT_MOVES : Nat := 0x41080E
def Obj.TRN_FLOW_FAIL : Nat := 0x41080F
def Obj.TRN_ICV_ERR : Nat := 0x410810
def Obj.TRN_MALFORMED : Nat := 0x410811
def Obj.TRN_MISROUTED : Nat := 0x410812
def Obj.TRN_FLOW_FULL : Nat := 0x410813
def Obj.TRN_MISS_FULL : Nat := 0x410814
def Obj.TRN_CQ_FULL_NS : Nat := 0x410815
def Obj.TRN_Q_ERRORS : Nat := 0x410816
def Obj.TRN_REVOKES : Nat := 0x410817
def Obj.TRN_REVOKED_REFUSED : Nat := 0x410818
def Obj.RMF_MODULE_NUM : Nat := 0x420001
def Obj.RMF_EPOCH : Nat := 0x420002
def Obj.RMF_EPOCHS_HELD : Nat := 0x420003
def Obj.RMF_MAP_STAGE : Nat := 0x420101
def Obj.RMF_MAP_COMMIT : Nat := 0x420102
def Obj.RMF_MAP_DISCARD : Nat := 0x420103
def Obj.RMF_WINDOW : Nat := 0x420201
def Obj.RMF_DEAD : Nat := 0x420301
def Obj.RMF_LOADS : Nat := 0x420801
def Obj.RMF_STORES : Nat := 0x420802
def Obj.RMF_ATOMICS : Nat := 0x420803
def Obj.RMF_PUTS : Nat := 0x420804
def Obj.RMF_GETS : Nat := 0x420805
def Obj.RMF_TARGET_DEAD : Nat := 0x420806
def Obj.RMF_EPOCH_STALE_RX : Nat := 0x420807
def Obj.RMF_EPOCH_STALE_TX : Nat := 0x420808
def Obj.RMF_EPOCH_AHEAD : Nat := 0x420809
def Obj.RMF_PURGES : Nat := 0x42080A
def Obj.RMF_WRITER_REFUSED : Nat := 0x42080B
def Obj.RMF_COLL_ABORTS : Nat := 0x42080C
def Obj.RMF_MAP_REFUSED : Nat := 0x42080D
def Obj.ASC_TABLE_BLOCKS : Nat := 0x430001
def Obj.ASC_UPDATE_MAX : Nat := 0x430002
def Obj.ASC_ORDER_SLACK : Nat := 0x430003
def Obj.ASC_RULE : Nat := 0x430101
def Obj.ASC_ENTRY : Nat := 0x430201
/-- First of the objects ASC_SEARCHES; the k-th lies k − 1 above it. -/
def Obj.ASC_SEARCHES : Nat := 0x430801
def Obj.ASC_UPDATES : Nat := 0x430805
def Obj.ASC_STOLEN_CYCLES : Nat := 0x430806
def Obj.ASC_ORDER_WAIT : Nat := 0x430807
def Obj.ASC_ORDER_FULL : Nat := 0x430808
def Obj.ASC_RULE_MISS : Nat := 0x430809
/-- First of the objects ASC_FREE; the k-th lies k − 1 above it. -/
def Obj.ASC_FREE : Nat := 0x430901
def Obj.PAL_IMAGE : Nat := 0x201101
def Obj.PAL_STATE : Nat := 0x201102
def Obj.PAL_IMAGE_ID : Nat := 0x201103
def Obj.PAL_BAL_PAIR : Nat := 0x201201
def Obj.PAL_BAL_ENABLE : Nat := 0x201202
def Obj.PAL_BAL_HIGH : Nat := 0x201203
def Obj.PAL_BAL_LOW : Nat := 0x201204
def Obj.PAL_BAL_WINDOW_US : Nat := 0x201205
def Obj.PAL_BAL_HOLD_US : Nat := 0x201206
def Obj.PAL_LOADS : Nat := 0x201801
def Obj.PAL_LOAD_REFUSED : Nat := 0x201802
def Obj.PAL_RESTORE_MISMATCH : Nat := 0x201803
def Obj.PAL_BAL_MOVES : Nat := 0x201804
def Obj.SCH_STEP_BUDGET_NS : Nat := 0x500001
def Obj.SCH_HBM_SHARE_PM : Nat := 0x500002
def Obj.SCH_LOAD_LIMIT_PM : Nat := 0x500003
def Obj.SCH_PLAN_MHZ : Nat := 0x500004
def Obj.SCH_WEIGHT_DEFAULT : Nat := 0x500101
def Obj.SCH_QUANTUM : Nat := 0x500102
def Obj.SCH_REFILL_NS : Nat := 0x500103
def Obj.SCH_SHAPER : Nat := 0x500201
def Obj.SCH_ADMITTED : Nat := 0x500801
def Obj.SCH_DENIED_MEM : Nat := 0x500802
def Obj.SCH_DENIED_TIME : Nat := 0x500803
def Obj.SCH_DESC_REFUSED : Nat := 0x500804
def Obj.SCH_DEADLINE_MISSED : Nat := 0x500805
def Obj.SCH_CANCELLED : Nat := 0x500806
def Obj.SCH_REBASES : Nat := 0x500807
def Obj.SCH_SHAPER_REPOP : Nat := 0x500808
def Obj.SCH_LOAD_PPM : Nat := 0x500901
def Obj.SCH_FRAMES_RESERVED : Nat := 0x500902
def Obj.SEC_DEVICE_ID : Nat := 0x600001
def Obj.SEC_MEAS : Nat := 0x600002
def Obj.SEC_SVN : Nat := 0x600003
def Obj.SEC_CFG_SIGNER : Nat := 0x600004
def Obj.SEC_IDENTITY_CERT : Nat := 0x600005
def Obj.SEC_DEBUG_OPEN : Nat := 0x600006
def Obj.SEC_TENANT : Nat := 0x600101
def Obj.SEC_SLOT_ASSIGN : Nat := 0x600201
def Obj.SEC_SLOT_STATE : Nat := 0x600202
def Obj.SEC_ATTEST_REQ : Nat := 0x600301
def Obj.SEC_ATTEST_REPORT : Nat := 0x600302
def Obj.SEC_KEY_RELEASE : Nat := 0x600401
def Obj.SEC_RETIRE : Nat := 0x600402
def Obj.SEC_IMAGE_INSTALL : Nat := 0x600501
def Obj.SEC_EK_LIFE_S : Nat := 0x600601
def Obj.SEC_DRAIN_MAX_MS : Nat := 0x600602
def Obj.SEC_RELEASES_OK : Nat := 0x600801
def Obj.SEC_RELEASE_REFUSED : Nat := 0x600802
def Obj.SEC_RETIREMENTS : Nat := 0x600803
def Obj.SEC_KEYID_DROPPED : Nat := 0x600804
def Obj.SEC_ZEROISED : Nat := 0x600805
def Obj.SEC_IMAGE_REFUSED : Nat := 0x600806
def Obj.SEC_DRAIN_FORCED : Nat := 0x600807
def Obj.SEC_ATTEST_REPORTS : Nat := 0x600808
def Obj.SEC_GATE_CLOSED : Nat := 0x600809
def Obj.HST_HDM_POOL_MIB : Nat := 0x700001
def Obj.HST_LD_ALLOC_MIB : Nat := 0x700002
def Obj.HST_SEQ_WAIT_US : Nat := 0x700101
def Obj.HST_DMA_TIMEOUT_US : Nat := 0x700102
def Obj.HST_FM_WINDOW : Nat := 0x700301
def Obj.HST_FM_RING : Nat := 0x700302
def Obj.HST_FM_DOORBELL : Nat := 0x700303
def Obj.HST_DOORBELLS : Nat := 0x700801
def Obj.HST_DB_REFUSED : Nat := 0x700802
def Obj.HST_SEQ_WAITS : Nat := 0x700803
def Obj.HST_RING_ERRORS : Nat := 0x700804
def Obj.HST_RESULT_FULL_NS : Nat := 0x700805
def Obj.HST_MIRROR_CORR : Nat := 0x700806
def Obj.HST_MIRROR_UNCORR : Nat := 0x700807
def Obj.HST_CPL_FULL_NS : Nat := 0x700808
def Obj.HST_EVENTS_LOST : Nat := 0x700809
def Obj.HST_DMA_ERRORS : Nat := 0x70080A
def Obj.HST_LINK_DEGRADED : Nat := 0x70080B
def Obj.HST_LD_RESETS : Nat := 0x70080C
def Obj.BRK_COMMIT : Nat := 0xF00001
def Obj.BRK_STAGE_DISCARD : Nat := 0xF00002
def Obj.BRK_COMMIT_STATE : Nat := 0xF00101
def Obj.BRK_PENDING : Nat := 0xF00102
def Obj.BRK_VDP_PORT : Nat := 0xF00201
def Obj.BRK_SESSION_IDLE_S : Nat := 0xF00202
def Obj.BRK_DICT_READS : Nat := 0xF00801
def Obj.BRK_DICT_WRITES : Nat := 0xF00802
def Obj.BRK_VDP_DROPPED : Nat := 0xF00803
def Obj.BRK_VDP_AUTH_FAIL : Nat := 0xF00804
def Obj.BRK_COMMIT_REFUSED : Nat := 0xF00805
def Obj.BRK_VDP_REPEATS : Nat := 0xF00806
def Obj.BRK_EVENTS_UNSENT : Nat := 0xF00807
def Obj.BRK_SAMPLES_SKIPPED : Nat := 0xF00808
def Obj.OBS_SUB : Nat := 0x9F0001
def Obj.BRK_VENDOR_NAME : Nat := 0x100001
def Obj.BRK_PART_NUMBER : Nat := 0x100002
def Obj.BRK_STEPPING : Nat := 0x100003
def Obj.BRK_SERIAL : Nat := 0x100004
def Obj.BRK_IMAGE_IDS : Nat := 0x100005
def Obj.BRK_STRAPS : Nat := 0x100006
def Obj.BRK_UPTIME_NS : Nat := 0x100007
def Obj.BRK_DICT_VERSION : Nat := 0x100008
def Obj.BRK_BOOT_STATE : Nat := 0x100009
def Obj.PWR_BUDGET_W : Nat := 0x120001
def Obj.PWR_INPUT_MV : Nat := 0x120002
def Obj.PWR_INPUT_MA : Nat := 0x120003
def Obj.PWR_MODULE_W : Nat := 0x120004
def Obj.PWR_ATT_FLOOR_MHZ : Nat := 0x120101
def Obj.PWR_PALLET_PRIO : Nat := 0x120102
def Obj.PWR_PALLET_MAX_MHZ : Nat := 0x120103
def Obj.PWR_VF_TABLE : Nat := 0x120201
def Obj.PWR_TJ_WARN_C : Nat := 0x120301
def Obj.PWR_TJ_THROTTLE_C : Nat := 0x120302
def Obj.PWR_TJ_TRIP_C : Nat := 0x120303
def Obj.PWR_TJ_HOTTEST : Nat := 0x120304
def Obj.PWR_LOWERINGS : Nat := 0x120801
def Obj.PWR_BUDGET_EXCEED_NS : Nat := 0x120802
def Obj.PWR_FLOOR_NS : Nat := 0x120803
def Obj.PWR_THERMAL_LOWERINGS : Nat := 0x120804
def Obj.PWR_THERMAL_STOPS : Nat := 0x120805
def Obj.PWR_INPUT_EVENTS : Nat := 0x120806
def Obj.PWR_ISLAND_SETTING : Nat := 0x121001
def Obj.PWR_ISLAND_REFUSED : Nat := 0x121002
def Obj.PWR_ISLAND_TEMP : Nat := 0x121003
def Obj.BRK_NODE_ROLE : Nat := 0x200001
def Obj.BRK_CLAIM_T3 : Nat := 0x200101
def Obj.BRK_CLAIM_T2 : Nat := 0x200102
def Obj.BRK_CLAIM_T1 : Nat := 0x200103
def Obj.BRK_CLAIM_T0 : Nat := 0x200104
def Obj.BRK_ARR_STALE : Nat := 0x200201
def Obj.PAL_GEOMETRY : Nat := 0x201001
def Obj.ERR_HEALTH : Nat := 0x800001
def Obj.ERR_BRICK_FAILED : Nat := 0x800002
def Obj.ERR_FAULT_OUT_MASK : Nat := 0x800003
def Obj.ERR_FAULT_CLEAR : Nat := 0x800004
def Obj.ERR_PALLET_FAULT : Nat := 0x800101
def Obj.ERR_EVENT_LOG : Nat := 0x800201
def Obj.ERR_EVENT_SEQ : Nat := 0x800202
def Obj.ERR_PALLET_FAULTS : Nat := 0x800801
def Obj.ERR_EVENTS : Nat := 0x800802
def Obj.ERR_UNCORR_WORDS : Nat := 0x800803
def Obj.ERR_UNCLAIMED_ARRIVALS : Nat := 0x800804
def Obj.ERR_FAULT_ASSERTS : Nat := 0x800805
def Obj.OBS_PC_PERIOD_NS : Nat := 0x900001
def Obj.OBS_PC_BUF_KIB : Nat := 0x900002
def Obj.OBS_PC_BUF : Nat := 0x900003
def Obj.OBS_CNT_SELECT : Nat := 0x900101
def Obj.OBS_CNT_INTERVAL_NS : Nat := 0x900102
def Obj.OBS_CNT_BUF : Nat := 0x900103
def Obj.OBS_CNT_GLOBAL_SELECT : Nat := 0x900104
def Obj.OBS_CNT_GLOBAL_BUF : Nat := 0x900105
def Obj.OBS_TRACE_CTRL : Nat := 0x900201
def Obj.OBS_TRACE_TRIGGER : Nat := 0x900202
def Obj.OBS_TRACE_POST : Nat := 0x900203
def Obj.OBS_TRACE_STATE : Nat := 0x900204
def Obj.OBS_TRACE_BUF : Nat := 0x900205
def Obj.OBS_TRACE_T_TRIGGER : Nat := 0x900206
def Obj.OBS_TRACE_EXTRA_TRIG : Nat := 0x900207
def Obj.OBS_MUX_SEL : Nat := 0x900301
def Obj.OBS_CLK_DIV : Nat := 0x900302
def Obj.OBS_TRACE_OVERWRITTEN : Nat := 0x900801
def Obj.OBS_TRACE_EXTRA_COUNT : Nat := 0x900802
def Obj.OBS_PC_SAMPLES : Nat := 0x900803
def Obj.OBS_PC_DROPPED : Nat := 0x900804

/-! ### The rows -/

def objRows0 : List ObjRow := [
  ⟨0x220001, 2, true, false, .rws, true, false, .pallet, 655, .stepBoundary, 272, 65535⟩,
  ⟨0x220002, 2, true, false, .rws, true, false, .pallet, 655, .stepBoundary, 272, 65535⟩,
  ⟨0x220003, 2, true, false, .rws, true, false, .pallet, 3277, .stepBoundary, 272, 65535⟩,
  ⟨0x220004, 2, true, false, .rws, true, false, .pallet, 13107, .stepBoundary, 272, 65535⟩,
  ⟨0x220005, 2, true, false, .rws, true, false, .pallet, 272, .stepBoundary, 272, 65535⟩,
  ⟨0x220006, 1, true, false, .rws, true, false, .pallet, 2, .stepBoundary, 0, 4⟩,
  ⟨0x220007, 2, true, false, .rws, true, false, .pallet, 50, .stepBoundary, 0, 1000⟩,
  ⟨0x220101, 2, true, false, .rws, true, false, .pallet, 16, .idle, 0, 512⟩,
  ⟨0x220102, 4, true, false, .rws, true, false, .pallet, 0, .idle, 0, 4294967295⟩,
  ⟨0x220201, 8, true, false, .ro, true, true, .pallet, 0, .none, 0, 18446744073709551615⟩,
  ⟨0x220202, 8, true, false, .ro, true, true, .pallet, 0, .none, 0, 18446744073709551615⟩,
  ⟨0x220203, 8, true, false, .ro, true, true, .pallet, 0, .none, 0, 18446744073709551615⟩,
  ⟨0x220204, 8, true, false, .ro, true, true, .pallet, 0, .none, 0, 18446744073709551615⟩,
  ⟨0x220205, 8, true, false, .ro, true, true, .pallet, 0, .none, 0, 18446744073709551615⟩,
  ⟨0x220206, 8, true, false, .ro, true, true, .pallet, 0, .none, 0, 18446744073709551615⟩,
  ⟨0x220207, 8, true, false, .ro, true, true, .pallet, 0, .none, 0, 18446744073709551615⟩,
  ⟨0x220208, 8, true, false, .ro, true, true, .pallet, 0, .none, 0, 18446744073709551615⟩,
  ⟨0x300201, 2, true, false, .rws, true, false, .pallet, 32, .stepBoundary, 1, 4096⟩,
  ⟨0x300401, 2, true, false, .rws, true, false, .pallet, 27, .stepBoundary, 1, 256⟩,
  ⟨0x300402, 1, true, false, .rws, true, false, .pallet, 1, .stepBoundary, 0, 8⟩,
  ⟨0x300403, 1, true, false, .rws, true, false, .pallet, 4, .stepBoundary, 1, 16⟩,
  ⟨0x300404, 1, true, false, .rws, true, false, .pallet, 8, .stepBoundary, 1, 64⟩,
  ⟨0x300501, 2, true, false, .rws, true, false, .pallet, 655, .stepBoundary, 1, 65535⟩,
  ⟨0x300502, 1, true, false, .rws, true, false, .pallet, 8, .stepBoundary, 1, 64⟩,
  ⟨0x300503, 2, true, false, .rws, true, false, .pallet, 32, .stepBoundary, 0, 256⟩,
  ⟨0x300801, 8, true, false, .ro, true, true, .pallet, 0, .none, 0, 18446744073709551615⟩,
  ⟨0x300802, 8, true, false, .ro, true, true, .pallet, 0, .none, 0, 18446744073709551615⟩,
  ⟨0x300803, 8, true, false, .ro, true, true, .pallet, 0, .none, 0, 18446744073709551615⟩,
  ⟨0x300804, 8, true, false, .ro, true, true, .pallet, 0, .none, 0, 18446744073709551615⟩,
  ⟨0x300805, 8, true, false, .ro, true, true, .pallet, 0, .none, 0, 18446744073709551615⟩,
  ⟨0x300806, 8, true, false, .ro, true, true, .pallet, 0, .none, 0, 18446744073709551615⟩,
  ⟨0x300807, 8, true, false, .ro, true, true, .pallet, 0, .none, 0, 18446744073709551615⟩,
  ⟨0x300808, 8, true, false, .ro, true, true, .pallet, 0, .none, 0, 18446744073709551615⟩,
  ⟨0x300809, 8, true, false, .ro, true, true, .pallet, 0, .none, 0, 18446744073709551615⟩,
  ⟨0x30080A, 8, true, false, .ro, true, true, .pallet, 0, .none, 0, 18446744073709551615⟩,
  ⟨0x310001, 1, true, false, .rws, true, false, .pallet, 255, .idle, 0, 15⟩,
  ⟨0x310101, 1, true, false, .rws, true, false, .pallet, 16, .stepBoundary, 1, 32⟩,
  ⟨0x310102, 32, true, true, .rws, true, false, .pallet, 0xE0D0C0B0A09080706050301010000FF, .stepBoundary, 0, 0⟩,
  ⟨0x310103, 1, true, false, .rws, true, false, .pallet, 64, .stepBoundary, 1, 64⟩,
  ⟨0x310104, 1, true, false, .rws, true, false, .pallet, 16, .stepBoundary, 1, 64⟩,
  ⟨0x310105, 4, true, false, .rws, true, false, .pallet, 2000, .stepBoundary, 100, 1000000⟩,
  ⟨0x310801, 8, true, false, .ro, true, true, .pallet, 0, .none, 0, 18446744073709551615⟩,
  ⟨0x310802, 8, true, false, .ro, true, true, .pallet, 0, .none, 0, 18446744073709551615⟩,
  ⟨0x310803, 8, true, false, .ro, true, true, .pallet, 0, .none, 0, 18446744073709551615⟩,
  ⟨0x310804, 8, true, false, .ro, true, true, .pallet, 0, .none, 0, 18446744073709551615⟩,
  ⟨0x310805, 8, true, false, .ro, true, true, .pallet, 0, .none, 0, 18446744073709551615⟩]
def objRows1 : List ObjRow := [
  ⟨0x310806, 8, true, false, .ro, true, true, .pallet, 0, .none, 0, 18446744073709551615⟩,
  ⟨0x310807, 8, true, false, .ro, true, true, .pallet, 0, .none, 0, 18446744073709551615⟩,
  ⟨0x311001, 8, true, false, .ro, true, true, .pallet, 0, .none, 0, 18446744073709551615⟩,
  ⟨0x311002, 8, true, false, .ro, true, true, .pallet, 0, .none, 0, 18446744073709551615⟩,
  ⟨0x311003, 8, true, false, .ro, true, true, .pallet, 0, .none, 0, 18446744073709551615⟩,
  ⟨0x311004, 8, true, false, .ro, true, true, .pallet, 0, .none, 0, 18446744073709551615⟩,
  ⟨0x320001, 4, true, false, .rws, true, false, .module, 65536, .idle, 1, 1048575⟩,
  ⟨0x320002, 4, true, false, .rws, true, false, .module, 500000, .idle, 500000, 10000000⟩,
  ⟨0x320101, 12, true, true, .rws, false, false, .pallet, 0, .stepBoundary, 0, 0⟩,
  ⟨0x320201, 4, true, false, .rws, true, false, .module, 2000000, .idle, 100000, 100000000⟩,
  ⟨0x320202, 1, true, false, .rws, true, false, .module, 1, .idle, 1, 12⟩,
  ⟨0x320203, 4, true, false, .rws, true, false, .module, 20000000, .idle, 1000000, 100000000⟩,
  ⟨0x320301, 16, true, true, .wo, false, false, .module, 0, .none, 0, 0⟩,
  ⟨0x320401, 24, true, true, .wo, false, false, .module, 0, .none, 0, 0⟩,
  ⟨0x320601, 20, true, true, .wo, false, false, .module, 0, .none, 0, 0⟩,
  ⟨0x320501, 2, true, false, .rws, false, false, .module, 250, .stepBoundary, 1, 10000⟩,
  ⟨0x320502, 1, true, false, .rws, false, false, .module, 8, .stepBoundary, 1, 255⟩,
  ⟨0x320503, 4, true, false, .rw, false, false, .pallet, 0, .none, 0, 4294967295⟩,
  ⟨0x320801, 8, true, false, .ro, true, true, .module, 0, .none, 0, 18446744073709551615⟩,
  ⟨0x320802, 8, true, false, .ro, true, true, .module, 0, .none, 0, 18446744073709551615⟩,
  ⟨0x320803, 8, true, false, .ro, true, true, .module, 0, .none, 0, 18446744073709551615⟩,
  ⟨0x320804, 8, true, false, .ro, false, false, .module, 0, .none, 0, 18446744073709551615⟩,
  ⟨0x320805, 8, true, false, .ro, false, false, .module, 0, .none, 0, 18446744073709551615⟩,
  ⟨0x320806, 8, true, false, .ro, false, false, .module, 0, .none, 0, 18446744073709551615⟩,
  ⟨0x320807, 8, true, false, .ro, false, false, .module, 0, .none, 0, 18446744073709551615⟩,
  ⟨0x320808, 8, true, false, .ro, false, false, .module, 0, .none, 0, 18446744073709551615⟩,
  ⟨0x320809, 8, true, false, .ro, true, true, .module, 0, .none, 0, 18446744073709551615⟩,
  ⟨0x32080A, 8, true, false, .ro, false, false, .module, 0, .none, 0, 18446744073709551615⟩,
  ⟨0x210001, 4, true, false, .rws, true, false, .pallet, 0, .idle, 0, 4294967295⟩,
  ⟨0x210002, 1, true, false, .rws, true, false, .pallet, 36, .idle, 34, 40⟩,
  ⟨0x210003, 2, true, false, .rws, true, false, .pallet, 1024, .idle, 64, 8192⟩,
  ⟨0x210004, 8, true, false, .ro, false, false, .pallet, 0, .none, 0, 18446744073709551615⟩,
  ⟨0x210101, 32, true, true, .wo, false, false, .pallet, 0, .none, 0, 0⟩,
  ⟨0x210201, 2, true, false, .rws, true, false, .pallet, 512, .stepBoundary, 0, 1024⟩,
  ⟨0x210202, 2, true, false, .rws, true, false, .pallet, 200, .stepBoundary, 50, 10000⟩,
  ⟨0x210301, 4, true, false, .rw, false, false, .module, 3600, .none, 600, 604800⟩,
  ⟨0x210302, 2, true, false, .rw, false, false, .module, 100, .none, 10, 10000⟩,
  ⟨0x210801, 8, true, false, .ro, true, true, .pallet, 0, .none, 0, 18446744073709551615⟩,
  ⟨0x210802, 8, true, false, .ro, true, true, .pallet, 0, .none, 0, 18446744073709551615⟩,
  ⟨0x210803, 8, true, false, .ro, true, true, .pallet, 0, .none, 0, 18446744073709551615⟩,
  ⟨0x210804, 8, true, false, .ro, true, true, .pallet, 0, .none, 0, 18446744073709551615⟩,
  ⟨0x210805, 8, true, false, .ro, true, true, .pallet, 0, .none, 0, 18446744073709551615⟩,
  ⟨0x210806, 8, true, false, .ro, true, true, .pallet, 0, .none, 0, 18446744073709551615⟩,
  ⟨0x210901, 8, true, false, .ro, true, true, .pallet, 0, .none, 0, 18446744073709551615⟩,
  ⟨0x210902, 8, true, false, .ro, true, true, .pallet, 0, .none, 0, 18446744073709551615⟩,
  ⟨0x210903, 8, true, false, .ro, true, true, .pallet, 0, .none, 0, 18446744073709551615⟩]
def objRows2 : List ObjRow := [
  ⟨0x210904, 8, true, false, .ro, true, true, .pallet, 0, .none, 0, 18446744073709551615⟩,
  ⟨0x210905, 8, true, false, .ro, true, true, .pallet, 0, .none, 0, 18446744073709551615⟩,
  ⟨0x210906, 8, true, false, .ro, true, true, .pallet, 0, .none, 0, 18446744073709551615⟩,
  ⟨0x210A01, 8, true, false, .ro, true, true, .pallet, 0, .none, 0, 18446744073709551615⟩,
  ⟨0x210A02, 8, true, false, .ro, true, true, .pallet, 0, .none, 0, 18446744073709551615⟩,
  ⟨0x210A03, 8, true, false, .ro, true, true, .pallet, 0, .none, 0, 18446744073709551615⟩,
  ⟨0x210A04, 8, true, false, .ro, true, true, .pallet, 0, .none, 0, 18446744073709551615⟩,
  ⟨0x210A05, 8, true, false, .ro, true, true, .pallet, 0, .none, 0, 18446744073709551615⟩,
  ⟨0x210B01, 8, true, false, .ro, false, false, .module, 0, .none, 0, 18446744073709551615⟩,
  ⟨0x210B02, 8, true, false, .ro, false, false, .module, 0, .none, 0, 18446744073709551615⟩,
  ⟨0x210B03, 8, true, false, .ro, false, false, .module, 0, .none, 0, 18446744073709551615⟩,
  ⟨0x210B04, 8, true, false, .ro, false, false, .module, 0, .none, 0, 18446744073709551615⟩,
  ⟨0x210B05, 8, true, false, .ro, false, false, .module, 0, .none, 0, 18446744073709551615⟩,
  ⟨0x210B06, 8, true, false, .ro, false, false, .module, 0, .none, 0, 18446744073709551615⟩,
  ⟨0x330001, 1, true, false, .rws, false, false, .module, 1, .idle, 0, 1⟩,
  ⟨0x330002, 1, true, false, .rws, false, false, .module, 1, .idle, 0, 2⟩,
  ⟨0x330003, 1, true, false, .rws, false, false, .module, 8, .idle, 1, 64⟩,
  ⟨0x330004, 1, true, false, .rws, false, false, .module, 2, .idle, 0, 4⟩,
  ⟨0x330101, 8, true, true, .wo, false, false, .module, 0, .none, 0, 0⟩,
  ⟨0x330801, 8, true, false, .ro, false, false, .module, 0, .none, 0, 18446744073709551615⟩,
  ⟨0x330802, 8, true, false, .ro, false, false, .module, 0, .none, 0, 18446744073709551615⟩,
  ⟨0x330803, 8, true, false, .ro, false, false, .module, 0, .none, 0, 18446744073709551615⟩,
  ⟨0x330804, 8, true, false, .ro, false, false, .module, 0, .none, 0, 18446744073709551615⟩,
  ⟨0x330805, 8, true, false, .ro, false, false, .module, 0, .none, 0, 18446744073709551615⟩,
  ⟨0x330806, 8, true, false, .ro, false, false, .module, 0, .none, 0, 18446744073709551615⟩,
  ⟨0x330807, 8, true, false, .ro, false, false, .module, 0, .none, 0, 18446744073709551615⟩,
  ⟨0x330808, 8, true, false, .ro, false, false, .module, 0, .none, 0, 18446744073709551615⟩,
  ⟨0x330809, 8, true, false, .ro, false, false, .module, 0, .none, 0, 18446744073709551615⟩,
  ⟨0x33080A, 8, true, false, .ro, false, false, .module, 0, .none, 0, 18446744073709551615⟩,
  ⟨0x33080B, 8, true, false, .ro, false, false, .module, 0, .none, 0, 18446744073709551615⟩,
  ⟨0x110001, 1, true, false, .ro, true, true, .module, 0, .none, 0, 255⟩,
  ⟨0x110002, 4, true, false, .ro, true, true, .module, 4294967295, .none, 0, 4294967295⟩,
  ⟨0x110003, 4, true, false, .ro, false, false, .module, 0, .none, 0, 4294967295⟩,
  ⟨0x110101, 3, true, true, .rws, false, false, .module, 131331, .idle, 0, 0⟩,
  ⟨0x110102, 1, true, false, .rws, false, false, .module, 0, .idle, 0, 127⟩,
  ⟨0x110103, 8, true, false, .rws, false, false, .module, 0, .idle, 0, 18446744073709551615⟩,
  ⟨0x110104, 2, true, false, .rw, false, false, .module, 10, .none, 1, 3600⟩,
  ⟨0x110105, 8, true, false, .rw, false, false, .module, 0, .none, 0, 18446744073709551615⟩,
  ⟨0x110801, 8, true, false, .ro, false, false, .module, 0, .none, 0, 18446744073709551615⟩,
  ⟨0x110802, 8, true, false, .ro, false, false, .module, 0, .none, 0, 18446744073709551615⟩,
  ⟨0x110803, 8, true, false, .ro, false, false, .module, 0, .none, 0, 18446744073709551615⟩,
  ⟨0x400001, 1, true, false, .rw, false, false, .port, 0, .none, 0, 1⟩,
  ⟨0x400002, 6, true, false, .rw, false, false, .port, 0, .none, 0, 281474976710655⟩,
  ⟨0x400003, 1, true, false, .rw, false, false, .port, 0, .none, 0, 2⟩,
  ⟨0x400101, 2, true, false, .rw, false, false, .port, 50, .none, 0, 1000⟩,
  ⟨0x400102, 16, true, true, .rw, false, false, .port, 2658496557008018513668235278935917056, .none, 0, 0⟩]
def objRows3 : List ObjRow := [
  ⟨0x400103, 2, true, false, .rw, false, false, .port, 200, .none, 0, 1000⟩,
  ⟨0x400104, 2, true, false, .rw, false, false, .port, 32, .none, 8, 256⟩,
  ⟨0x400105, 1, true, false, .rw, false, false, .port, 127, .none, 0, 255⟩,
  ⟨0x400201, 2, true, false, .rw, false, false, .port, 200, .none, 10, 10000⟩,
  ⟨0x400202, 4, true, false, .rw, false, false, .port, 1000, .none, 100, 100000⟩,
  ⟨0x400801, 1, true, false, .ro, false, false, .port, 0, .none, 0, 255⟩,
  ⟨0x400802, 16, true, true, .ro, false, false, .port, 0, .none, 0, 0⟩,
  ⟨0x400803, 1, true, false, .ro, false, false, .port, 0, .none, 0, 255⟩,
  ⟨0x400901, 8, true, false, .ro, false, false, .port, 0, .none, 0, 18446744073709551615⟩,
  ⟨0x400902, 8, true, false, .ro, false, false, .port, 0, .none, 0, 18446744073709551615⟩,
  ⟨0x400903, 8, true, false, .ro, false, false, .port, 0, .none, 0, 18446744073709551615⟩,
  ⟨0x400904, 8, true, false, .ro, false, false, .port, 0, .none, 0, 18446744073709551615⟩,
  ⟨0x400905, 8, true, false, .ro, false, false, .port, 0, .none, 0, 18446744073709551615⟩,
  ⟨0x400906, 8, true, false, .ro, false, false, .port, 0, .none, 0, 18446744073709551615⟩,
  ⟨0x400907, 8, true, false, .ro, false, false, .port, 0, .none, 0, 18446744073709551615⟩,
  ⟨0x400908, 8, true, false, .ro, false, false, .port, 0, .none, 0, 18446744073709551615⟩,
  ⟨0x400909, 8, true, false, .ro, false, false, .port, 0, .none, 0, 18446744073709551615⟩,
  ⟨0x40090A, 8, true, false, .ro, false, false, .port, 0, .none, 0, 18446744073709551615⟩,
  ⟨0x40090B, 8, true, false, .ro, false, false, .port, 0, .none, 0, 18446744073709551615⟩,
  ⟨0x40090C, 8, true, false, .ro, false, false, .port, 0, .none, 0, 18446744073709551615⟩,
  ⟨0x40090D, 8, true, false, .ro, false, false, .port, 0, .none, 0, 18446744073709551615⟩,
  ⟨0x40090E, 8, true, false, .ro, false, false, .port, 0, .none, 0, 18446744073709551615⟩,
  ⟨0x40090F, 8, true, false, .ro, false, false, .port, 0, .none, 0, 18446744073709551615⟩,
  ⟨0x400910, 8, true, false, .ro, false, false, .port, 0, .none, 0, 18446744073709551615⟩,
  ⟨0x400911, 8, true, false, .ro, false, false, .port, 0, .none, 0, 18446744073709551615⟩,
  ⟨0x400912, 8, true, false, .ro, false, false, .port, 0, .none, 0, 18446744073709551615⟩,
  ⟨0x400A01, 8, true, false, .ro, false, false, .port, 0, .none, 0, 18446744073709551615⟩,
  ⟨0x400A02, 8, true, false, .ro, false, false, .port, 0, .none, 0, 18446744073709551615⟩,
  ⟨0x400A03, 8, true, false, .ro, false, false, .port, 0, .none, 0, 18446744073709551615⟩,
  ⟨0x400A04, 8, true, false, .ro, false, false, .port, 0, .none, 0, 18446744073709551615⟩,
  ⟨0x400A05, 8, true, false, .ro, false, false, .port, 0, .none, 0, 18446744073709551615⟩,
  ⟨0x400A06, 8, true, false, .ro, false, false, .port, 0, .none, 0, 18446744073709551615⟩,
  ⟨0x400A07, 8, true, false, .ro, false, false, .port, 0, .none, 0, 18446744073709551615⟩,
  ⟨0x400A08, 8, true, false, .ro, false, false, .port, 0, .none, 0, 18446744073709551615⟩,
  ⟨0x400B01, 8, true, false, .ro, false, false, .port, 0, .none, 0, 18446744073709551615⟩,
  ⟨0x400B02, 8, true, false, .ro, false, false, .port, 0, .none, 0, 18446744073709551615⟩,
  ⟨0x400B03, 8, true, false, .ro, false, false, .port, 0, .none, 0, 18446744073709551615⟩,
  ⟨0x400B04, 8, true, false, .ro, false, false, .port, 0, .none, 0, 18446744073709551615⟩,
  ⟨0x400B05, 8, true, false, .ro, false, false, .port, 0, .none, 0, 18446744073709551615⟩,
  ⟨0x400B06, 8, true, false, .ro, false, false, .port, 0, .none, 0, 18446744073709551615⟩,
  ⟨0x400B07, 8, true, false, .ro, false, false, .port, 0, .none, 0, 18446744073709551615⟩,
  ⟨0x400B08, 8, true, false, .ro, false, false, .port, 0, .none, 0, 18446744073709551615⟩,
  ⟨0x400B09, 8, true, false, .ro, false, false, .port, 0, .none, 0, 18446744073709551615⟩,
  ⟨0x410001, 256, true, true, .ro, true, true, .queue, 0, .none, 0, 0⟩,
  ⟨0x410002, 64, true, true, .wo, true, true, .queue, 0, .none, 0, 0⟩,
  ⟨0x410101, 2, true, false, .rws, false, false, .module, 1024, .idle, 64, 8192⟩]
def objRows4 : List ObjRow := [
  ⟨0x410102, 1, true, false, .rws, false, false, .module, 4, .idle, 1, 16⟩,
  ⟨0x410103, 4, true, false, .rws, false, false, .module, 2000, .idle, 500, 64000⟩,
  ⟨0x410104, 4, true, false, .rws, false, false, .module, 10000, .idle, 1000, 100000⟩,
  ⟨0x410105, 1, true, false, .rws, false, false, .module, 4, .idle, 1, 12⟩,
  ⟨0x410106, 2, true, false, .ro, false, false, .module, 512, .none, 0, 65535⟩,
  ⟨0x410107, 16, true, true, .rw, true, true, .ld, 0, .none, 0, 0⟩,
  ⟨0x410108, 4, true, false, .rws, false, false, .module, 10000, .idle, 100, 10000000⟩,
  ⟨0x410201, 32, true, true, .ro, true, true, .registration, 0, .none, 0, 0⟩,
  ⟨0x410801, 8, true, false, .ro, false, false, .module, 0, .none, 0, 18446744073709551615⟩,
  ⟨0x410802, 8, true, false, .ro, false, false, .module, 0, .none, 0, 18446744073709551615⟩,
  ⟨0x410803, 8, true, false, .ro, false, false, .module, 0, .none, 0, 18446744073709551615⟩,
  ⟨0x410804, 8, true, false, .ro, false, false, .module, 0, .none, 0, 18446744073709551615⟩,
  ⟨0x410805, 8, true, false, .ro, false, false, .module, 0, .none, 0, 18446744073709551615⟩,
  ⟨0x410806, 8, true, false, .ro, false, false, .module, 0, .none, 0, 18446744073709551615⟩,
  ⟨0x410807, 8, true, false, .ro, false, false, .module, 0, .none, 0, 18446744073709551615⟩,
  ⟨0x410808, 8, true, false, .ro, false, false, .module, 0, .none, 0, 18446744073709551615⟩,
  ⟨0x410809, 8, true, false, .ro, false, false, .module, 0, .none, 0, 18446744073709551615⟩,
  ⟨0x41080A, 8, true, false, .ro, false, false, .module, 0, .none, 0, 18446744073709551615⟩,
  ⟨0x41080B, 8, true, false, .ro, false, false, .module, 0, .none, 0, 18446744073709551615⟩,
  ⟨0x41080C, 8, true, false, .ro, false, false, .module, 0, .none, 0, 18446744073709551615⟩,
  ⟨0x41080D, 8, true, false, .ro, false, false, .module, 0, .none, 0, 18446744073709551615⟩,
  ⟨0x41080E, 8, true, false, .ro, false, false, .module, 0, .none, 0, 18446744073709551615⟩,
  ⟨0x41080F, 8, true, false, .ro, false, false, .module, 0, .none, 0, 18446744073709551615⟩,
  ⟨0x410810, 8, true, false, .ro, false, false, .module, 0, .none, 0, 18446744073709551615⟩,
  ⟨0x410811, 8, true, false, .ro, false, false, .module, 0, .none, 0, 18446744073709551615⟩,
  ⟨0x410812, 8, true, false, .ro, false, false, .module, 0, .none, 0, 18446744073709551615⟩,
  ⟨0x410813, 8, true, false, .ro, false, false, .module, 0, .none, 0, 18446744073709551615⟩,
  ⟨0x410814, 8, true, false, .ro, false, false, .module, 0, .none, 0, 18446744073709551615⟩,
  ⟨0x410815, 8, true, false, .ro, false, false, .module, 0, .none, 0, 18446744073709551615⟩,
  ⟨0x410816, 8, true, false, .ro, false, false, .module, 0, .none, 0, 18446744073709551615⟩,
  ⟨0x410817, 8, true, false, .ro, false, false, .module, 0, .none, 0, 18446744073709551615⟩,
  ⟨0x410818, 8, true, false, .ro, false, false, .module, 0, .none, 0, 18446744073709551615⟩,
  ⟨0x420001, 2, true, false, .rws, true, false, .module, 65535, .idle, 0, 65533⟩,
  ⟨0x420002, 2, true, false, .ro, true, true, .module, 0, .none, 0, 65535⟩,
  ⟨0x420003, 8, true, true, .ro, false, false, .module, 0, .none, 0, 0⟩,
  ⟨0x420101, 64, true, true, .wo, false, false, .module, 0, .none, 0, 0⟩,
  ⟨0x420102, 2, true, false, .wo, false, false, .module, 0, .onWrite, 0, 65535⟩,
  ⟨0x420103, 1, true, false, .wo, false, false, .module, 0, .none, 1, 1⟩,
  ⟨0x420201, 32, true, true, .rws, true, false, .window, 0, .stepBoundary, 0, 0⟩,
  ⟨0x420301, 1, true, false, .rw, false, false, .moduleNum, 0, .none, 0, 1⟩,
  ⟨0x420801, 8, true, false, .ro, true, true, .module, 0, .none, 0, 18446744073709551615⟩,
  ⟨0x420802, 8, true, false, .ro, true, true, .module, 0, .none, 0, 18446744073709551615⟩,
  ⟨0x420803, 8, true, false, .ro, true, true, .module, 0, .none, 0, 18446744073709551615⟩,
  ⟨0x420804, 8, true, false, .ro, true, true, .module, 0, .none, 0, 18446744073709551615⟩,
  ⟨0x420805, 8, true, false, .ro, true, true, .module, 0, .none, 0, 18446744073709551615⟩,
  ⟨0x420806, 8, true, false, .ro, false, false, .module, 0, .none, 0, 18446744073709551615⟩]
def objRows5 : List ObjRow := [
  ⟨0x420807, 8, true, false, .ro, false, false, .module, 0, .none, 0, 18446744073709551615⟩,
  ⟨0x420808, 8, true, false, .ro, false, false, .module, 0, .none, 0, 18446744073709551615⟩,
  ⟨0x420809, 8, true, false, .ro, false, false, .module, 0, .none, 0, 18446744073709551615⟩,
  ⟨0x42080A, 8, true, false, .ro, false, false, .module, 0, .none, 0, 18446744073709551615⟩,
  ⟨0x42080B, 8, true, false, .ro, false, false, .module, 0, .none, 0, 18446744073709551615⟩,
  ⟨0x42080C, 8, true, false, .ro, false, false, .module, 0, .none, 0, 18446744073709551615⟩,
  ⟨0x42080D, 8, true, false, .ro, false, false, .module, 0, .none, 0, 18446744073709551615⟩,
  ⟨0x430001, 3, true, true, .rws, false, false, .module, 530464, .idle, 0, 0⟩,
  ⟨0x430002, 3, true, true, .rws, false, false, .module, 133124, .idle, 0, 0⟩,
  ⟨0x430003, 2, true, false, .rws, false, false, .module, 64, .idle, 0, 512⟩,
  ⟨0x430101, 64, true, true, .rws, false, false, .position, 0, .idle, 0, 0⟩,
  ⟨0x430201, 64, true, true, .ro, false, false, .position, 0, .none, 0, 0⟩,
  ⟨0x430801, 8, true, false, .ro, false, false, .module, 0, .none, 0, 18446744073709551615⟩,
  ⟨0x430802, 8, true, false, .ro, false, false, .module, 0, .none, 0, 18446744073709551615⟩,
  ⟨0x430803, 8, true, false, .ro, false, false, .module, 0, .none, 0, 18446744073709551615⟩,
  ⟨0x430804, 8, true, false, .ro, false, false, .module, 0, .none, 0, 18446744073709551615⟩,
  ⟨0x430805, 8, true, false, .ro, false, false, .module, 0, .none, 0, 18446744073709551615⟩,
  ⟨0x430806, 8, true, false, .ro, false, false, .module, 0, .none, 0, 18446744073709551615⟩,
  ⟨0x430807, 8, true, false, .ro, false, false, .module, 0, .none, 0, 18446744073709551615⟩,
  ⟨0x430808, 8, true, false, .ro, false, false, .module, 0, .none, 0, 18446744073709551615⟩,
  ⟨0x430809, 8, true, false, .ro, false, false, .module, 0, .none, 0, 18446744073709551615⟩,
  ⟨0x430901, 4, true, false, .ro, false, false, .module, 0, .none, 0, 4294967295⟩,
  ⟨0x430902, 4, true, false, .ro, false, false, .module, 0, .none, 0, 4294967295⟩,
  ⟨0x430903, 4, true, false, .ro, false, false, .module, 0, .none, 0, 4294967295⟩,
  ⟨0x201101, 16, true, true, .rws, false, false, .pallet, 0, .palletIdle, 0, 0⟩,
  ⟨0x201102, 1, true, false, .ro, true, true, .pallet, 0, .none, 0, 255⟩,
  ⟨0x201103, 8, true, false, .ro, true, true, .pallet, 0, .none, 0, 18446744073709551615⟩,
  ⟨0x201201, 2, true, true, .rws, false, false, .module, 65535, .idle, 0, 0⟩,
  ⟨0x201202, 1, true, false, .rws, false, false, .module, 0, .idle, 0, 1⟩,
  ⟨0x201203, 2, true, false, .rws, false, false, .module, 950, .idle, 1, 1000⟩,
  ⟨0x201204, 2, true, false, .rws, false, false, .module, 600, .idle, 0, 999⟩,
  ⟨0x201205, 4, true, false, .rws, false, false, .module, 20000, .idle, 1000, 1000000⟩,
  ⟨0x201206, 4, true, false, .rws, false, false, .module, 100000, .idle, 10000, 10000000⟩,
  ⟨0x201801, 8, true, false, .ro, false, false, .pallet, 0, .none, 0, 18446744073709551615⟩,
  ⟨0x201802, 8, true, false, .ro, false, false, .pallet, 0, .none, 0, 18446744073709551615⟩,
  ⟨0x201803, 8, true, false, .ro, false, false, .pallet, 0, .none, 0, 18446744073709551615⟩,
  ⟨0x201804, 8, true, false, .ro, false, false, .module, 0, .none, 0, 18446744073709551615⟩,
  ⟨0x500001, 4, true, false, .rws, true, false, .pallet, 400000, .idle, 10000, 100000000⟩,
  ⟨0x500002, 2, true, false, .rws, true, false, .pallet, 0, .idle, 0, 1000⟩,
  ⟨0x500003, 2, true, false, .rws, true, false, .pallet, 900, .idle, 1, 1000⟩,
  ⟨0x500004, 2, true, false, .rws, true, false, .pallet, 2700, .idle, 600, 2700⟩,
  ⟨0x500101, 2, true, false, .rws, false, false, .module, 256, .idle, 1, 65535⟩,
  ⟨0x500102, 4, true, false, .rws, false, false, .module, 16384, .idle, 4280, 65536⟩,
  ⟨0x500103, 4, true, false, .rws, false, false, .module, 1000, .idle, 100, 100000⟩,
  ⟨0x500201, 16, true, true, .rws, false, false, .shaper, 0, .refill, 0, 0⟩,
  ⟨0x500801, 8, true, false, .ro, true, true, .pallet, 0, .none, 0, 18446744073709551615⟩]
def objRows6 : List ObjRow := [
  ⟨0x500802, 8, true, false, .ro, true, true, .pallet, 0, .none, 0, 18446744073709551615⟩,
  ⟨0x500803, 8, true, false, .ro, true, true, .pallet, 0, .none, 0, 18446744073709551615⟩,
  ⟨0x500804, 8, true, false, .ro, true, true, .pallet, 0, .none, 0, 18446744073709551615⟩,
  ⟨0x500805, 8, true, false, .ro, true, true, .pallet, 0, .none, 0, 18446744073709551615⟩,
  ⟨0x500806, 8, true, false, .ro, true, true, .pallet, 0, .none, 0, 18446744073709551615⟩,
  ⟨0x500807, 8, true, false, .ro, false, false, .module, 0, .none, 0, 18446744073709551615⟩,
  ⟨0x500808, 8, true, false, .ro, false, false, .module, 0, .none, 0, 18446744073709551615⟩,
  ⟨0x500901, 4, true, false, .ro, true, true, .pallet, 0, .none, 0, 4294967295⟩,
  ⟨0x500902, 8, true, false, .ro, true, true, .pallet, 0, .none, 0, 18446744073709551615⟩,
  ⟨0x600001, 64, true, true, .ro, true, true, .module, 0, .none, 0, 0⟩,
  ⟨0x600002, 512, true, true, .ro, true, true, .module, 0, .none, 0, 0⟩,
  ⟨0x600003, 6, true, true, .ro, true, true, .module, 0, .none, 0, 0⟩,
  ⟨0x600004, 64, true, true, .ro, true, true, .module, 0, .none, 0, 0⟩,
  ⟨0x600005, 65536, false, true, .ro, true, true, .module, 0, .none, 0, 0⟩,
  ⟨0x600006, 1, true, false, .ro, true, true, .module, 15, .none, 0, 255⟩,
  ⟨0x600101, 96, true, true, .ro, true, true, .tenant, 0, .none, 0, 0⟩,
  ⟨0x600201, 4, true, false, .wo, false, false, .slot, 0, .none, 0, 4294967295⟩,
  ⟨0x600202, 4, true, false, .ro, true, true, .slot, 0, .none, 0, 4294967295⟩,
  ⟨0x600301, 36, true, true, .wo, true, true, .module, 0, .none, 0, 0⟩,
  ⟨0x600302, 35200, true, true, .ro, true, true, .module, 0, .none, 0, 0⟩,
  ⟨0x600401, 1936, true, true, .wo, true, true, .module, 0, .none, 0, 0⟩,
  ⟨0x600402, 2, true, false, .wo, true, true, .module, 0, .none, 1, 1023⟩,
  ⟨0x600501, 32, true, true, .wo, true, true, .module, 0, .none, 0, 0⟩,
  ⟨0x600601, 2, true, false, .rw, false, false, .module, 60, .none, 1, 600⟩,
  ⟨0x600602, 4, true, false, .rw, false, false, .module, 100, .none, 10, 10000⟩,
  ⟨0x600801, 8, true, false, .ro, false, false, .module, 0, .none, 0, 18446744073709551615⟩,
  ⟨0x600802, 8, true, false, .ro, false, false, .module, 0, .none, 0, 18446744073709551615⟩,
  ⟨0x600803, 8, true, false, .ro, false, false, .module, 0, .none, 0, 18446744073709551615⟩,
  ⟨0x600804, 8, true, false, .ro, false, false, .module, 0, .none, 0, 18446744073709551615⟩,
  ⟨0x600805, 8, true, false, .ro, false, false, .module, 0, .none, 0, 18446744073709551615⟩,
  ⟨0x600806, 8, true, false, .ro, false, false, .module, 0, .none, 0, 18446744073709551615⟩,
  ⟨0x600807, 8, true, false, .ro, false, false, .module, 0, .none, 0, 18446744073709551615⟩,
  ⟨0x600808, 8, true, false, .ro, false, false, .module, 0, .none, 0, 18446744073709551615⟩,
  ⟨0x600809, 8, true, false, .ro, false, false, .module, 0, .none, 0, 18446744073709551615⟩,
  ⟨0x700001, 4, true, false, .rws, false, false, .module, 4096, .idle, 1024, 32768⟩,
  ⟨0x700002, 4, true, false, .ro, true, true, .ld, 0, .none, 0, 4294967295⟩,
  ⟨0x700101, 2, true, false, .rw, false, false, .ld, 10, .none, 1, 1000⟩,
  ⟨0x700102, 4, true, false, .rw, false, false, .ld, 10000, .none, 100, 1000000⟩,
  ⟨0x700301, 67108864, true, true, .rw, false, false, .module, 0, .none, 0, 0⟩,
  ⟨0x700302, 64, true, true, .rw, false, false, .fmRing, 0, .none, 0, 0⟩,
  ⟨0x700303, 8, true, false, .wo, false, false, .fmDoorbell, 0, .none, 0, 18446744073709551615⟩,
  ⟨0x700801, 8, true, false, .ro, true, true, .ld, 0, .none, 0, 18446744073709551615⟩,
  ⟨0x700802, 8, true, false, .ro, true, true, .ld, 0, .none, 0, 18446744073709551615⟩,
  ⟨0x700803, 8, true, false, .ro, true, true, .ld, 0, .none, 0, 18446744073709551615⟩,
  ⟨0x700804, 8, true, false, .ro, true, true, .ld, 0, .none, 0, 18446744073709551615⟩,
  ⟨0x700805, 8, true, false, .ro, true, true, .ld, 0, .none, 0, 18446744073709551615⟩]
def objRows7 : List ObjRow := [
  ⟨0x700806, 8, true, false, .ro, false, false, .ld, 0, .none, 0, 18446744073709551615⟩,
  ⟨0x700807, 8, true, false, .ro, true, true, .ld, 0, .none, 0, 18446744073709551615⟩,
  ⟨0x700808, 8, true, false, .ro, true, true, .ld, 0, .none, 0, 18446744073709551615⟩,
  ⟨0x700809, 8, true, false, .ro, true, true, .ld, 0, .none, 0, 18446744073709551615⟩,
  ⟨0x70080A, 8, true, false, .ro, true, true, .ld, 0, .none, 0, 18446744073709551615⟩,
  ⟨0x70080B, 1, true, false, .ro, true, true, .ld, 0, .none, 0, 255⟩,
  ⟨0x70080C, 8, true, false, .ro, true, true, .ld, 0, .none, 0, 18446744073709551615⟩,
  ⟨0xF00001, 2, true, false, .wo, false, false, .module, 0, .onWrite, 0, 65535⟩,
  ⟨0xF00002, 2, true, false, .wo, false, false, .module, 0, .onWrite, 0, 65535⟩,
  ⟨0xF00101, 32, true, true, .ro, false, false, .module, 0, .none, 0, 0⟩,
  ⟨0xF00102, 4, true, false, .ro, false, false, .module, 0, .none, 0, 4294967295⟩,
  ⟨0xF00201, 2, true, false, .rws, false, false, .module, 50481, .idle, 1024, 65535⟩,
  ⟨0xF00202, 2, true, false, .rw, false, false, .module, 60, .none, 10, 3600⟩,
  ⟨0xF00801, 8, true, false, .ro, false, false, .module, 0, .none, 0, 18446744073709551615⟩,
  ⟨0xF00802, 8, true, false, .ro, false, false, .module, 0, .none, 0, 18446744073709551615⟩,
  ⟨0xF00803, 8, true, false, .ro, false, false, .module, 0, .none, 0, 18446744073709551615⟩,
  ⟨0xF00804, 8, true, false, .ro, false, false, .module, 0, .none, 0, 18446744073709551615⟩,
  ⟨0xF00805, 8, true, false, .ro, false, false, .module, 0, .none, 0, 18446744073709551615⟩,
  ⟨0xF00806, 8, true, false, .ro, false, false, .module, 0, .none, 0, 18446744073709551615⟩,
  ⟨0xF00807, 8, true, false, .ro, false, false, .module, 0, .none, 0, 18446744073709551615⟩,
  ⟨0xF00808, 8, true, false, .ro, false, false, .module, 0, .none, 0, 18446744073709551615⟩,
  ⟨0x9F0001, 272, true, true, .rw, false, false, .subscription, 0, .none, 0, 0⟩,
  ⟨0x100001, 16, true, true, .ro, true, true, .module, 508675650639, .none, 0, 0⟩,
  ⟨0x100002, 16, true, true, .ro, true, true, .module, 246599762434007126790730, .none, 0, 0⟩,
  ⟨0x100003, 1, true, false, .ro, true, true, .module, 176, .none, 0, 255⟩,
  ⟨0x100004, 16, true, true, .ro, true, true, .module, 0, .none, 0, 0⟩,
  ⟨0x100005, 24, true, true, .ro, true, true, .module, 0, .none, 0, 0⟩,
  ⟨0x100006, 4, true, false, .ro, true, true, .module, 0, .none, 0, 4294967295⟩,
  ⟨0x100007, 8, true, false, .ro, true, true, .module, 0, .none, 0, 18446744073709551615⟩,
  ⟨0x100008, 2, true, false, .ro, true, true, .module, 1, .none, 0, 65535⟩,
  ⟨0x100009, 1, true, false, .ro, true, true, .module, 0, .none, 0, 255⟩,
  ⟨0x120001, 2, true, false, .rw, false, false, .module, 2400, .none, 800, 2400⟩,
  ⟨0x120002, 4, true, false, .ro, false, false, .module, 0, .none, 0, 4294967295⟩,
  ⟨0x120003, 4, true, false, .ro, false, false, .module, 0, .none, 0, 4294967295⟩,
  ⟨0x120004, 2, true, false, .ro, false, false, .module, 0, .none, 0, 65535⟩,
  ⟨0x120101, 2, true, false, .rw, false, false, .module, 2100, .none, 600, 2700⟩,
  ⟨0x120102, 1, true, false, .rw, false, false, .pallet, 8, .none, 0, 15⟩,
  ⟨0x120103, 2, true, false, .rw, true, false, .pallet, 2700, .none, 600, 2700⟩,
  ⟨0x120201, 85, true, true, .ro, false, false, .module, 0, .none, 0, 0⟩,
  ⟨0x120301, 1, true, false, .rw, false, false, .module, 95, .none, 60, 105⟩,
  ⟨0x120302, 1, true, false, .rw, false, false, .module, 105, .none, 70, 110⟩,
  ⟨0x120303, 1, true, false, .ro, false, false, .module, 115, .none, 0, 255⟩,
  ⟨0x120304, 2, true, false, .ro, false, false, .module, 0, .none, 0, 65535⟩,
  ⟨0x120801, 8, true, false, .ro, false, false, .module, 0, .none, 0, 18446744073709551615⟩,
  ⟨0x120802, 8, true, false, .ro, false, false, .module, 0, .none, 0, 18446744073709551615⟩,
  ⟨0x120803, 8, true, false, .ro, false, false, .module, 0, .none, 0, 18446744073709551615⟩]
def objRows8 : List ObjRow := [
  ⟨0x120804, 8, true, false, .ro, false, false, .module, 0, .none, 0, 18446744073709551615⟩,
  ⟨0x120805, 8, true, false, .ro, false, false, .module, 0, .none, 0, 18446744073709551615⟩,
  ⟨0x120806, 8, true, false, .ro, false, false, .module, 0, .none, 0, 18446744073709551615⟩,
  ⟨0x121001, 2, true, false, .rw, false, false, .brick, 0, .none, 0, 65535⟩,
  ⟨0x121002, 8, true, false, .ro, false, false, .brick, 0, .none, 0, 18446744073709551615⟩,
  ⟨0x121003, 2, true, false, .ro, false, false, .brick, 0, .none, 0, 65535⟩,
  ⟨0x200001, 1, true, false, .rws, true, false, .module, 0, .idle, 0, 4⟩,
  ⟨0x200101, 1, true, false, .rws, true, false, .pallet, 64, .stepBoundary, 0, 64⟩,
  ⟨0x200102, 1, true, false, .rws, true, false, .pallet, 32, .stepBoundary, 0, 64⟩,
  ⟨0x200103, 1, true, false, .rws, true, false, .pallet, 8, .stepBoundary, 0, 64⟩,
  ⟨0x200104, 1, true, false, .rws, true, false, .pallet, 16, .stepBoundary, 0, 64⟩,
  ⟨0x200201, 8, true, false, .ro, true, true, .pallet, 0, .none, 0, 18446744073709551615⟩,
  ⟨0x201001, 4, true, false, .rws, true, false, .pallet, 0, .geometry, 0, 4294967295⟩,
  ⟨0x800001, 1, true, false, .ro, true, true, .module, 0, .none, 0, 255⟩,
  ⟨0x800002, 150, true, true, .ro, true, true, .module, 0, .none, 0, 0⟩,
  ⟨0x800003, 4, true, false, .rw, false, false, .module, 4294967295, .none, 0, 4294967295⟩,
  ⟨0x800004, 1, true, false, .wo, false, false, .module, 0, .none, 1, 1⟩,
  ⟨0x800101, 32, true, true, .ro, true, true, .pallet, 0, .none, 0, 0⟩,
  ⟨0x800201, 5120, true, true, .ro, false, false, .module, 0, .none, 0, 0⟩,
  ⟨0x800202, 4, true, false, .ro, false, false, .module, 0, .none, 0, 4294967295⟩,
  ⟨0x800801, 8, true, false, .ro, true, true, .pallet, 0, .none, 0, 18446744073709551615⟩,
  ⟨0x800802, 8, true, false, .ro, false, false, .module, 0, .none, 0, 18446744073709551615⟩,
  ⟨0x800803, 8, true, false, .ro, false, false, .module, 0, .none, 0, 18446744073709551615⟩,
  ⟨0x800804, 8, true, false, .ro, false, false, .module, 0, .none, 0, 18446744073709551615⟩,
  ⟨0x800805, 8, true, false, .ro, false, false, .module, 0, .none, 0, 18446744073709551615⟩,
  ⟨0x900001, 4, true, false, .rws, true, false, .pallet, 0, .stepBoundary, 0, 4294967295⟩,
  ⟨0x900002, 2, true, false, .rws, true, false, .pallet, 256, .stepBoundary, 1, 4096⟩,
  ⟨0x900003, 4194304, false, true, .ro, true, true, .pallet, 0, .none, 0, 0⟩,
  ⟨0x900101, 32, true, true, .rws, true, false, .pallet, 0, .stepBoundary, 0, 0⟩,
  ⟨0x900102, 4, true, false, .rws, true, false, .pallet, 0, .stepBoundary, 0, 4294967295⟩,
  ⟨0x900103, 1048576, false, true, .ro, true, true, .pallet, 0, .none, 0, 0⟩,
  ⟨0x900104, 32, true, true, .rws, false, false, .module, 0, .idle, 0, 0⟩,
  ⟨0x900105, 1048576, false, true, .ro, false, false, .module, 0, .none, 0, 0⟩,
  ⟨0x900201, 16, true, true, .rw, false, false, .module, 0, .none, 0, 0⟩,
  ⟨0x900202, 32, true, true, .rw, false, false, .module, 0, .none, 0, 0⟩,
  ⟨0x900203, 4, true, false, .rw, false, false, .module, 65536, .none, 0, 1048576⟩,
  ⟨0x900204, 1, true, false, .ro, false, false, .module, 0, .none, 0, 255⟩,
  ⟨0x900205, 8388608, false, true, .ro, false, false, .module, 0, .none, 0, 0⟩,
  ⟨0x900206, 8, true, false, .ro, false, false, .module, 0, .none, 0, 18446744073709551615⟩,
  ⟨0x900207, 128, true, true, .ro, false, false, .module, 0, .none, 0, 0⟩,
  ⟨0x900301, 32, true, true, .rw, false, false, .module, 0, .none, 0, 0⟩,
  ⟨0x900302, 1, true, false, .rw, false, false, .module, 4, .none, 1, 16⟩,
  ⟨0x900801, 8, true, false, .ro, false, false, .module, 0, .none, 0, 18446744073709551615⟩,
  ⟨0x900802, 8, true, false, .ro, false, false, .module, 0, .none, 0, 18446744073709551615⟩,
  ⟨0x900803, 8, true, false, .ro, true, true, .pallet, 0, .none, 0, 18446744073709551615⟩,
  ⟨0x900804, 8, true, false, .ro, true, true, .pallet, 0, .none, 0, 18446744073709551615⟩]

/-- The whole dictionary (R404). -/
def objTable : List ObjRow :=
  objRows0 ++ objRows1 ++ objRows2 ++ objRows3 ++ objRows4 ++ objRows5 ++ objRows6 ++ objRows7 ++ objRows8

/-- The row of an object, none where the dictionary has no such object (R381). -/
def objRow? (oid : Nat) : Option ObjRow := objTable.find? (fun r => r.oid == oid)

/-- The default of an object. -/
def objDefault (oid : Nat) : Nat := match objRow? oid with
  | some r => r.dflt
  | none => 0

/-- The instances of a space (R381). -/
def Space.has (sp : Space) (i : Nat) : Bool := match sp with
  | .module => i == 0
  | .pallet => i < 16
  | .brick => i < 1200
  | .port => i < 12
  | .ld => i < 16
  | .queue => i < 262144
  | .registration => i < 65536
  | .slot => 1 ≤ i && i < 1024
  | .tenant => i < 16
  | .window => i < 65536
  | .position => i < 65536
  | .moduleNum => i < 65534
  | .shaper => i < 4096
  | .subscription => i < 64
  | .fmRing => i < 64
  | .fmDoorbell => i < 512

end Sys2Proof.Machine
end

