-- ==== Sys2Proof/Machine/HostState.lean ====
section
/-! DEFINITION. The records of the state that chapters 14 to 16, 18 and 20 give the module: start-up and power, the Kiln and
the key slots, the staged dictionary, VDP sessions, host rings and logical devices, and what the module sends out. -/

namespace Sys2Proof.Machine

/-! ## Start-up, power and identity (chapters 14, 20) -/

/-- Where the start-up sequence of R460 stands. `cut` is the absence of power; `trip` is the thermal-trip state (R457)
and `refLost` the state of a lost reference clock (R459). `kilnOnly` serves the identity area alone (R339). -/
inductive BootStage where
  | cut | charging | converting | railsUp | romRunning | kilnUp | configUp | hbmUp | fwRunning | running
  | kilnOnly | trip | refLost
  deriving DecidableEq, Repr

/-- Measurement and identity registers of the Kiln (R340 to R343) and the images it runs (R339, R405). -/
structure Kiln where
  /-- M0 to M7, 64 bytes each as a number (R340). -/
  meas : List Nat
  deviceId : Nat
  identity : Bool
  serial : Nat
  kilnSvn : Nat
  fwSvn : Nat
  cfgSvn : Nat
  cfgSigner : Nat
  kilnImage : Nat
  fwImage : Nat
  cfgImage : Nat
  /-- Attestation requests waiting: target slot, nonce, and the writer (R347). -/
  attestQ : List (Nat × Nat × Via)
  /-- The latest report, as a number of 35,200 bytes (R347). -/
  report : Nat
  deriving DecidableEq, Repr

/-- States of a key slot (R345). -/
inductive SlotState where
  | empty | assigned | reserved | installing | active | retiring | drained
  deriving DecidableEq, Repr

/-- A key slot (R344 to R356). -/
structure KeySlot where
  state : SlotState
  gen : Nat
  lastGen : Nat
  tenant : Option Nat
  /-- LDs allowed to request attestation (R344). -/
  lds : Nat
  /-- Digest of the slot's latest report, and T_EK_EXPIRE (R347, R348). -/
  reportDigest : Nat
  ekExpire : Nat
  /-- The keys have reached the HBM controllers and the ports (R346). -/
  distributed : Bool
  /-- A retire that arrived in INSTALLING (R345). -/
  retireWaits : Bool
  /-- The instant of RETIRING, and T_D of the drain (R355). -/
  tRetire : Nat
  tD : Nat
  /-- The slot's keys (R349): the XTS pair, the link key and the model key; erased with the slot. -/
  xts : Nat
  link : Nat
  model : Nat
  /-- The release being judged in INSTALLING: who wrote it. -/
  release : Option Via
  deriving DecidableEq, Repr

/-- A resident tenant (R350). `policyDigest` is the SHAKE256 of its policy. -/
structure Tenant where
  id : Nat
  consent : Nat
  pallets : Nat
  lds : Nat
  signer : Nat
  policyDigest : Nat
  deriving DecidableEq, Repr

/-! ## Dictionary (chapter 16) -/

/-- A captured group (R386, R387): the objects of one commit with one commit point in one domain. -/
structure Group where
  id : Nat
  commit : Nat
  point : CommitPoint
  /-- The pallet of the domain, none for the module (or the shapers). -/
  pallet : Option Nat
  /-- (object key, value), ascending. -/
  items : NMap Nat
  deriving DecidableEq, Repr

/-- A fragment set of an incomplete VDP message (R392). -/
structure Partial where
  msg : Nat
  since : Nat
  len : Nat
  /-- (offset, length) of the fragments held. -/
  frags : List (Nat × Nat)
  deriving DecidableEq, Repr

/-- Stages of a VDP session (R394). -/
inductive SessStage where
  | hello | challenged | established
  deriving DecidableEq, Repr

/-- A VDP session. -/
structure Session where
  stage : SessStage
  port : Nat
  /-- Instant of the last frame received, or of the CHALLENGE. -/
  last : Nat
  /-- Highest SEQ accepted and the SEQs accepted within the window below it (R393). -/
  rxHigh : Option Nat
  rxSeen : List Nat
  /-- SEQ of the next frame sent (R393). -/
  txSeq : Nat
  /-- Notification sequence number (R400). -/
  noteSeq : Nat
  partials : List Partial
  /-- Answers kept, newest first: REQ_ID and ANSWER payload (R397). -/
  answers : List (Nat × List Byte)
  deriving DecidableEq, Repr

/-- Pieces of an OCTET write held for one writer (R375): object key and the bytes so far. -/
structure Piece where
  key : Nat
  bytes : List Byte
  deriving DecidableEq, Repr

/-- An event of R429 as logged (R412). -/
structure EventRec where
  seq : Nat
  code : Nat
  time : Nat
  /-- 16 bytes of detail, as a number. -/
  detail : Nat
  deriving DecidableEq, Repr

/-! ## Host attachment (chapter 15) -/

/-- A CPL entry before its PHASE is known (R371). -/
structure CplEntry where
  tag : Nat
  status : Status
  op : Nat
  value : Nat
  value2 : Nat
  tDone : Nat
  deriving DecidableEq, Repr

/-- A host ring: its configuration entry (R366) and what the device keeps about it. -/
structure Ring where
  enable : Bool
  kind : Nat
  pallet : Nat
  /-- 0 DISABLED, 1 ACTIVE, 2 ERROR. -/
  state : Nat
  logSize : Nat
  target : Nat
  vector : Nat
  coalCount : Nat
  coalNs : Nat
  base : Nat
  head : Nat
  tail : Nat
  errStatus : Nat
  /-- Entries whose SEQ has matched: the count up to which they are visible to the device (R369). -/
  visible : Nat
  /-- The instant at which the entry at `visible` was first read with a wrong SEQ. -/
  waitSince : Option Nat
  /-- Entries taken and not completed (R367). -/
  taken : Nat
  /-- ENABLE was written 0 and taken entries are still completing. -/
  draining : Bool
  /-- Entries not signalled by MSI-X, and the instant of the first of them (R374). -/
  unsignalled : Nat
  firstAt : Option Nat
  /-- CPL: entries held because the ring is full, oldest first, and the instant the hold began (R371). -/
  held : List CplEntry
  /-- RESULT: records held because they do not fit (R373), oldest first, with their pallets. -/
  heldRecs : List (Nat × List Byte)
  heldSince : Option Nat
  /-- RESULT: pass number of the status line (R373). -/
  pass : Nat
  deriving DecidableEq, Repr

/-- A ring at reset (R366). -/
def Ring.reset : Ring :=
  { enable := false, kind := 0, pallet := 0, state := 0, logSize := 0, target := 0, vector := 0, coalCount := 0,
    coalNs := 0, base := 0, head := 0, tail := 0, errStatus := 0, visible := 0, waitSince := none, taken := 0,
    draining := false, unsignalled := 0, firstAt := none, held := [], heldRecs := [], heldSince := none, pass := 0 }

/-- A logical device: the LD control block (R365), its HDM decoder (R360), its function (R359, R461, R464), its event logs
(R363, R376) and its MSI-X state (R374). -/
structure Ld where
  hdmMib : Nat
  eventRing : Nat
  eventEn : Bool
  /-- STATUS: MIRROR_UNCORR, RING_ERROR, DMA_ERROR (R365). -/
  status : BitVec 3
  decoderCommitted : Bool
  decoderError : Bool
  /-- Interleave granularity of the committed decoder. -/
  decoderIg : Nat
  busMaster : Bool
  d3hot : Bool
  /-- Uncorrectable Internal Error in the AER status (R363). -/
  aerInternal : Bool
  /-- Event logs 0 Informational, 1 Warning, 2 Failure, 3 Fatal: (handle, device physical address, transaction). -/
  logs : NMap (List (Nat × Nat × Nat))
  logHandle : Nat
  /-- Event interrupt policy bytes. -/
  policy : List Byte
  /-- Allocated-bandwidth fraction (R361). -/
  qosFraction : Nat
  /-- Vectors unmasked, and vectors whose pending bit is set (R374). -/
  unmasked : List Nat
  msixPending : List Nat
  deriving DecidableEq, Repr

/-- A logical device at reset. -/
def Ld.reset : Ld :=
  { hdmMib := 0, eventRing := 0, eventEn := false, status := 0, decoderCommitted := false, decoderError := false,
    decoderIg := 0, busMaster := false, d3hot := false, aerInternal := false, logs := [], logHandle := 0,
    policy := [], qosFraction := 0, unmasked := [], msixPending := [] }

/-- What an access to host memory serves (R378). -/
inductive DmaFor where
  | page (pallet : Nat) (handle : Nat)
  | context (q : Nat)
  | placement (id : Nat)
  deriving DecidableEq, Repr

/-- An access to host memory in progress (R378). -/
structure Dma where
  id : Nat
  ld : Nat
  addr : Nat
  since : Nat
  purpose : DmaFor
  /-- Nanoseconds of the wait for a page counted as a stall so far (R178). -/
  stalled : Nat
  deriving DecidableEq, Repr

end Sys2Proof.Machine
end

