-- ==== Sys2Proof/Machine/RequestState.lean ====
section
/-! DEFINITION. The records of the state that chapters 04 to 07 and 13 give the module: requests and their slots, moves,
home registers, coded copies, pallets and their running steps, placements and page-table leaves. -/

namespace Sys2Proof.Machine

/-! ## Requests (chapter 06) -/

/-- LIFE of a request (R130), by its codes 1 to 4. -/
inductive Life where
  | resident | movingOut | movingIn | awaitReplay
  deriving DecidableEq, Repr

/-- Who gave a command, and so who hears of its completion: a host ring and its tag, or the writer of a dictionary
object. -/
inductive Source where
  | ring (o : Nat) (r : Nat) (tag : Nat)
  | object (via : Via) (oid inst : Nat)
  | device
  deriving DecidableEq, Repr

/-- A page record lying in an inbox: the page it is of, and its record index in the INBOX regions (R163). -/
structure InboxPage where
  layer : Nat
  head : Nat
  page : Nat
  record : Nat
  deriving DecidableEq, Repr

/-- An increment at its destination (R145, R146): being received, or placed. -/
structure Inbox where
  srcMod : Nat
  xid : Nat
  pos0 : Nat
  ntok : Nat
  last : Bool
  pending : List Nat
  placed : Bool
  pages : List InboxPage
  deriving DecidableEq, Repr

/-! ## Blocks (R190, R196) -/

/-- Block types, by their codes 0 to 3; the last is reserved. -/
inductive BlockType where
  | zero | coded | raw | reserved
  deriving DecidableEq, Repr

/-- A block as stored: type, tables and bits of its parts, its bytes, and the CRC of the unit. -/
structure Coded where
  typ : BlockType
  ta : Nat
  tb : Nat
  lenA : Nat
  lenB : Nat
  bytes : List Byte
  crc : Nat
  deriving DecidableEq, Repr

/-- The tables of a stream: code lengths by byte value. -/
abbrev Tables := List (List Nat)

/-- The load figures a request was admitted with (R304, R305). -/
structure LoadFig where
  b : Nat
  m : Nat
  g : Nat
  share : Nat
  deriving DecidableEq, Repr

/-- A coded-copy refresh in progress at the home (R150 to R152): its version, the CSTEP captured with it, its stripe
count, and the (member position, stripe) writes not acknowledged. -/
structure Refresh where
  version : Nat
  cstep : Nat
  stripes : Nat
  unacked : List (Nat × Nat)
  /-- Writes that a member has found damaged and that were sent again uncoded (R201). -/
  again : List (Nat × Nat)
  /-- The units of the image it covers, and CMP_SAMPLE_STRIDE as they were captured: the tables of their coded writes. -/
  units : List (List Byte)
  stride : Nat
  deriving DecidableEq, Repr

/-- A request: the header of R130 with the parts of R129 that are not pages, and what the module keeps beside them. -/
structure Request where
  handle : Nat
  life : Life
  pallet : Nat
  keyslot : Nat
  nstream : Nat
  pfmt : Nat
  pendValid : Bool
  geom : Geom
  ctxlen : Nat
  nextStep : Nat
  cstep : Nat
  copyVer : Nat
  homeSeq : Nat
  rid : Nat
  vbase : Nat
  resPages : Nat
  resSpill : Nat
  homeMod : Nat
  admitHandle : Nat
  copyGroup : List Nat
  tAdmit : Nat
  tLast : Nat
  pending : List Nat
  blocks : List Block
  counts : NMap CountTable
  inbox : List Inbox
  /-- Highest inbox record index used so far. -/
  inboxNext : Nat
  deriving DecidableEq, Repr

/-- What the module keeps about a resident request and never moves. -/
structure ReqLocal where
  lmax : Nat
  load : LoadFig
  /-- The owner whose ring admitted it, told of later events. -/
  owner : Nat
  /-- Spill slots in use of the pallet's SPILL region, and how many of them are of the shared pool (R491). -/
  spill : List Nat
  shared : Nat
  /-- A release, a reserve, a regroup and parameter blocks waiting for the step boundary. -/
  release : Option Source
  reserve : Option Nat
  regroup : Option (List Nat × Source)
  update : Option (Nat × List Block)
  /-- STEP of a cancel waiting for its step (R316). -/
  cancel : Option Nat
  refresh : Option Refresh
  refreshDue : Bool
  /-- Stripes whose contents changed since the committed version, or every one when the shard must be whole (R153). -/
  wholeShards : List Nat
  /-- The units of the committed version's image: a refresh writes the stripes that differ (R151). -/
  committed : List (List Byte)
  /-- Frames of pages freed while a refresh reads them: they are freed when it commits (R151). -/
  kept : List Nat
  /-- Member positions whose stored stream is damaged as a whole: they count as dead for this copy (R201). -/
  deadMembers : List Nat
  /-- Parked in coded form (R204): the stream lies from S/2 of the span. -/
  parked : Bool
  /-- The previous step's selection: page keys, for prefetch (R176). -/
  selection : List Nat
  /-- A word of its state is uncorrectable: its entries carry UNCORRECTABLE (R185). -/
  uncorr : Bool
  /-- Steps of the request that a halt has ended: calls for them are dropped (R417). -/
  halted : List Nat
  /-- Fallback and written blocks charged in the running step (R77, R79). -/
  fallbacks : Nat
  written : Nat
  deriving DecidableEq, Repr

/-- A slot of the handle space (R131, R132): the generation last issued, and the stamp of its release while it is free. -/
structure HSlot where
  gen : Nat
  freedAt : Option Nat
  deriving DecidableEq, Repr

/-! ## Moves (chapter 06) -/

/-- States of a WHOLE move at its source (R141). `waiting` is an accepted command that waits for the boundary of R140. -/
inductive OutState where
  | waiting | offered | pulling | check
  deriving DecidableEq, Repr

/-- A WHOLE move at its source. -/
structure MoveOut where
  rid : Nat
  dst : Nat
  dstPallet : Nat
  /-- The alternate not yet tried. -/
  alt : Option Nat
  xid : Nat
  state : OutState
  tExpire : Nat
  /-- The instant of PULL, and CMP_SAMPLE_STRIDE then: the tables that its coded reads return (R202). -/
  tPull : Nat
  stride : Nat
  dstHandle : Nat
  /-- Status of the last refusal. -/
  last : Status
  source : Source
  /-- CHECK: the instant the register was asked for, and the tag of the read. -/
  tCheck : Nat
  checkTag : Nat
  /-- MOVE_STUCK was raised. -/
  stuck : Bool
  deriving DecidableEq, Repr

/-- An OFFER of an INCREMENT in progress at its source (R144, R145). -/
structure IncOut where
  rid : Nat
  xid : Nat
  handle : Nat
  dst : Nat
  tExpire : Nat
  pulling : Bool
  /-- The instant of PULL, and the units of the extent image it serves (R139). -/
  tPull : Nat
  units : List (List Byte)
  deriving DecidableEq, Repr

/-- States of a move at its destination (R142). -/
inductive InState where
  | pulling | flushing | placing
  deriving DecidableEq, Repr

/-- What a move at its destination brings (R142, R145, R156). -/
inductive InKind where
  | whole | increment | rebuild
  deriving DecidableEq, Repr

/-- A move at its destination. -/
structure MoveIn where
  kind : InKind
  rid : Nat
  srcMod : Nat
  xid : Nat
  srcHandle : Nat
  handle : Nat
  slot : Nat
  pallet : Nat
  homeSeq : Nat
  copyGroup : List Nat
  /-- Spill slots taken for an increment at its OFFER (R145). -/
  spill : List Nat
  state : InState
  /-- The flush the move waits for. -/
  flush : Nat
  /-- Instant of the first PLACED sent. -/
  tPlaced : Nat
  source : Source
  deriving DecidableEq, Repr

/-- A home register (R134). -/
structure HomeReg where
  handle : Nat
  homeMod : Nat
  homeSeq : Nat
  copyVer : Nat
  cstep : Nat
  tHome : Nat
  primary : Bool
  /-- The backup this holder forwards to, the primary that a backup has its copy from, and the packets of updates, with their
  ports, whose acknowledgement waits for the backup's. -/
  backup : Nat
  peer : Nat
  waiting : List (Nat × Pkt)
  deriving DecidableEq, Repr

/-- A block in the data area of a stored shard (R203). -/
structure Stored where
  off : Nat
  block : Coded
  deriving DecidableEq, Repr

/-- The shard of a coded copy held as a group member (R149 to R152): the blocks of the committed stripes, and those of the
version being written. -/
structure CopyShard where
  shard : Nat
  /-- The pallet that holds the copy (R189). -/
  pallet : Nat
  version : Nat
  cstep : Nat
  stripes : Nat
  units : NMap Stored
  nextVersion : Nat
  nextShard : Nat
  nextUnits : NMap Stored
  /-- Kept in coded form (R203): its tables, and when they were built. A shard kept uncoded holds its units in RAW blocks. -/
  tables : Option (Tables × Nat)
  deriving DecidableEq, Repr

/-! ## Pages and placements (chapter 07) -/

/-- Tiers of a leaf entry (R167). -/
inductive Tier where
  | hbm | host | remote
  deriving DecidableEq, Repr

/-- A valid leaf entry (R167). `target` is the field TARGET [51:13] as a number: the HBM frame, the page of host memory, or the window
index in [11:0] and the page offset in the window above it. -/
structure Leaf where
  write : Bool
  tier : Tier
  ld : Nat
  target : Nat
  keyslot : Nat
  deriving DecidableEq, Repr

/-- A placement or flush in progress (R171 to R175). -/
structure Placement where
  id : Nat
  op : Nat
  cmd : PlaceCmd
  source : Source
  /-- PLACE_HBM: the new frame of each page that moves, by its address, taken when the command was accepted. -/
  frames : NMap Nat
  /-- The leaf entries have been switched to the new location. -/
  switched : Bool
  deriving DecidableEq, Repr

/-- What waits for a flush (R175). -/
inductive FlushFor where
  | command (src : Source) (tag : Nat)
  | moveIn
  /-- A COPY_COMMIT at a member (R152): the packet, with its port, whose acknowledgement is held, none at the home. -/
  | commit (ack : Option (Nat × Pkt)) (h : HoHdr) (version cstep stripes : Nat)
  /-- FLUSH_ACK of a WRITE with FLUSH (R257), and the ARRIVE of an RM_PUT (R274). -/
  | flushAck (port : Nat) (pkt : Pkt)
  | putArrive (k tag : Nat)
  deriving DecidableEq, Repr

/-- A flush in progress (R175): what waits for it, the pallet and the range. -/
structure FlushRec where
  what : FlushFor
  pallet : Nat
  va : Nat
  len : Nat
  deriving DecidableEq, Repr

/-! ## Pallets (chapter 13) -/

/-- PAL_STATE (R332). -/
inductive PalState where
  | empty | loading | ready | running | saving | halted
  deriving DecidableEq, Repr

/-- A pallet-fault record (R409). -/
structure FaultRec where
  brick : Nat
  brickV : Bool
  core : Nat
  coreV : Bool
  pc : Word
  cause : Nat
  mcause : Nat
  stepTag : Nat
  tval : Nat
  tFault : Nat
  fseq : Nat
  deriving DecidableEq, Repr

/-- A loaded image: the address of its manifest, the manifest, the variant in use (NCOL and ENTRY), the digest of its
body and the slot whose keys hold it. -/
structure Loaded where
  addr : Nat
  manifest : Manifest
  ncol : Nat
  entries : List Nat
  digest : Nat
  keyslot : Nat
  deriving DecidableEq, Repr

/-- An image written by a completed install (R351): DST, the manifest, the body's length, digest and key slot. -/
structure Installed where
  addr : Nat
  manifest : Manifest
  length : Nat
  digest : Nat
  keyslot : Nat
  deriving DecidableEq, Repr

/-- A save (R319): the save header and the bricks' stores and accumulator files, by relative brick number. -/
structure Save where
  imageId : Nat
  ncol : Nat
  ncourse : Nat
  stores : NMap (Mem × Mem)
  deriving DecidableEq, Repr

/-- An image install in progress (R351). -/
structure Install where
  src : Nat
  dst : Nat
  tag : Nat
  keyslot : Nat
  via : Via
  deriving DecidableEq, Repr

end Sys2Proof.Machine
end

