-- ==== Sys2Proof/Machine/StepState.lean ====
section
/-! DEFINITION. The records of the state of a running step (chapters 04, 05 and 13): attention calls, draft trees, the
entries of the running step, and a pallet. -/

namespace Sys2Proof.Machine

/-- An attention call the device holds or serves (R89, R90, R93). -/
structure CallRun where
  call : AttCall
  /-- Service queue's pallet at which it arrived (R101), the caller's module and queue, the service queue, and the
  port. -/
  pallet : Nat
  srcMod : Nat
  sq : Nat
  svq : Nat
  keyId : Nat
  port : Nat
  tArr : Nat
  /-- Nanoseconds for which the partner had held class 4 of the port paused, up to the arrival (R93). -/
  paused0 : Nat
  serving : Bool
  /-- Its header has left with another status; its work runs on (R93). -/
  answered : Bool
  deriving DecidableEq, Repr

/-- A draft tree (R104, R111): parents, frames by node, and the draft distributions q[n][s] kept until the boundary
(R112), token to FP32 probability, keyed by n × 16 + s. -/
structure Tree where
  parent : List Nat
  frames : List (List Nat)
  q : NMap (NMap Nat)
  deriving DecidableEq, Repr

/-- Why an entry's work waits at step start (R313). -/
inductive HeldWhy where
  /-- The request moves out (R140). -/
  | moving
  /-- The increment of an ATTACH is still being received (R146). -/
  | receiving
  deriving DecidableEq, Repr

/-- An entry of a running step. -/
structure EntryRun where
  d : StepEntry
  /-- The request's slot, none where the handle names no resident request of the pallet. -/
  slot : Option Nat
  /-- Statuses that apply so far; the entry carries the first in the order of R317. -/
  statuses : List Status
  nostep : Bool
  /-- The entry's work has ended: it was refused, ended under R493, or verified. -/
  ended : Bool
  held : Option HeldWhy
  /-- The instant the hold began, and the nanoseconds of it counted as a stall so far (R178). -/
  heldAt : Nat
  stalled : Nat
  /-- T_DONE of verification; 0 if none ran. -/
  tDone : Nat
  /-- The sampler blocks in force at the step's start (R118). -/
  blocks : List Block
  counts : NMap CountTable
  tree : Option Tree
  /-- The instant DRAFT_TREE was sent (R495). -/
  sentAt : Nat
  logits : Option LogitsMsg
  /-- Accepted path, node 0 first, and E (R105, R124). -/
  path : List Nat
  emitted : List (List Nat)
  accepted : Nat
  stopped : Bool
  /-- The last call served for each layer, whose fresh rows stand (R90). -/
  fresh : NMap (Option AttCall)
  deriving DecidableEq, Repr

/-- A running step (R314). -/
structure StepRun where
  o : Nat
  r : Nat
  desc : StepDesc
  tStart : Nat
  tag : Nat
  /-- The map epoch current when the step started (R276). -/
  epoch : Nat
  /-- The step's arrival counter (R44). -/
  counter : Nat
  entries : List EntryRun
  /-- The instant the counter became DONE, and whether its STEP_DONE has reached the management cores (R44). -/
  doneAt : Option Nat
  doneSeen : Bool
  /-- The LD was reset while the step ran: its record is discarded (R379). -/
  discarded : Bool
  deriving DecidableEq, Repr

/-- What a PAL_IMAGE or geometry change makes a pallet do after its save or flush (R319, R321). -/
structure Change where
  /-- The image to load, none to unload. -/
  target : Option Loaded
  saveSlot : Option Nat
  restoreSlot : Option Nat
  deriving DecidableEq, Repr

/-- A pallet. -/
structure Pallet where
  state : PalState
  loaded : Option Loaded
  change : Option Change
  /-- Step sequence number of the running step or of the last one; 0 if none since reset (R314, R435). -/
  seq : Nat
  run : Option StepRun
  fault : Option FaultRec
  /-- A fault has been registered since the pallet last entered LOADING (R410). -/
  faulted : Bool
  /-- The load in progress repeats the march test on this brick (R419). -/
  retest : Option Nat
  installed : List Installed
  /-- Image installs in progress, oldest first (R351). -/
  installs : List Install
  saves : NMap Save
  /-- Consecutive steps over the straggler threshold (R160). -/
  slow : Nat
  /-- Spans of time during which a step ran, newest first (R322). -/
  busy : List (Nat × Nat)
  /-- The instant of the last DECODE attention call received (R452). -/
  lastDecode : Option Nat
  /-- Retirement under R354 unloads and zeroes the pallet at its idle point. -/
  unload : Bool
  deriving DecidableEq, Repr

/-- A pallet at reset. -/
def Pallet.reset : Pallet :=
  { state := .empty, loaded := none, change := none, seq := 0, run := none, fault := none, faulted := false,
    retest := none, installed := [], installs := [], saves := [], slow := 0, busy := [], lastDecode := none,
    unload := false }

end Sys2Proof.Machine
end

