-- ==== Sys2Proof/Machine/State.lean ====
section
/-! DEFINITION. The state of the block: everything the spec gives the module, as plain data, with the queue of waiting
commands, and the state after reset. Registers that are dictionary objects live in `dict` (an unlisted object holds its
default); the records of the other files hold the rest. -/

namespace Sys2Proof.Machine

/-- Return codes of a mailbox (R361, R375, R376). -/
inductive MboxRet where
  | success | invalidInput | unsupported
  deriving DecidableEq, Repr

/-- What the module has sent outside. The list of these in the state is the model's own: it lets a claim say what left. -/
inductive Out where
  | rdData (dst tag : Nat) (data : List Byte)
  | wrDone (dst tag : Nat)
  | mortarErr (dst tag : Nat) (st : Status)
  | token (dst : Nat) (tok : Token)
  | arrive (k n tag : Nat)
  | stepDone (p tag : Nat)
  | halt (p : Nat)
  | notify (session seq : Nat) (payload : List Byte)
  | answer (via : Via) (reqId : Nat) (st : Status) (len : Nat) (data : List Byte)
  /-- A VDP message by port, session, TYPE and REQ_ID (R392). -/
  | vdp (port session typ reqId : Nat) (payload : List Byte)
  | mailbox (o : Nat) (ret : MboxRet) (data : List Byte)
  | msix (ld vector : Nat)
  /-- The answer to a configuration request: Request Retry Status or not, and the word read (R359, R461). -/
  | cfg (ld : Nat) (retry : Bool) (data : Option Nat)
  | cxlData (ld addr : Nat) (data : List Byte)
  | cxlDone (ld addr : Nat)
  | hostRead (id ld addr len : Nat)
  | hostWrite (id ld addr : Nat) (data : List Byte)
  /-- A transport packet, and the frame that carries it (R220, R238, R239). -/
  | pkt (port op : Nat) (p : Pkt) (frame : List Byte)
  | pfc (port enable : Nat) (times : List Nat)
  /-- A spare word on the spare channel, and a LINK_CONTROL frame (R214, R215, R220). -/
  | spare (port word : Nat)
  | frame (port : Nat) (data : List Byte)
  | ptp (kind : Nat) (fields : List Int)
  | tap (value : Nat)
  | traceData (data : List Byte)
  | image (reader : Nat) (coded : Bool) (data : List Byte)
  /-- A stripe of a stored shard is reported absent to a rebuilding module (R201). -/
  | absent (reader stripe : Nat)
  /-- Work tokens with ENGINES bit 6 put in a pallet for the codec (R189). How many is given by no rule. -/
  | codecTokens (p : Nat)
  /-- A protected word as it is delivered (R185): its place, its address there, and the word, decrypted. -/
  | word (place : WordPlace) (addr data : Nat)
  /-- The damaged units or stripes of a verification (R206). -/
  | damaged (rid : Nat) (units : List Nat)
  /-- FL_CLK and FL_CS_N are driven, or every FL_ land is left undriven (R480). -/
  | flDrive (driven : Bool)
  /-- A flash read (R481): opcode, dummy cycles, FL_CLK in MHz, the 4-byte address, and the bytes read. -/
  | flashRead (opcode dummy mhz addr len : Nat)
  deriving DecidableEq, Repr

/-- The dictionary (chapter 16): current values, shadows, captured groups and BRK_COMMIT_STATE. -/
structure Dict where
  /-- Object key (OID × 2^32 + instance) to value, little-endian as a number. -/
  vals : NMap Nat
  /-- Pending shadows (R385). -/
  shadow : NMap Nat
  groups : List Group
  groupNext : Nat
  /-- COMMIT_ID of the next commit (R386). -/
  commitNext : Nat
  refId : Nat
  refKey : Nat
  refStatus : Nat
  deriving DecidableEq, Repr

/-- Power, start-up, pins and health (chapters 18, 20, 21). -/
structure Boot where
  stage : BootStage
  /-- TIME64 of internal reset release, for BRK_UPTIME_NS. -/
  tRelease : Nat
  /-- The instant of the brown-out or over-voltage that switched the rails off, or of the input's later rise through 40 V (R447, R448). -/
  tCut : Option Nat
  /-- The input is outside 40–60 V, so no new event is raised (R447). -/
  excursion : Bool
  /-- The event assertion of MOD_FAULT_N (R430). -/
  assertion : Bool
  thermAlert : Bool
  modPwrgd : Bool
  /-- TB_STATE has been LOCKED since reset (R428). -/
  wasLocked : Bool
  mgmtUp : List Nat
  /-- CXL_PERST_N is high since this instant; the CXL link is trained (R461). -/
  perstAt : Option Nat
  linkWidth : Nat
  linkGts : Nat
  marched : List Nat
  /-- The instruction register of the test port (R482), and its boundary register: the levels of the lands. -/
  tapIr : Nat
  boundary : List Bool
  /-- The device drives FL_CLK and FL_CS_N (R480). -/
  flDriven : Bool
  deriving DecidableEq, Repr

/-- Key slots and tenants (chapter 14). -/
structure Keys where
  slots : NMap KeySlot
  tenants : NMap Tenant
  deriving DecidableEq, Repr

/-- VDP sessions and held pieces (chapter 16). -/
structure Vdp where
  sessions : NMap Session
  next : Nat
  /-- Pieces held by writer: session number + 32, or the owner of the mailbox (R375). -/
  pieces : NMap Piece
  deriving DecidableEq, Repr

/-- Host attachment (chapter 15). -/
structure HostSide where
  /-- Rings by owner × 64 + ring. -/
  rings : NMap Ring
  lds : NMap Ld
  /-- HDM windows and the FM region: byte at owner × 2^40 + HDM address. -/
  window : Mem
  /-- Host memory as the device has written it by DMA: byte at LD × 2^64 + host address. -/
  hostMem : Mem
  dmas : List Dma
  deriving DecidableEq, Repr

/-- The brick array (chapter 02). -/
structure BrickArray where
  bricks : NMap Brick
  counters : NMap ArrCounter
  /-- Tokens on a claim ring: the brick they go to, and the token. -/
  flying : List (Nat × Token)
  /-- Bricks whose island clock is stopped (R37, R457, R459). -/
  stopped : List Nat
  /-- Bricks that crossed PWR_TJ_THROTTLE_C and have not fallen 2 °C below it (R456). -/
  throttled : List Nat
  /-- Pairs (hotter, cooler) of neighbours whose difference has reached 26 °C and not fallen to 24 °C (R36). -/
  lowering : List (Nat × Nat)
  /-- Islands whose rail slews to the setting that stands in PWR_ISLAND_SETTING: the setting before, and the instant the rail
  has settled (R33, R455). -/
  changing : NMap (Nat × Nat)
  /-- The governor's instant of the last change of each class (R451), class to instant. -/
  classAt : NMap Nat
  /-- The instant of the last balance move (R322). -/
  balanceAt : Option Nat
  deriving DecidableEq, Repr

/-- Requests, their moves and their copies (chapters 04 to 06). -/
structure ReqSide where
  requests : NMap Request
  locals : NMap ReqLocal
  hslots : NMap HSlot
  calls : List CallRun
  out : List MoveOut
  incs : List IncOut
  into : List MoveIn
  xidNext : Nat
  homes : NMap HomeReg
  /-- Verifications in progress: RID and the writer (R206). -/
  verify : List (Nat × Via)
  shards : NMap CopyShard
  deriving DecidableEq, Repr

/-- Memory tiers (chapter 07). -/
structure MemSide where
  /-- HBM: byte at its physical address (R180). -/
  hbm : Mem
  /-- Frames in use, ascending, and the leaves of every pallet's page table: key pallet × 2^35 + VA / 8192. -/
  frames : NMap Nat
  leaves : NMap Leaf
  /-- The valid entries of levels 3, 2 and 1 of every pallet's page table, by `tableKey`: NEXT, as a frame (R166). -/
  tables : NMap Nat
  placements : List Placement
  flushes : NMap FlushRec
  /-- Scrubs by controller, and by 8 + brick: the next line or word, and the instant the pass began (R186). -/
  scrubs : NMap (Nat × Nat)
  deriving DecidableEq, Repr

/-- Faults: what stops the block. -/
inductive Fault where
  /-- Raised by CXL_MEM_READ and CXL_MEM_WRITE at an address outside the LD's window (R360, R361): no such address exists.
  Safe: the model stops where the link would answer. -/
  | outsideWindow
  deriving DecidableEq, Repr

/-- Refusals: commands without a meaning. -/
inductive Refusal where
  /-- Raised by the arm of a command that has no meaning in the model. Safe: nothing is claimed of it. -/
  | notModelled (mnemonic : String)
  deriving DecidableEq, Repr

/-- The state of the block. -/
structure State where
  pending : List Instr
  /-- TIME64 in nanoseconds. -/
  now : Nat
  /-- Counter of the free values drawn so far (the model's own field). -/
  free : Nat
  /-- Numbers given to flushes, accesses, placements and the like (the model's own field). -/
  ids : Nat
  out : List Out
  dict : Dict
  events : List EventRec
  boot : Boot
  kiln : Kiln
  keys : Keys
  vdp : Vdp
  host : HostSide
  array : BrickArray
  pallets : NMap Pallet
  req : ReqSide
  mem : MemSide
  ports : NMap Port
  tb : Timebase
  trn : Transport
  rmf : Compose
  asc : Assoc
  obs : Observe
  deriving DecidableEq, Repr

/-- The state right after reset: the rails are in regulation, internal reset holds, and every object has its default. -/
def State.reset : State :=
  { pending := [], now := 0, free := 0, ids := 0, out := [],
    dict := { vals := [], shadow := [], groups := [], groupNext := 0, commitNext := 1, refId := 0, refKey := 0, refStatus := 0 },
    events := [],
    boot := { stage := .railsUp, tRelease := 0, tCut := none, excursion := false, assertion := false, thermAlert := false,
              modPwrgd := true, wasLocked := false, mgmtUp := [], perstAt := none, linkWidth := 0, linkGts := 0, marched := [],
              tapIr := 1, boundary := [], flDriven := false },
    kiln := { meas := List.replicate 8 0, deviceId := 0, identity := false, serial := 0, kilnSvn := 0, fwSvn := 0, cfgSvn := 0,
              cfgSigner := 0, kilnImage := 0, fwImage := 0, cfgImage := 0, attestQ := [], report := 0 },
    keys := { slots := [], tenants := [] },
    vdp := { sessions := [], next := 0, pieces := [] },
    host := { rings := [], lds := [], window := [], hostMem := [], dmas := [] },
    array := { bricks := [], counters := [], flying := [], stopped := [], throttled := [], lowering := [], changing := [],
               classAt := [], balanceAt := none },
    pallets := [],
    req := { requests := [], locals := [], hslots := [], calls := [], out := [], incs := [], into := [], xidNext := 1,
             homes := [], verify := [], shards := [] },
    mem := { hbm := [], frames := [], leaves := [], tables := [], placements := [], flushes := [], scrubs := [] },
    ports := [],
    tb := Timebase.reset,
    trn := { flows := [], rx := [], queues := [], regs := [], trackers := [], missed := [], waiting := [], nextTag := 1, ansNext := 0 },
    rmf := { epochs := [], entries := [], overflow := false, rack := [], gathers := [], aborted := [] },
    asc := { order := [], waiting := [], v := [], f := [], ringClass := [], descs := [], tokens := [] },
    obs := Observe.reset }

/-- What a command answers. -/
abbrev Outcome := Host.Outcome State Fault Refusal

end Sys2Proof.Machine
end

