-- ==== Sys2Proof/Machine/Ops.lean ====
section
/-! DEFINITION. The named operations over the state that every family uses: time, dictionary objects, bricks and cores,
pallets and their rectangles, key slots, rings, and the events of R429. -/

namespace Sys2Proof.Machine

/-! ## Time, numbers, output -/

/-- The block at an instant: time never runs back. -/
def State.at (s : State) (t : Nat) : State := { s with now := max s.now t }

/-- Adds to what has left the module. -/
def State.emit (s : State) (o : Out) : State := { s with out := o :: s.out }

/-- A free value below 2^w, and the state that has drawn it. -/
def State.fresh (s : State) (w : Nat) : Nat × State := (Config.freeValue s.free % 2 ^ w, { s with free := s.free + 1 })

/-- A new number for a flush, an access or a placement. -/
def State.newId (s : State) : Nat × State := (s.ids, { s with ids := s.ids + 1 })

/-! ## Dictionary objects -/

/-- The key of an object's instance: INSTANCE is a 32-bit number. -/
def objKey (oid inst : Nat) : Nat := oid * 2 ^ 32 + inst % 2 ^ 32

/-- The current value of an object's instance. -/
def State.obj (s : State) (oid inst : Nat) : Nat := NMap.get (objDefault oid) s.dict.vals (objKey oid inst)

/-- Sets the current value of an object's instance. -/
def State.setObj (s : State) (oid inst v : Nat) : State :=
  { s with dict := { s.dict with vals := NMap.put (objDefault oid) s.dict.vals (objKey oid inst) v } }

/-- Adds to a counter object. -/
def State.bumpBy (s : State) (oid inst n : Nat) : State := s.setObj oid inst (s.obj oid inst + n)

/-- Adds one to a counter object. -/
def State.bump (s : State) (oid inst : Nat) : State := s.bumpBy oid inst 1

/-- A field of an OCTET object: `n` bytes at an offset. -/
def State.objField (s : State) (oid inst off n : Nat) : Nat := bitsOf (s.obj oid inst) (8 * off) (8 * n)

/-- Counts a failed check of a decode (R199, R200). -/
def countCheck (s : State) (c : CheckFail) : State := s.bump (match c with
  | .code => Obj.CMP_CODE_ERR
  | .len => Obj.CMP_LEN_ERR
  | .crc => Obj.CMP_CRC_ERR) 0

/-! ## Roles -/

/-- BRK_NODE_ROLE: 0 UNASSIGNED, 1 PROMPT, 2 GENERATION, 3 CACHE, 4 HYBRID (R3). -/
def State.role (s : State) : Nat := s.obj Obj.BRK_NODE_ROLE 0

/-- The management cores serve the dictionary: the mailboxes are open. -/
def State.running (s : State) : Bool := s.boot.stage == .running || s.boot.stage == .trip

/-! ## Bricks and pallets -/

def State.brick (s : State) (b : Nat) : Brick := NMap.get Brick.reset s.array.bricks b

def State.setBrick (s : State) (b : Nat) (v : Brick) : State :=
  { s with array := { s.array with bricks := NMap.put Brick.reset s.array.bricks b v } }

/-- Changes one brick. -/
def State.onBrick (s : State) (b : Nat) (f : Brick → Brick) : State := s.setBrick b (f (s.brick b))

def Brick.core (k : Brick) (c : Nat) : Core := NMap.get Core.reset k.cores c

def Brick.setCore (k : Brick) (c : Nat) (v : Core) : Brick := { k with cores := NMap.put Core.reset k.cores c v }

def State.core (s : State) (b c : Nat) : Core := (s.brick b).core c

/-- Changes one micro-core. -/
def State.onCore (s : State) (b c : Nat) (f : Core → Core) : State :=
  s.onBrick b (fun k => k.setCore c (f (k.core c)))

def State.pallet (s : State) (p : Nat) : Pallet := NMap.get Pallet.reset s.pallets p

def State.setPallet (s : State) (p : Nat) (v : Pallet) : State :=
  { s with pallets := NMap.put Pallet.reset s.pallets p v }

def State.onPallet (s : State) (p : Nat) (f : Pallet → Pallet) : State := s.setPallet p (f (s.pallet p))

def State.counter (s : State) (k : Nat) : ArrCounter := NMap.get ArrCounter.reset s.array.counters k

def State.setCounter (s : State) (k : Nat) (v : ArrCounter) : State :=
  { s with array := { s.array with counters := NMap.put ArrCounter.reset s.array.counters k v } }

/-- A pallet's rectangle (R45). -/
structure Rect where
  col0 : Nat
  ncol : Nat
  course0 : Nat
  ncourse : Nat
  deriving DecidableEq, Repr

/-- The rectangle that a PAL_GEOMETRY word gives. -/
def rectOf (w : Nat) : Rect :=
  { col0 := bitsOf w 0 6, ncol := bitsOf w 6 6, course0 := bitsOf w 12 5, ncourse := bitsOf w 17 6 }

/-- The rectangle holds a brick. -/
def Rect.has (g : Rect) (b : Nat) : Bool :=
  g.ncol ≠ 0 && g.ncourse ≠ 0 && g.col0 ≤ b % 40 && b % 40 < g.col0 + g.ncol && g.course0 ≤ b / 40
    && b / 40 < g.course0 + g.ncourse

/-- Bricks in a rectangle. -/
def Rect.size (g : Rect) : Nat := g.ncol * g.ncourse

/-- The brick with a relative number (R318): course offset × NCOL + column offset. -/
def Rect.brick (g : Rect) (rel : Nat) : Nat := (g.course0 + rel / g.ncol) * 40 + g.col0 + rel % g.ncol

/-- The bricks of a rectangle by relative number. -/
def Rect.bricks (g : Rect) : List Nat := (List.range g.size).map g.brick

/-- The next brick on the claim ring (R38): ascending columns along the first course, descending along the next, and so
on, and from the last brick back to the first. -/
def Rect.next (g : Rect) (b : Nat) : Nat :=
  let row := b / 40 - g.course0
  let col := b % 40 - g.col0
  let first := g.course0 * 40 + g.col0
  if row % 2 = 0 then
    if col + 1 < g.ncol then b + 1
    else if row + 1 < g.ncourse then b + 40 else first
  else
    if 0 < col then b - 1
    else if row + 1 < g.ncourse then b + 40 else first

def State.rect (s : State) (p : Nat) : Rect := rectOf (s.obj Obj.PAL_GEOMETRY p)

/-- The pallet a brick belongs to. -/
def State.palletOf (s : State) (b : Nat) : Option Nat := leastBelow 16 (fun p => (s.rect p).has b)

/-- A pallet exists: its rectangle is not empty. -/
def State.exists? (s : State) (p : Nat) : Bool := 0 < (s.rect p).size

/-- The bricks beside a brick. -/
def neighbours (b : Nat) : List Nat :=
  (if 40 ≤ b then [b - 40] else []) ++ (if b % 40 ≠ 0 then [b - 1] else [])
    ++ (if b % 40 ≠ 39 then [b + 1] else []) ++ (if b + 40 < 1200 then [b + 40] else [])

/-- The home HBM stack of a brick (R38). -/
def homeStack (b : Nat) : Nat := min 3 (b % 40 / 8) + (if b / 40 < 15 then 0 else 4)

/-- A pallet's kind of loaded image: 1 DECODE, 2 PREFILL, 3 DRAFT, 0 where none is loaded. -/
def Pallet.kind (q : Pallet) : Nat := match q.loaded with
  | some l => l.manifest.kind
  | none => 0

/-- READY or RUNNING. -/
def Pallet.live (q : Pallet) : Bool := q.state == .ready || q.state == .running

/-! ## Key slots and tenants (chapter 14) -/

/-- A key slot at reset. -/
def KeySlot.reset : KeySlot :=
  { state := .empty, gen := 0, lastGen := 0, tenant := none, lds := 0, reportDigest := 0, ekExpire := 0,
    distributed := false, retireWaits := false, tRetire := 0, tD := 0, xts := 0, link := 0,
    model := 0, release := none }

def State.kslot (s : State) (k : Nat) : KeySlot := NMap.get KeySlot.reset s.keys.slots k

def State.setKslot (s : State) (k : Nat) (v : KeySlot) : State :=
  { s with keys := { s.keys with slots := NMap.put KeySlot.reset s.keys.slots k v } }

def State.onKslot (s : State) (k : Nat) (f : KeySlot → KeySlot) : State := s.setKslot k (f (s.kslot k))

def State.tenant? (s : State) (i : Nat) : Option Tenant := NMap.get? s.keys.tenants i

/-- The tenant index that holds a key slot. -/
def State.slotTenant (s : State) (k : Nat) : Option Nat := (s.kslot k).tenant

/-- The resident tenant that owns a pallet. -/
def State.palletTenant (s : State) (p : Nat) : Option Nat :=
  (List.find? (fun e => bitOf e.2.pallets p) s.keys.tenants).map (·.1)

/-- The tenant of an LD. -/
def State.ldTenant (s : State) (ld : Nat) : Option Nat :=
  (List.find? (fun e => bitOf e.2.lds ld) s.keys.tenants).map (·.1)

/-- A pallet belongs to an issuer (R334): the FM-owned LD's view is the privileged one. -/
def State.ownsPallet (s : State) (o p : Nat) : Bool :=
  o == 16 || (match s.ldTenant o with
    | some i => (match s.tenant? i with
      | some t => bitOf t.pallets p
      | none => false)
    | none => false)

/-- A key slot is in a pallet's key slot set: its tenant owns the pallet. Slot 0 is the module's own. -/
def State.slotServes (s : State) (k p : Nat) : Bool := match s.slotTenant k with
  | some i => (match s.tenant? i with
    | some t => bitOf t.pallets p
    | none => false)
  | none => false

/-- The slot is RETIRING, DRAINED, or has been retired. -/
def State.slotRetired (s : State) (k : Nat) : Bool :=
  (s.kslot k).state == .retiring || (s.kslot k).state == .drained

/-- A KEYID names an installed key of its slot and generation (R246 order 2, R356). -/
def State.keyInstalled (s : State) (keyId : Nat) : Bool :=
  let k := s.kslot (bitsOf keyId 0 10)
  (k.state == .active || k.state == .retiring || k.state == .drained) && k.gen == bitsOf keyId 10 6

/-- The copies of a slot's keys have reached the controllers and the ports (R346): until then work under it stalls. -/
def State.keysReady (s : State) (k : Nat) : Bool := (s.kslot k).state ≠ .active || (s.kslot k).distributed

/-- The KEYID of a tenant's slot (R238); slot 0 is no tenant's, and packets under it use none (R352). -/
def State.keyIdOf (s : State) (k : Nat) : Nat := if k = 0 then 0 else k + (s.kslot k).gen * 1024

/-- A debug gate is open (R353): 0 TRACE, 1 PROFILE, 2 OBS, 3 TAP. -/
def State.gate (s : State) (g : Nat) : Bool := s.keys.tenants.all (fun e => bitOf e.2.consent g)

/-- SEC_DEBUG_OPEN (R353). -/
def State.gates (s : State) : Nat :=
  b2n (s.gate 0) + 2 * b2n (s.gate 1) + 4 * b2n (s.gate 2) + 8 * b2n (s.gate 3)

/-! ## Host rings and logical devices (chapter 15) -/

/-- The key of a ring of an owner. -/
def ringKey (o r : Nat) : Nat := o * 64 + r % 64

def State.ring (s : State) (o r : Nat) : Ring := NMap.get Ring.reset s.host.rings (ringKey o r)

def State.setRing (s : State) (o r : Nat) (v : Ring) : State :=
  { s with host := { s.host with rings := NMap.put Ring.reset s.host.rings (ringKey o r) v } }

def State.onRing (s : State) (o r : Nat) (f : Ring → Ring) : State := s.setRing o r (f (s.ring o r))

def State.ld (s : State) (o : Nat) : Ld := NMap.get Ld.reset s.host.lds o

def State.setLd (s : State) (o : Nat) (v : Ld) : State :=
  { s with host := { s.host with lds := NMap.put Ld.reset s.host.lds o v } }

def State.onLd (s : State) (o : Nat) (f : Ld → Ld) : State := s.setLd o (f (s.ld o))

/-- The address of an HDM byte in the windows. -/
def winAddr (o a : Nat) : Nat := o * 2 ^ 40 + a

/-- Bytes of a window. -/
def State.winRead (s : State) (o a n : Nat) : List Byte := memRead s.host.window (winAddr o a) n

/-- The little-endian number of `n` bytes of a window. -/
def State.winNat (s : State) (o a n : Nat) : Nat := ofBytes (s.winRead o a n)

/-- Stores bytes in a window. -/
def State.winWrite (s : State) (o a : Nat) (bs : List Byte) : State :=
  { s with host := { s.host with window := memWrite s.host.window (winAddr o a) bs } }

/-- The size of a window in bytes: the LD's allocation, or 64 MiB for the FM-owned LD (R377). -/
def State.winSize (s : State) (o : Nat) : Nat := if o = 16 then 2 ^ 26 else (s.ld o).hdmMib * 2 ^ 20

/-! ## The trace (R441 to R444) -/

/-- Samples the trace buffer holds. -/
def State.traceCapacity (s : State) : Nat := 131072 * 2 ^ bitsOf (s.obj Obj.OBS_TRACE_CTRL 0) 1 2

/-- Writes a sample at NEXT; an overwrite is counted, and in TRIGGERED the sample is one of R (R444). -/
def tracePut (s : State) (v : Nat) : State :=
  let o := s.obs
  let s := if o.traceWrapped then s.bump Obj.OBS_TRACE_OVERWRITTEN 0 else s
  let next := (o.traceNext + 1) % s.traceCapacity
  { s with obs := { o with
    trace := NMap.put 0 o.trace o.traceNext v, traceNext := next, traceWrapped := o.traceWrapped || next == 0,
    postLeft := if o.traceState = 2 then o.postLeft - 1 else o.postLeft } }

/-- A sample is written in ARMED, and in TRIGGERED until R is zero (R444). -/
def State.traceWrites (s : State) : Bool := s.obs.traceState = 1 || (s.obs.traceState = 2 && 0 < s.obs.postLeft)

/-- Writes a marker (R442). -/
def traceMarker (s : State) : State :=
  let s := tracePut s (15 * 2 ^ 60 + s.now % 2 ^ 60)
  { s with obs := { s.obs with traceMark := s.now, traceSince := 0 } }

/-- A source records a sample of this pallet, or port for source 5: SRC_EN, PALLETS, PORT and ALL_PORTS (R441). -/
def State.traceOn (s : State) (src unit : Nat) : Bool :=
  let c := s.obj Obj.OBS_TRACE_CTRL 0
  s.obs.traceState ≠ 0 && s.gate 0 && bitOf c (32 + src)
    && (if src ≤ 4 || src = 6 || src = 8 then bitOf c (48 + unit)
        else if src = 5 then bitOf c 112 || bitsOf c 108 4 == unit else true)

/-- The trigger condition of R443 holds for a sample. -/
def State.traceMatch (s : State) (src payload : Nat) : Bool :=
  let g := s.obj Obj.OBS_TRACE_TRIGGER 0
  (bitsOf g 4 4 == 1 || bitsOf g 4 4 == 3) && bitsOf g 0 4 == src
    && (payload &&& bitsOf g 128 40) == (bitsOf g 64 40 &&& bitsOf g 128 40)

/-- The trigger: T_TRIGGER and R are taken (R444). -/
def traceFire (s : State) : State :=
  { s with obs := { s.obs with traceState := 2, tTrigger := s.now, postLeft := s.obj Obj.OBS_TRACE_POST 0 } }

/-- The trigger condition is met again after the trigger. -/
def traceExtra (s : State) : State :=
  let s := s.bump Obj.OBS_TRACE_EXTRA_COUNT 0
  if s.obs.extra.length < 16 then { s with obs := { s.obs with extra := s.obs.extra ++ [s.now] } } else s

/-- A sample of a source (R442, R444). While ARMED or TRIGGERED it is written, with a marker before it where OFS would
exceed 2^20 − 1; a match fires the trigger at the COUNT-th, or is counted as extra after it. -/
def traceSample (s : State) (src unit payload : Nat) : State :=
  if !s.traceOn src unit then s
  else
    let hit := s.traceMatch src payload
    let due := 2 ^ 20 - 1 < s.now - s.obs.traceMark || 1024 ≤ s.obs.traceSince
    let s' := if s.traceWrites && due then traceMarker s else s
    let s' := if !s'.traceWrites then s'
      else
        let s := tracePut s' (src * 2 ^ 60 + (s'.now - s'.obs.traceMark) * 2 ^ 40 + payload % 2 ^ 40)
        { s with obs := { s.obs with traceSince := s.obs.traceSince + 1 } }
    if s.obs.traceState = 1 then
      if !hit then s'
      else
        let n := s'.obs.traceMatches + 1
        let s' := { s' with obs := { s'.obs with traceMatches := n } }
        if n = bitsOf (s.obj Obj.OBS_TRACE_TRIGGER 0) 8 8 then traceFire s' else s'
    else if hit then traceExtra s'
    else s'

/-! ## Events (chapter 18) -/

/-- Classes of event codes (R429). -/
def eventClass (code : Nat) : Nat :=
  match code with
  | 0x01 => 0 | 0x02 => 10 | 0x03 => 1 | 0x10 => 1 | 0x11 => 1 | 0x12 => 1 | 0x13 => 9 | 0x14 => 9
  | 0x20 => 2 | 0x21 => 2 | 0x22 => 2 | 0x23 => 2 | 0x30 => 3 | 0x40 => 4 | 0x41 => 4 | 0x42 => 4
  | 0x50 => 5 | 0x60 => 6 | 0x61 => 6 | 0x70 => 7 | 0x80 => 8 | _ => 11

/-- The EVENT payload of R400: kind, 3 reserved bytes, code, 6 reserved bytes, TIME64, detail: 36 bytes. -/
def EventRec.payload (e : EventRec) : List Byte :=
  pack [(3, 1), (0, 3), (e.code, 2), (0, 6), (e.time, 8), (e.detail, 16)]

/-- The established sessions. -/
def State.openSessions (s : State) : List (Nat × Session) :=
  s.vdp.sessions.filter (fun e => e.2.stage == .established)

/-- Sends a NOTIFY to one session (R400): its own notification number advances. -/
def State.notifyOne (s : State) (k : Nat) (payload : List Byte) : State :=
  match NMap.get? s.vdp.sessions k with
  | none => s
  | some v =>
    let v' := { v with noteSeq := v.noteSeq + 1, txSeq := v.txSeq + 2 }
    ({ s with vdp := { s.vdp with sessions := NMap.ins s.vdp.sessions k v' } }).emit (.notify k v.noteSeq payload)

/-- Raises an event (R412, R429, R430): it is logged, sent to every session or counted unsent, and it sets the event
assertion when its class is in ERR_FAULT_OUT_MASK. `detail` is the fields in order as (value, bytes). -/
def State.raise (s : State) (code : Nat) (detail : List (Nat × Nat)) : State :=
  let n := s.obj Obj.ERR_EVENT_SEQ 0 + 1
  let e : EventRec := { seq := n, code := code, time := s.now, detail := ofBytes (pack detail) }
  let s := ({ s with events := (e :: s.events).take 128 }).setObj Obj.ERR_EVENT_SEQ 0 n
  let s := traceSample (s.bump Obj.ERR_EVENTS 0) 7 0 code
  let s := if s.openSessions.isEmpty then s.bump Obj.BRK_EVENTS_UNSENT 0
    else s.openSessions.foldl (fun s x => s.notifyOne x.1 e.payload) s
  if bitOf (s.obj Obj.ERR_FAULT_OUT_MASK 0) (eventClass code) && eventClass code < 11 then
    ({ s with boot := { s.boot with assertion := true } }).bump Obj.ERR_FAULT_ASSERTS 0
  else s

/-! ## Object accesses -/

/-- The access comes through the privileged view (R333): an established session, or the FM-owned LD's mailbox. -/
def State.isPriv (s : State) : Via → Bool
  | .vdp k => (match NMap.get? s.vdp.sessions k with
    | some v => v.stage == .established
    | none => false)
  | .unauth => false
  | .mailbox o => o == 16

/-- The LD behind an access of the unprivileged view. -/
def viaLd : Via → Option Nat
  | .mailbox o => if o = 16 then none else some o
  | _ => none

/-- Answers an access (R375, R383, R396). -/
def State.reply (s : State) (via : Via) (st : Status) (data : List Byte) : State :=
  s.emit (.answer via 0 st data.length data)

/-- Serves the write of an object that has a command of its own: nothing while the server is closed; ACCESS_DENIED where
the view or the issuer does not permit it; otherwise the body's status and data are the answer. -/
def State.objWrite (s : State) (via : Via) (allowed : Bool) (body : State → State × Status × List Byte) : State :=
  if !s.running then s
  else
    let s := s.bump Obj.BRK_DICT_WRITES 0
    if !allowed then s.reply via .accessDenied []
    else
      let r := body s
      r.1.reply via r.2.1 r.2.2

/-- The value lies in the stated range of its object (R383). -/
def inRange (oid v : Nat) : Bool := match objRow? oid with
  | some r => r.lo ≤ v && v ≤ r.hi
  | none => false

/-! ## Statuses -/

/-- The code of a status (R414). -/
def statusCode : Status → Nat
  | .ok => 0 | .flushed => 1 | .deadlineMissed => 2 | .cancelledDropped => 3 | .admitDenied => 4 | .regionRevoked => 5
  | .keyRetired => 6 | .targetDead => 7 | .stateRebuilt => 8 | .notReady => 9 | .epochStale => 10 | .timeout => 11
  | .transportError => 12 | .accessDenied => 13 | .formatFallback => 14 | .uncorrectable => 15

/-- The place of a status in the order of R317; those outside it come last. -/
def statusRank : Status → Nat
  | .uncorrectable => 0 | .targetDead => 1 | .keyRetired => 2 | .flushed => 3 | .epochStale => 4 | .timeout => 5
  | .transportError => 6 | .accessDenied => 7 | .admitDenied => 8 | .cancelledDropped => 9 | .deadlineMissed => 10
  | .formatFallback => 11 | .ok => 12 | _ => 13

/-- The status that the statuses applying to an entry give it (R317): the first in order, OK where none applies. -/
def firstStatus (l : List Status) : Status :=
  l.foldl (fun a x => if statusRank x < statusRank a then x else a) .ok

end Sys2Proof.Machine
end

