-- ==== Sys2Proof/Machine/Counters.lean ====
section
/-! DEFINITION. Counter sets (chapter 19): totals of the events of R437, the records of R440, and their resets. A pallet's set
has the pallet's number, the global set is number 16. -/

namespace Sys2Proof.Machine

/-- Counts events that no dictionary counter holds: for a pallet's set and for the global one. -/
def tally (s : State) (p : Option Nat) (code n : Nat) : State :=
  let add := fun (m : NMap Nat) k => NMap.put 0 m k (NMap.get 0 m k + n)
  let m := match p with
    | some p => add s.obs.tally (p * 2 ^ 16 + code)
    | none => s.obs.tally
  { s with obs := { s.obs with tally := add m (16 * 2 ^ 16 + code) } }

/-- The dictionary counter, instanced by pallet, that counts a code's events. -/
def codeObject : Nat → Option Nat
  | 0x10 => some Obj.FMT_BLOCKS_WRITTEN
  | 0x11 => some Obj.FMT_FALLBACK_BLOCKS
  | 0x22 => some Obj.MEM_TLB_MISSES
  | 0x31 => some Obj.MEM_STALL_NS_SUM
  | 0x32 => some (Obj.MEM_STALL_NS_SUM + 1)
  | 0x33 => some (Obj.MEM_STALL_NS_SUM + 2)
  | 0x34 => some (Obj.MEM_STALL_NS_SUM + 3)
  | 0x35 => some (Obj.MEM_STALL_NS_SUM + 4)
  | 0x36 => some (Obj.MEM_STALL_NS_SUM + 5)
  | 0x40 => some Obj.ATT_CALLS
  | 0x41 => some Obj.ATT_WIDEN_ROUNDS
  | 0x42 => some Obj.ATT_PAGES_READ
  | 0x43 => some Obj.ATT_TIMEOUT
  | 0x50 => some Obj.SMP_FRAMES_EMITTED
  | 0x51 => some Obj.DRF_NODES_ACCEPTED
  | _ => none

/-- Codes whose events the model does not time or measure: cycles, bank waits, HBM lines and input energy (log
entry 9). Their counts are free values. -/
def freeCode (code : Nat) : Bool :=
  code == 0x01 || code == 0x03 || code == 0x07 || code == 0x08 || code == 0x09 || code == 0x20 || code == 0x21
    || (0x120 ≤ code && code ≤ 0x130)

/-- Events of a code that a set has seen since reset. -/
def eventTotal (s : State) (set code : Nat) : Nat :=
  match codeObject code with
  | some oid =>
    if set = 16 then sumOf (List.range 16) (s.obj oid) else s.obj oid set
  | none =>
    if 0x100 ≤ code && code ≤ 0x10B then s.obj Obj.LNK_BYTES_TX (code - 0x100)
    else if 0x110 ≤ code && code ≤ 0x11B then s.obj Obj.LNK_BYTES_RX (code - 0x110)
    else if 0x140 ≤ code && code ≤ 0x14B then s.obj Obj.LNK_PAUSED_NS (code - 0x140)
    else NMap.get 0 s.obs.tally (set * 2 ^ 16 + code)

/-- The selection of a set: sixteen codes. -/
def State.cntSelect (s : State) (set : Nat) : List Nat :=
  let v := if set = 16 then s.obj Obj.OBS_CNT_GLOBAL_SELECT 0 else s.obj Obj.OBS_CNT_SELECT set
  (List.range 16).map (fun i => bitsOf v (16 * i) 16)

/-- The counts of a set, in SELECT order: events since the last reset, or a free value. -/
def cntValues (s : State) (set : Nat) : List Nat × State :=
  (s.cntSelect set).zipIdx.foldl (fun (acc : List Nat × State) e =>
    if freeCode e.1 then
      let f := acc.2.fresh 64
      (acc.1 ++ [f.1], f.2)
    else
      (acc.1 ++ [eventTotal acc.2 set e.1 - NMap.get 0 acc.2.obs.cntBase (set * 16 + e.2)], acc.2)) ([], s)

/-- Resets the counts of a set (R438). -/
def cntReset (s : State) (set : Nat) : State :=
  let base := (s.cntSelect set).zipIdx.foldl
    (fun m e => NMap.put 0 m (set * 16 + e.2) (eventTotal s set e.1)) s.obs.cntBase
  { s with obs := { s.obs with cntBase := base, cntAt := NMap.put 0 s.obs.cntAt set s.now } }

/-- The PROFILE gate is open (R413, R432). -/
def State.profileOn (s : State) : Bool := s.gate 1

/-- Writes a record of a set (R440): REASON 1 COMMAND_END, 2 INTERVAL, 3 SELECT_CHANGE, 4 FAULT. Nothing is written while
the PROFILE gate is closed (R432). -/
def cntRecord (s : State) (set reason : Nat) (running : Bool) (cmdId : Nat) : State :=
  if !s.profileOn then s
  else
    let seq := NMap.get 0 s.obs.cntSeq set + 1
    let sel := s.cntSelect set
    let v := cntValues s set
    let s := v.2
    let head := reason + b2n running * 2 ^ 8 + (if set = 16 then 2 ^ 13 else set * 2 ^ 9)
    let bs := pack ([(head, 4), (cmdId, 4), (seq, 4), (0, 4), (s.now, 8), (NMap.get 0 s.obs.cntAt set, 8)]
      ++ sel.map (fun c => (c, 2)) ++ v.1.map (fun c => (c, 8))) ++ zeros 64
    { s with obs := { s.obs with
      cntSeq := NMap.put 0 s.obs.cntSeq set seq,
      cntBufs := NMap.put [] s.obs.cntBufs set
        (memWrite (NMap.get [] s.obs.cntBufs set) ((seq - 1) % 4096 * 256) bs) } }

/-- A pallet's set runs per command (R438). -/
def State.perCommand (s : State) (p : Nat) : Bool := s.obj Obj.OBS_CNT_INTERVAL_NS p == 0

/-- CMD_ID of a pallet: the sequence number of its running step or of the last (R435). -/
def State.cmdId (s : State) (p : Nat) : Nat := (s.pallet p).seq

/-- The record at the end of a pallet's step (R438), by its boundary or by a halt. -/
def cntStepEnd (s : State) (p reason : Nat) : State :=
  if s.perCommand p then cntRecord s p reason false (s.cmdId p) else s

end Sys2Proof.Machine
end

