-- ==== Sys2Proof/Machine/Keccak.lean ====
section
/-! DEFINITION. SHAKE128 and SHAKE256 (FIPS 202), the CRC-32C of R198's kind, and the digest as a number: 64 bytes,
little-endian. -/

namespace Sys2Proof.Machine

/-! ## Keccak-f[1600]

The tables of FIPS 202 are computed: a round constant from the shift register of its algorithm 5, a rotation from the walk of
its algorithm 2. -/

/-- The 25 lanes, lane (x, y) at place x + 5y. -/
abbrev KLanes := List (BitVec 64)

def laneAt (a : KLanes) (i : Nat) : BitVec 64 := a.getD i 0

/-- One step of the register x^8 + x^6 + x^5 + x^4 + 1. -/
def rcShift (r : Nat) : Nat := if 128 ≤ r then (2 * r) ^^^ 0x171 else 2 * r

/-- The constant of a round, whose bit 2^j − 1 is the register's lowest bit at its j-th step, and the register after it. -/
def roundConst (r : Nat) : Nat × Nat :=
  (List.range 7).foldl (fun (acc : Nat × Nat) j => (acc.1 + acc.2 % 2 * 2 ^ (2 ^ j - 1), rcShift acc.2)) (0, r)

/-- Theta: every lane takes the parities of two columns beside its own. -/
def theta (a : KLanes) : KLanes :=
  let parity := fun (x : Nat) => (List.range 5).foldl (fun v y => v ^^^ laneAt a (x % 5 + 5 * y)) 0
  let mix := (List.range 5).map (fun x => parity (x + 4) ^^^ (parity (x + 1)).rotateLeft 1)
  a.zipIdx.map (fun e => e.1 ^^^ laneAt mix (e.2 % 5))

/-- Rho and pi: the walk from lane (1, 0) moves each lane to its next place, the t-th by (t + 1)(t + 2)/2 bits. -/
def rhoPi (a : KLanes) : KLanes :=
  let step := fun (w : KLanes × Nat × BitVec 64) (t : Nat) =>
    let x := w.2.1 % 5
    let y := w.2.1 / 5
    let at' := y + 5 * ((2 * x + 3 * y) % 5)
    (w.1.set at' (w.2.2.rotateLeft ((t + 1) * (t + 2) / 2 % 64)), at', laneAt w.1 at')
  ((List.range 24).foldl step (a, 1, laneAt a 1)).1

/-- Chi: the one nonlinear step, along the rows. -/
def chi (a : KLanes) : KLanes :=
  a.zipIdx.map (fun e =>
    let side := fun (k : Nat) => laneAt a (e.2 / 5 * 5 + (e.2 + k) % 5)
    e.1 ^^^ (~~~side 1 &&& side 2))

/-- Rounds from a state of the constants' register. -/
def keccakRounds : Nat → Nat → KLanes → KLanes
  | 0, _, a => a
  | n + 1, r, a =>
    let c := roundConst r
    let b := chi (rhoPi (theta a))
    keccakRounds n c.2 (b.set 0 (laneAt b 0 ^^^ BitVec.ofNat 64 c.1))

def keccakF (a : KLanes) : KLanes := keccakRounds 24 1 a

/-- XORs a block of bytes into the lanes. -/
def absorbBlock (a : KLanes) (block : List Byte) : KLanes :=
  (List.range 25).map (fun i => laneAt a i ^^^ BitVec.ofNat 64 (ofBytes ((block.drop (8 * i)).take 8)))

/-- Absorbs `n` blocks of `rate` bytes. -/
def absorb (rate : Nat) : Nat → List Byte → KLanes → KLanes
  | 0, _, a => a
  | n + 1, bs, a => absorb rate n (bs.drop rate) (keccakF (absorbBlock a (bs.take rate)))

/-- The input padded to whole blocks: domain 0x1F, then zeros, and 0x80 in the last byte. -/
def shakePad (rate : Nat) (bs : List Byte) : List Byte :=
  let n := rate - bs.length % rate
  if n = 1 then bs ++ [0x9F] else bs ++ [0x1F] ++ zeros (n - 2) ++ [0x80]

/-- The first `rate` bytes of the lanes. -/
def laneBytes (rate : Nat) (a : KLanes) : List Byte := (a.flatMap (fun l => toBytes 8 l.toNat)).take rate

/-- Squeezes `n` blocks. -/
def squeeze (rate : Nat) : Nat → KLanes → List Byte
  | 0, _ => []
  | n + 1, a => laneBytes rate a ++ squeeze rate n (keccakF a)

def shake (rate : Nat) (bs : List Byte) (len : Nat) : List Byte :=
  let m := shakePad rate bs
  (squeeze rate (ceilDiv len rate) (absorb rate (m.length / rate) m (List.replicate 25 0))).take len

def shake128 (bs : List Byte) (len : Nat) : List Byte := shake 168 bs len
def shake256 (bs : List Byte) (len : Nat) : List Byte := shake 136 bs len

/-- SHAKE256 with a 64-byte output, as a number. -/
def digest64 (bs : List Byte) : Nat := ofBytes (shake256 bs 64)

/-! ## CRC-32C (R198) -/

/-- One bit of the reflected division by 0x1EDC6F41. -/
def crcStep (c : Nat) : Nat := if c % 2 = 1 then (c / 2) ^^^ 0x82F63B78 else c / 2

def crcByte (c : Nat) (b : Byte) : Nat := (List.range 8).foldl (fun c _ => crcStep c) (c ^^^ b.toNat)

/-- CRC-32C of a list of bytes. -/
def crc32c (bs : List Byte) : Nat := bs.foldl crcByte 0xFFFFFFFF ^^^ 0xFFFFFFFF

end Sys2Proof.Machine
end

