-- ==== Sys2Proof/Machine/Xts.lean ====
section
/-! DEFINITION. AES-256-XTS as the HBM controllers apply it to a 64-byte line (R181): the cipher of FIPS 197 with a 256-bit key, and
the tweaked mode of IEEE 1619 without ciphertext stealing. -/

namespace Sys2Proof.Machine

/-! ## The field of the cipher: bytes as polynomials modulo x^8 + x^4 + x^3 + x + 1 -/

/-- Product by x. -/
def aesX (a : Nat) : Nat := if 128 ≤ a then (2 * a) ^^^ 0x11B else 2 * a

/-- Product of two elements, by the bits of the second from the top. -/
def aesMul (a b : Nat) : Nat := (List.range 8).foldl (fun r i => aesX r ^^^ (if bitOf b (7 - i) then a else 0)) 0

/-- The inverse, 0 for 0: the 254th power, as the product of the squarings 2 to 128. -/
def aesInv (a : Nat) : Nat :=
  ((List.range 7).foldl (fun (q : Nat × Nat) _ =>
    let sq := aesMul q.1 q.1
    (sq, aesMul q.2 sq)) (a, 1)).2

/-- A byte rotated left by k bits. -/
def rotByte (a k : Nat) : Nat := (a * 2 ^ k + a / 2 ^ (8 - k)) % 256

/-- The substitution of a byte, and its inverse. -/
def aesSub (a : Nat) : Nat :=
  let v := aesInv a
  v ^^^ rotByte v 1 ^^^ rotByte v 2 ^^^ rotByte v 3 ^^^ rotByte v 4 ^^^ 0x63
def aesUnsub (a : Nat) : Nat := aesInv (rotByte a 1 ^^^ rotByte a 3 ^^^ rotByte a 6 ^^^ 5)

/-! ## The key schedule -/

/-- The bytes of two lists added. -/
def addBytes (a b : List Nat) : List Nat := (a.zip b).map (fun e => e.1 ^^^ e.2)

/-- One more round of eight key words after the last eight, `rc` its round constant: word 0 takes the last word rotated and
substituted, word 4 the one before it substituted. -/
def nextWords (rc : Nat) (w : List (List Nat)) : List (List Nat) :=
  let last := (w.getD 7 []).map aesSub
  let seed := addBytes (last.drop 1 ++ last.take 1) [rc, 0, 0, 0]
  ((List.range 8).foldl (fun (q : List Nat × List (List Nat)) i =>
    let v := addBytes (w.getD i []) (if i = 4 then q.1.map aesSub else q.1)
    (v, q.2 ++ [v])) (seed, [])).2

/-- The fifteen round keys of a 32-byte key. -/
def roundKeys (key : List Nat) : List (List Nat) :=
  let w := (List.range 8).map (fun i => (key.drop (4 * i)).take 4)
  let all := ((List.range 7).foldl (fun (q : Nat × List (List Nat) × List (List Nat)) _ =>
    let n := nextWords q.1 q.2.1
    (aesX q.1, n, q.2.2 ++ n)) (1, w, w)).2.2
  (List.range 15).map (fun i => ((all.drop (4 * i)).take 4).flatten)

/-! ## The cipher: a block is its 16 bytes, four to a column -/

/-- Row r of every column moves r columns. `back` undoes it. -/
def shiftRows (back : Bool) (b : List Nat) : List Nat :=
  (List.range 16).map (fun i =>
    let r := i % 4
    b.getD ((i / 4 + (if back then 4 - r else r)) % 4 * 4 + r) 0)

/-- Every column times a circulant matrix, given by its first row. -/
def mixColumns (m : List Nat) (b : List Nat) : List Nat :=
  (List.range 16).map (fun i =>
    (List.range 4).foldl (fun a j => a ^^^ aesMul (b.getD (i / 4 * 4 + j) 0) (m.getD ((j + 4 - i % 4) % 4) 0)) 0)

/-- Enciphers a block. -/
def aesEncrypt (ks : List (List Nat)) (b : List Nat) : List Nat :=
  let b := addBytes b (ks.getD 0 [])
  let b := (List.range 13).foldl (fun b i =>
    addBytes (mixColumns [2, 3, 1, 1] (shiftRows false (b.map aesSub))) (ks.getD (i + 1) [])) b
  addBytes (shiftRows false (b.map aesSub)) (ks.getD 14 [])

/-- Deciphers a block. -/
def aesDecrypt (ks : List (List Nat)) (b : List Nat) : List Nat :=
  let b := (shiftRows true (addBytes b (ks.getD 14 []))).map aesUnsub
  let b := (List.range 13).foldl (fun b i =>
    (shiftRows true (mixColumns [14, 11, 13, 9] (addBytes b (ks.getD (13 - i) [])))).map aesUnsub) b
  addBytes b (ks.getD 0 [])

/-! ## The mode -/

/-- A tweak times x, its first byte least significant. -/
def nextTweak (t : List Nat) : List Nat :=
  let v := t.foldr (fun a n => a + 256 * n) 0 * 2
  let v := if 2 ^ 128 ≤ v then (v - 2 ^ 128) ^^^ 0x87 else v
  (List.range 16).map (fun i => v / 256 ^ i % 256)

/-- The tweaked blocks of a line. -/
def xtsBlocks (f : List Nat → List Nat) : Nat → List Nat → List Nat → List Nat
  | 0, _, _ => []
  | n + 1, t, bs => addBytes (f (addBytes (bs.take 16) t)) t ++ xtsBlocks f n (nextTweak t) (bs.drop 16)

/-- A 64-byte line under a 512-bit key pair, the first half of it for the data and the second for the tweak: `line` is the
physical address divided by 64 (R181). The order of the halves is IEEE 1619's (PRESUMED, log entry 127). -/
def xtsLine (decipher : Bool) (pair line : Nat) (bs : List Byte) : List Byte :=
  let key := (toBytes 64 pair).map (·.toNat)
  let ks := roundKeys (key.take 32)
  let t := aesEncrypt (roundKeys (key.drop 32)) ((toBytes 16 line).map (·.toNat))
  (xtsBlocks (if decipher then aesDecrypt ks else aesEncrypt ks) 4 t (bs.map (·.toNat))).map (BitVec.ofNat 8)

end Sys2Proof.Machine
end

