-- ==== Sys2Proof/Machine/Frames.lean ====
section
/-! DEFINITION. The bytes of a Goullor frame and of a transport packet (R220, R238), and the trailer that protects a packet (R239,
R352): CRC-32C, or the tag of AES-256-GCM under the key of the flow's incarnation. -/

namespace Sys2Proof.Machine

/-! ## Frames (R220) -/

/-- One bit of the reflected division by the polynomial of IEEE 802.3. -/
def fcsStep (c : Nat) : Nat := if c % 2 = 1 then (c / 2) ^^^ 0xEDB88320 else c / 2

/-- The FCS: CRC-32 of IEEE 802.3. -/
def fcs32 (bs : List Byte) : Nat :=
  bs.foldl (fun c b => (List.range 8).foldl (fun c _ => fcsStep c) (c ^^^ b.toNat)) 0xFFFFFFFF ^^^ 0xFFFFFFFF

/-- A number as `n` bytes in network byte order. -/
def netBytes (n v : Nat) : List Byte := (toBytes n v).reverse

/-- The Goullor link group 03-4F-54-00-00-01. -/
def linkGroup : Nat := 0x034F54000001

/-- A frame that a port sends (R220): to the link group (DESIGN CHOICE, log entry 131), from the port's LNK_MAC. KIND 0 is
TRANSPORT, 1 LINK_CONTROL. Zeros fill it up to 64 bytes with its FCS. -/
def frameBytes (mac cls kind birth : Nat) (payload : List Byte) : List Byte :=
  let head := netBytes 6 linkGroup ++ netBytes 6 mac ++ netBytes 2 0x8100 ++ netBytes 2 (cls % 8 * 2 ^ 13) ++ netBytes 2 0x9A71
    ++ pack [(1 + kind * 16, 1), (0, 1), (payload.length, 2), (0, 2), (birth, 8)]
  let body := head ++ payload
  let body := body ++ zeros (60 - body.length)
  body ++ toBytes 4 (fcs32 body)

/-! ## The transport header (R238) -/

/-- The 64 bytes of a packet's header. NAKR stands above the opcode, at bit 8 of `op`. -/
def pktHeader (op : Nat) (p : Pkt) : List Byte :=
  let flags := b2n p.openF + b2n p.first * 2 + b2n p.last * 4 + b2n p.coded * 8 + b2n p.flagged * 16 + b2n p.relaxed * 32
  pack [(op % 256 + flags * 2 ^ 8 + op / 256 % 4 * 2 ^ 14 + p.epoch * 2 ^ 16, 4), (p.srcMod + p.dstMod * 2 ^ 16, 4),
    (p.flow + p.keyId * 2 ^ 16, 4), (p.psn + p.fgen * 2 ^ 24, 4), (p.flowT, 8), (p.dq, 4), (p.sq, 4), (p.addr, 8), (p.rkey, 4),
    (p.data.length + statusCode p.status * 2 ^ 24, 4), (p.tag, 4), (p.imm, 4), (p.ackPsn, 4), (p.aux, 4)]

/-! ## AES-256-GCM -/

/-- Blocks of 16 bytes, the last filled with zeros. -/
def blocks16 (bs : List Byte) : List (List Byte) :=
  (List.range (ceilDiv bs.length 16)).map (fun k =>
    let b := (bs.drop (16 * k)).take 16
    b ++ zeros (16 - b.length))

/-- A block as a number, its first byte most significant. -/
def blockNat (b : List Byte) : Nat := b.foldl (fun a x => a * 256 + x.toNat) 0

/-- Product of two blocks in the field of 2^128 elements of the mode: the first bit of a block is the coefficient of 1. -/
def gcmMul (x y : Nat) : Nat :=
  ((List.range 128).foldl (fun (q : Nat × Nat) i =>
    (if bitOf x (127 - i) then q.1 ^^^ q.2 else q.1, if q.2 % 2 = 1 then (q.2 / 2) ^^^ (0xE1 * 2 ^ 120) else q.2 / 2)) (0, y)).1

/-- A block enciphered. -/
def gcmPad (ks : List (List Nat)) (b : Nat) : List Byte :=
  (aesEncrypt ks ((netBytes 16 b).map (·.toNat))).map (BitVec.ofNat 8)

/-- The data under a 12-byte nonce, enciphered or deciphered: the counter begins at 2. -/
def gcmText (ks : List (List Nat)) (nonce data : List Byte) : List Byte :=
  let pad := (List.range (ceilDiv data.length 16)).flatMap (fun k => gcmPad ks (blockNat nonce * 2 ^ 32 + k + 2))
  (data.zip pad).map (fun e => e.1 ^^^ e.2)

/-- The tag over associated data and ciphertext, as a number whose first byte is least significant. -/
def gcmTag (ks : List (List Nat)) (nonce aad text : List Byte) : Nat :=
  let h := blockNat (gcmPad ks 0)
  let g := (blocks16 aad ++ blocks16 text).foldl (fun y b => gcmMul (y ^^^ blockNat b) h) 0
  let g := gcmMul (g ^^^ (aad.length * 8 * 2 ^ 64 + text.length * 8)) h
  ofBytes (netBytes 16 (g ^^^ blockNat (gcmPad ks (blockNat nonce * 2 ^ 32 + 1))))

/-! ## The trailer (R239, R352) -/

/-- ACK, NAK and FLUSH_ACK, which answer a packet of another module's flow. -/
def isAnswer (op : Nat) : Bool := op % 256 = 7 || op % 256 = 8 || op % 256 = 9

/-- The extended PSN: the number nearest the one expected that agrees with a PSN modulo 2^24. -/
def nearPsn (expected psn : Nat) : Nat :=
  let d := (psn + 2 ^ 24 - expected % 2 ^ 24) % 2 ^ 24
  if d < 2 ^ 23 || expected + d < 2 ^ 24 then expected + d else expected + d - 2 ^ 24

/-- The nonce of a packet: `ext` is its extended PSN. -/
def pktNonce (op : Nat) (p : Pkt) (ext : Nat) : List Byte :=
  if isAnswer op then pack [(1, 1), (p.birth, 8), (0, 3)] else pack [(0, 1), (ext, 8), (0, 3)]

/-- The key of a flow's incarnation: its owner is the sender of its packets, and the receiver of their answers. -/
def State.flowKey (s : State) (op : Nat) (p : Pkt) : List Byte :=
  shake256 (pack [((s.kslot (bitsOf p.keyId 0 10)).link, 32), (if isAnswer op then p.dstMod else p.srcMod, 2), (p.flow, 2),
    (p.flowT, 8)]) 32

/-- A packet sealed: its data as it is sent, and its trailer as a number. -/
def State.sealPkt (s : State) (op ext : Nat) (p : Pkt) : List Byte × Nat :=
  let h := pktHeader op p
  if p.keyId = 0 then (p.data, crc32c (h ++ p.data))
  else
    let ks := roundKeys ((s.flowKey op p).map (·.toNat))
    let text := gcmText ks (pktNonce op p ext) p.data
    (text, gcmTag ks (pktNonce op p ext) h text)

/-- The trailer of a packet that has arrived is right. A packet that stands with its data is sealed again, which gives the trailer
that belongs to it. -/
def State.icvOk (s : State) (op ext : Nat) (p : Pkt) : Bool := match p.icv with
  | .bytes v => v == (s.sealPkt op ext p).2
  | .checked ok => ok

/-- The frame of a transport packet. -/
def State.pktFrame (s : State) (port op ext : Nat) (p : Pkt) : List Byte :=
  let b := s.sealPkt op ext p
  frameBytes (s.obj Obj.LNK_MAC port) p.cls 0 p.birth (pktHeader op p ++ b.1 ++ toBytes 16 b.2)

end Sys2Proof.Machine
end

