-- ==== Sys2Proof/Machine/Link.lean ====
section
/-! DEFINITION. Goullor ports and the timebase (chapter 09): the port state machine, the spare lane, frames, priority flow
control and pause storms, and the three sources of time. -/

namespace Sys2Proof.Machine

/-! ## Ports -/

def State.port (s : State) (i : Nat) : Port := NMap.get Port.reset s.ports i

def State.setPort (s : State) (i : Nat) (v : Port) : State := { s with ports := NMap.put Port.reset s.ports i v }

def State.onPort (s : State) (i : Nat) (f : Port → Port) : State := s.setPort i (f (s.port i))

/-- UP or UP_SPARED (R209). -/
def Port.isUp (v : Port) : Bool := v.state == .up || v.state == .upSpared

/-- LNK_STATE code. -/
def portCode : PortState → Nat
  | .disabled => 0 | .negotiating => 1 | .training => 2 | .aligning => 3 | .up => 4 | .upSpared => 5

/-- The partner's pause of a class ends at `t`: the time held is counted and the degraded report clears (R225, R229). -/
def resumeClass (s : State) (port c t : Nat) : State :=
  let v := s.port port
  match NMap.get? v.pausedSince c with
  | none => s
  | some a =>
    let s := s.bumpBy (Obj.LNK_PAUSED_NS + c) port (min t (NMap.get 0 v.pausedTill c) - a)
    s.onPort port (fun v => { v with
      pausedSince := NMap.del v.pausedSince c, pausedTill := NMap.del v.pausedTill c,
      degraded := v.degraded.filter (fun k => k ≠ c) })

/-- A port leaves UP or UP_SPARED, or any other state, for `dst`: its lanes are trained again, its MAC is closed, and the
port is reported down where it was up (R211, R213, R219). The partner's pauses end with the MAC, and what the receive buffer
holds stays in it. -/
def portLeave (s : State) (i : Nat) (dst : PortState) : State :=
  let v := s.port i
  let s := if v.isUp then (List.range 8).foldl (fun s c => resumeClass s i c s.now) s else s
  let s := s.setPort i { Port.reset with
    state := dst, seqTx := v.seqTx, seqSeen := v.seqSeen, spareOk := false, occ := v.occ, xoff := v.xoff }
  if v.isUp then
    let s := if dst == .negotiating then s.bump Obj.LNK_DOWN_EVENTS i else s
    s.raise 0x20 [(i, 1), (portCode v.state, 1)]
  else s

/-- LNK_PORT_ENABLE written 1 (R211, R237): refused while LNK_MAC is 0. -/
def portEnable (port : Nat) (via : Via) (s : State) : State :=
  s.objWrite via (s.isPriv via) (fun s =>
    if s.obj Obj.LNK_MAC port = 0 then (s, .accessDenied, [])
    else
      let s := s.setObj Obj.LNK_PORT_ENABLE port 1
      if (s.port port).state == .disabled then (s.onPort port (fun v => { v with state := .negotiating }), .ok, [])
      else (s, .ok, []))

/-- LNK_PORT_ENABLE written 0 (R211). -/
def portDisable (port : Nat) (via : Via) (s : State) : State :=
  s.objWrite via (s.isPriv via) (fun s =>
    (portLeave (s.setObj Obj.LNK_PORT_ENABLE port 0) port .disabled, .ok, []))

/-- NEGOTIATING: the partner agrees on the PMD and its spare-lane capability is recorded (R210, R211). -/
def negotiationDone (port : Nat) (spare : Bool) (s : State) : State :=
  if (s.port port).state == .negotiating then
    s.onPort port (fun v => { v with state := .training, spareOk := spare, trainWait := false })
  else s

/-- NEGOTIATING: no agreement within 3 s (R211). -/
def negotiationTimeout (port : Nat) (s : State) : State :=
  if (s.port port).state == .negotiating then s.bump Obj.LNK_TRAIN_FAIL port else s

/-- The lanes of a direction in which training spared a physical lane: logical lanes in ascending order onto the other
eight (R211). -/
def lanesWithout : Option (Fin 9) → List Nat
  | none => List.range 8
  | some f => (List.range 9).filter (fun l => l ≠ f.val)

/-- TRAINING: every lane trained, or one lane of a direction spared while the spare is capable and trained; a spare that is not
(lane 8) is any other failure (R211). -/
def trainingDone (port : Nat) (sparedRx sparedTx : Option (Fin 9)) (s : State) : State :=
  let v := s.port port
  if v.state == .training && !v.trainWait then
    if ((sparedRx.isSome || sparedTx.isSome) && !v.spareOk) || sparedRx == some 8 || sparedTx == some 8 then
      (s.bump Obj.LNK_TRAIN_FAIL port).onPort port (fun v => { v with trainWait := true })
    else
      s.onPort port (fun v =>
        { v with state := .aligning, rxMap := lanesWithout sparedRx, txMap := lanesWithout sparedTx,
                 rxSpareUsed := sparedRx.isSome, txSpareUsed := sparedTx.isSome })
  else s

/-- TRAINING: any other failure (R211). -/
def trainingFail (port : Nat) (s : State) : State :=
  let v := s.port port
  if v.state == .training && !v.trainWait then
    (s.bump Obj.LNK_TRAIN_FAIL port).onPort port (fun v => { v with trainWait := true })
  else s

/-- The 100 ms after a training failure have passed (R211). -/
def trainingWaitExpiry (port : Nat) (s : State) : State :=
  let v := s.port port
  if v.state == .training && v.trainWait then portLeave s port .negotiating else s

/-- ALIGNING: aligned, and 1 ms of codewords with none uncorrectable (R211). -/
def alignmentDone (port : Nat) (s : State) : State :=
  let v := s.port port
  if v.state == .aligning then
    s.setPort port { v with state := if v.rxSpareUsed || v.txSpareUsed then .upSpared else .up }
  else s

/-- ALIGNING: not aligned within 50 ms (R211). -/
def alignmentTimeout (port : Nat) (s : State) : State :=
  if (s.port port).state == .aligning then portLeave (s.bump Obj.LNK_TRAIN_FAIL port) port .negotiating else s

/-- UP or UP_SPARED: loss of PCS alignment (R211). -/
def alignmentLoss (port : Nat) (s : State) : State :=
  if (s.port port).isUp then portLeave s port .negotiating else s

/-! ### The spare lane -/

/-- The physical lane that is no logical lane's and has not failed: the spare of a direction. -/
def spareOf (map : List Nat) (failed : Nat) : Nat :=
  match (List.range 9).find? (fun l => !map.contains l && l ≠ failed) with
  | some l => l
  | none => 8

/-- A spare word (R214): MSG 1 MIRROR_REQ, 2 SWITCHED. -/
def spareWord (msg llane plane reason seq : Nat) : Nat :=
  msg + llane * 2 ^ 8 + plane * 2 ^ 12 + reason * 2 ^ 16 + seq * 2 ^ 32

/-- A spare word leaves as a LINK_CONTROL frame of class 7, BIRTH the time of sending (R215, R220, R221). -/
def sendLink (s : State) (port word : Nat) : State :=
  let f := frameBytes (s.obj Obj.LNK_MAC port) 7 1 s.now (toBytes 8 word)
  ((s.bump Obj.LNK_FRAMES_TX port).bumpBy Obj.LNK_BYTES_TX port f.length).emit (.frame port f)

/-- Sends a remap message (R214, R215): on the spare channel; as a frame where the spare of that direction carries data. A class 7
that the partner pauses holds the frame (R224). -/
def sendSpare (s : State) (port msg llane plane reason : Nat) : State :=
  let v := s.port port
  let w := spareWord msg llane plane reason v.seqTx
  let s := s.onPort port (fun v => { v with seqTx := (v.seqTx + 1) % 65536 })
  if !v.txSpareUsed then s.emit (.spare port w)
  else if s.now < NMap.get 0 v.pausedTill 7 then s.onPort port (fun v => { v with heldWords := v.heldWords ++ [w] })
  else sendLink s port w

/-- The frames that waited for class 7 leave once it is not paused. -/
def sendHeldWords (s : State) (port : Nat) : State :=
  let v := s.port port
  if s.now < NMap.get 0 v.pausedTill 7 then s
  else v.heldWords.foldl (fun s w => sendLink s port w) (s.onPort port (fun v => { v with heldWords := [] }))

/-- The logical lane that a physical lane of the receive direction carries. A lane that a PREDICTIVE remap leaves still carries
its own until the switch (R217). -/
def Port.laneOf (v : Port) (lane : Nat) : Option Nat :=
  match v.rxMap.findIdx? (fun l => l == lane) with
  | some k => some k
  | none => match v.rxRemap with
    | some m => if m.plane = lane && !m.sudden then some m.llane else none
    | none => none

/-- Receiver A triggers a remap (R216, R217): physical lane `lane` of the receive direction is recorded as failed, and MIRROR_REQ
is sent. A spare already in use, or none, makes the trigger a second fault. -/
def remapTrigger (s : State) (port lane : Nat) (sudden : Bool) : State :=
  let v := s.port port
  match v.laneOf lane with
  | none => s
  | some k =>
    if !v.isUp then s
    else if v.rxSpareUsed || v.rxRemap.isSome || !v.spareOk then
      if sudden then portLeave s port .negotiating
      else (s.bump Obj.LNK_SER_EXCESS port).raise 0x21 [(port, 1), (lane, 1)]
    else
      let s := sendSpare s port 1 k lane (b2n sudden)
      s.onPort port (fun w =>
        { w with rxRemap := some { llane := k, plane := lane, sudden := sudden, seq := v.seqTx },
                 rxMap := setAt w.rxMap k 15 })

/-- The end of a 100 µs window (R216): the symbols corrected on each lane and the port's codewords are counted; a lane found
without signal or lock triggers SUDDEN first, and then a lane whose symbols exceed LNK_REMAP_SYM triggers PREDICTIVE, exactly
the threshold not; each kind takes the lower physical lane first. -/
def predictiveTrigger (port : Nat) (symbols : List Nat) (lost : List (Fin 9)) (corrCw uncorrCw : Nat) (s : State) : State :=
  let s := (s.bumpBy Obj.LNK_FEC_CORR_CW port corrCw).bumpBy Obj.LNK_FEC_UNCORR_CW port uncorrCw
  let s := (List.range 9).foldl (fun s l => s.bumpBy (Obj.LNK_LANE_SYM + l) port (symbols.getD l 0)) s
  let s := (List.finRange 9).foldl (fun s l => if lost.contains l then remapTrigger s port l true else s) s
  (List.range 9).foldl (fun s l =>
    if s.obj Obj.LNK_REMAP_SYM port < symbols.getD l 0 then remapTrigger s port l false else s) s

/-- SUDDEN: lanes lose signal or lock, the lower first (R216). -/
def suddenTrigger (port : Nat) (lanes : List (Fin 9)) (s : State) : State :=
  (List.finRange 9).foldl (fun s l => if lanes.contains l then remapTrigger s port l true else s) s

/-- A spare word with this SEQ has been acted on (R215). -/
def Port.seen (v : Port) (q : Nat) : Bool := v.seqSeen.contains q

/-- Transmitter B mirrors logical lane L on its spare; `plane` is recorded as failed (R217). -/
def mirrorReq (port llane plane : Nat) (sudden : Bool) (seq : Nat) (s : State) : State :=
  let v := s.port port
  if v.isUp && !v.seen seq && v.spareOk && !v.txSpareUsed then
    s.setPort port { v with
      txSpareUsed := true, seqSeen := seq :: v.seqSeen, txMap := setAt v.txMap llane 15,
      txRemap := some { llane := llane, plane := plane, sudden := sudden, seq := seq } }
  else s

/-- Receiver A switches the logical lane to the spare and sends SWITCHED, which names the spare (R214, R217, R218). -/
def remapSwitch (port : Nat) (s : State) : State :=
  let v := s.port port
  match v.rxRemap with
  | none => s
  | some m =>
    let lane := spareOf v.rxMap m.plane
    let s := s.setPort port { v with
      rxRemap := none, rxSpareUsed := true, state := .upSpared, rxMap := setAt v.rxMap m.llane lane }
    let s := s.bump Obj.LNK_REMAPS port
    let s := if m.sudden then s.bump Obj.LNK_REMAP_SUDDEN port else s
    sendSpare s port 2 m.llane lane (b2n m.sudden)

/-- Transmitter B stops sending data on the failed lane; `plane` is the lane that carries the logical lane now (R214, R217). -/
def switched (port llane plane seq : Nat) (s : State) : State :=
  let v := s.port port
  match v.txRemap with
  | none => s
  | some m =>
    if v.seen seq || m.llane ≠ llane then s
    else
      let s := s.setPort port { v with
        txRemap := none, state := .upSpared, seqSeen := seq :: v.seqSeen, txMap := setAt v.txMap llane plane }
      let s := s.bump Obj.LNK_REMAPS port
      if m.sudden then s.bump Obj.LNK_REMAP_SUDDEN port else s

/-! ### Priority flow control -/

/-- A class's allotment in bytes (LNK_PFC_ALLOT). -/
def State.allot (s : State) (port c : Nat) : Nat := s.objField Obj.LNK_PFC_ALLOT port (2 * c) 2 * 1024

/-- PFC is enabled for a class; never for class 7 (R226). -/
def State.pfcOn (s : State) (port c : Nat) : Bool := c < 7 && bitOf (s.obj Obj.LNK_PFC_ENABLE port) c

/-- Headroom H (R226). -/
def headroom (cable partner : Nat) : Nat := roundUp (200 * (2 * cable + 100 + partner) + 2 * 4260) 4096

/-- XOFF threshold A − H (R226). -/
def State.xoffAt (s : State) (port c : Nat) : Nat :=
  s.allot port c - headroom (s.obj Obj.LNK_CABLE_NS port) (s.obj Obj.LNK_PARTNER_NS port)

/-- XON threshold A − H − G (R226). -/
def State.xonAt (s : State) (port c : Nat) : Nat := s.xoffAt port c - s.obj Obj.LNK_XON_GAP_KIB port * 1024

/-- Sends a PFC frame for one class (R225, R226). -/
def sendPfc (s : State) (port c time : Nat) : State :=
  (s.bump Obj.LNK_PFC_TX port).emit (.pfc port (2 ^ c) ((List.range 8).map (fun k => if k = c then time else 0)))

/-- The receive buffer takes a frame of a class (R226, R228). -/
def bufferFrame (s : State) (port c bytes : Nat) : State :=
  let o := NMap.get 0 (s.port port).occ c
  if s.allot port c < o + bytes then
    (s.bump Obj.LNK_PFC_OVERRUN port).raise 0x22 [(port, 1), (c, 1)]
  else
    let s := (s.bump Obj.LNK_FRAMES_RX port).bumpBy Obj.LNK_BYTES_RX port bytes
    let s := s.onPort port (fun v => { v with occ := NMap.put 0 v.occ c (o + bytes) })
    if s.pfcOn port c && s.xoffAt port c ≤ o + bytes && !(s.port port).xoff.contains c then
      sendPfc (s.onPort port (fun v => { v with xoff := c :: v.xoff })) port c 0xFFFF
    else s

/-- Opcodes of transport packets that are reserved (R240, R272). -/
def reservedOp (op : Nat) : Bool :=
  !((0x01 ≤ op && op ≤ 0x09) || (0x10 ≤ op && op ≤ 0x13) || op = 0x18 || (0x20 ≤ op && op ≤ 0x24) || (0x28 ≤ op && op ≤ 0x2A)
    || (0x30 ≤ op && op ≤ 0x3F))

/-- A frame arrives at the MAC (R222). A transport packet with a reserved opcode is dropped and counted (R240). -/
def goullorFrame (port : Nat) (f : Frame) (s : State) : State :=
  if !(s.port port).isUp then s
  else if !f.fcsOk then s.bump Obj.LNK_FCS_ERR port
  else if f.pause8023x then s.bump Obj.LNK_PAUSE_8023X port
  else if f.daOk && f.tpid == 0x8100 && f.etype == 0x9A71 && f.gver == 1 && f.kind < 2 && 36 + f.plen ≤ f.bytes
      && f.plen ≤ 4224 then
    let fits := NMap.get 0 (s.port port).occ f.pcp + f.bytes ≤ s.allot port f.pcp
    let s := if fits && f.kind = 0 && reservedOp f.op then s.bump Obj.TRN_MALFORMED 0 else s
    bufferFrame s port f.pcp.val f.bytes
  else s.bump Obj.LNK_DROP_FORMAT port

/-- XOFF is repeated every 10 µs while the occupancy is above the XON level (R226). -/
def xoffRepeat (port c : Nat) (s : State) : State :=
  let v := s.port port
  if v.isUp && v.xoff.contains c && s.xonAt port c < NMap.get 0 v.occ c then sendPfc s port c 0xFFFF else s

/-- Bytes of a class leave the receive buffer; at the XON level the class is resumed (R226). A port that is down sends no
frame. -/
def xon (port c taken : Nat) (s : State) : State :=
  let s := s.onPort port (fun v => { v with occ := NMap.put 0 v.occ c (NMap.get 0 v.occ c - taken) })
  let v := s.port port
  if v.xoff.contains c && NMap.get 0 v.occ c ≤ s.xonAt port c then
    let s := s.onPort port (fun v => { v with xoff := v.xoff.filter (fun k => k ≠ c) })
    if v.isUp then sendPfc s port c 0 else s
  else s

/-- Applies a received pause time to a class: quanta of 0.32 ns, 0 resumes at once, a later frame replaces the time. -/
def pauseClass (s : State) (port c time : Nat) : State :=
  let t := s.now
  let s := if NMap.get 0 (s.port port).pausedTill c ≤ t || time = 0 then resumeClass s port c t else s
  if time = 0 then s
  else s.onPort port (fun v => { v with
    pausedTill := NMap.ins v.pausedTill c (t + ceilDiv (time * 32) 100),
    pausedSince := match NMap.get? v.pausedSince c with
      | some _ => v.pausedSince
      | none => NMap.ins v.pausedSince c t })

/-- A PFC frame arrives (R225). -/
def pfcFrame (port enable : Nat) (times : List Nat) (s : State) : State :=
  if !(s.port port).isUp then s
  else
    (List.range 8).foldl (fun s c => if bitOf enable c then pauseClass s port c (times.getD c 0 % 65536) else s)
      (s.bump Obj.LNK_PFC_RX port)

/-- A pause runs out (R225). -/
def pauseExpiry (port c : Nat) (s : State) : State :=
  if NMap.get 0 (s.port port).pausedTill c ≤ s.now then resumeClass s port c s.now else s

/-- The partner has held a class paused without a break for LNK_STORM_US (R229). A pause whose time has passed is held no
longer. -/
def pfcStorm (port c : Nat) (s : State) : State :=
  let v := s.port port
  match NMap.get? v.pausedSince c with
  | none => s
  | some a =>
    if s.obj Obj.LNK_STORM_US port * 1000 ≤ min s.now (NMap.get 0 v.pausedTill c) - a && !v.degraded.contains c then
      let s := (s.bump Obj.LNK_PFC_STORM port).onPort port (fun v => { v with degraded := c :: v.degraded })
      s.raise 0x23 [(port, 1), (c, 1)]
    else s

/-- Nanoseconds for which the partner has held a class of a port paused (LNK_PAUSED_NS and a pause that goes on). -/
def State.pausedNs (s : State) (port c : Nat) : Nat :=
  s.obj (Obj.LNK_PAUSED_NS + c) port + match NMap.get? (s.port port).pausedSince c with
    | some a => min s.now (NMap.get 0 (s.port port).pausedTill c) - a
    | none => 0

/-- A class of a port is held paused by the partner. -/
def State.paused (s : State) (port c : Nat) : Bool := s.now < NMap.get 0 (s.port port).pausedTill c

/-! ## The timebase -/

/-- Source numbers of TB_SOURCE_ORDER. -/
def srcNo : TbSource → Nat
  | .mgmtA => 1 | .mgmtB => 2 | .pps => 3

def State.tbSrc (s : State) (k : Nat) : TbSrc := NMap.get TbSrc.reset s.tb.sources k

def State.setTbSrc (s : State) (k : Nat) (v : TbSrc) : State :=
  { s with tb := { s.tb with sources := NMap.put TbSrc.reset s.tb.sources k v } }

/-- The first qualified source in TB_SOURCE_ORDER, 0 for none (R232). -/
def State.bestSrc (s : State) : Nat :=
  match ((List.range 3).map (fun k => s.objField Obj.TB_SOURCE_ORDER 0 k 1)).find?
      (fun k => k ≠ 0 && (s.tbSrc k).qualified) with
  | some k => k
  | none => 0

/-- TB_ERR_BOUND_NS (R235). -/
def State.tbBound (s : State) : Nat := match s.tb.state with
  | .locked => 2
  | .holdover => 2 + 50 * ceilDiv (s.now - s.tb.holdoverAt) 1000000000
  | .acquiring => 2 + ceilDiv s.tb.offsetPs.natAbs 1000
  | .freerun => 0xFFFFFFFF

/-- The correction that TIME64's rate has made since it began (R233): at most 50 ppm of the time passed, 1 ps in every
20 ns, and never past what was pending. -/
def State.slewed (s : State) : Int :=
  let most : Int := ((s.now - s.tb.slewAt) * 50 / 1000 : Nat)
  max (-most) (min most s.tb.slewPs)

/-- What is left of the correction. -/
def State.slewLeft (s : State) : Int := s.tb.slewPs - s.slewed

/-- TIME64 less a source's time, in ps: the offset last measured, brought nearer by the rate for the source selected (R233). -/
def State.offsetOf (s : State) (k : Nat) : Int :=
  (s.tbSrc k).offset + if k = s.tb.selected then s.slewed else 0

/-- TB_STATE code. -/
def tbCode : TbState → Nat
  | .freerun => 0 | .acquiring => 1 | .locked => 2 | .holdover => 3

/-- Enters HOLDOVER, holding the mean frequency. -/
def holdoverFrom (s : State) : State := { s with tb := { s.tb with state := .holdover, holdoverAt := s.now } }

/-- Selects the source anew (R232) and moves the state machine of R234 for a source gained or lost. From FREERUN in the
UNASSIGNED role TIME64 steps forward when it is behind (R233); in every other case it slews. -/
def reselect (s : State) : State :=
  let k := s.bestSrc
  let s := if k ≠ 0 && s.tb.selected ≠ 0 && k ≠ s.tb.selected then s.bump Obj.TB_SOURCE_SWITCHES 0 else s
  let s := { s with tb := { s.tb with selected := k } }
  if k = 0 then
    match s.tb.state with
    | .locked => (holdoverFrom s).bump Obj.TB_HOLDOVER_ENTRIES 0
    | .acquiring =>
      if s.boot.wasLocked then holdoverFrom s else { s with tb := { s.tb with state := .freerun } }
    | _ => s
  else
    match s.tb.state with
    | .freerun =>
      let off := s.tb.offsetPs
      let step := if s.role = 0 && off < 0 then off.natAbs / 1000 else 0
      { s with now := s.now + step,
               tb := { s.tb with state := .acquiring, inside := 0, outside := 0,
                                 offsetPs := if step = 0 then off else off + (step * 1000 : Nat),
                                 slewPs := if step = 0 then -off else 0, slewAt := s.now + step } }
    | .holdover =>
      { s with
        tb := { s.tb with state := .acquiring, inside := 0, outside := 0, slewPs := -s.tb.offsetPs, slewAt := s.now } }
    | _ => s

/-- A measurement of the offset against the selected source, in ps (R234). -/
def measured (s : State) (off : Int) : State :=
  let s := { s with tb := { s.tb with offsetPs := off, slewPs := -off, slewAt := s.now } }
  match s.tb.state with
  | .acquiring =>
    if off.natAbs ≤ 2000 then
      if 16 ≤ s.tb.inside + 1 then
        { s with tb := { s.tb with state := .locked, inside := 0, outside := 0 },
                 boot := { s.boot with wasLocked := true } }
      else { s with tb := { s.tb with inside := s.tb.inside + 1 } }
    else { s with tb := { s.tb with inside := 0 } }
  | .locked =>
    if 4000 < off.natAbs then
      if 4 ≤ s.tb.outside + 1 then
        ({ s with tb := { s.tb with state := .acquiring, inside := 0, outside := 0 } }).bump Obj.TB_LOCK_LOSSES 0
      else { s with tb := { s.tb with outside := s.tb.outside + 1 } }
    else { s with tb := { s.tb with outside := 0 } }
  | _ => s

/-- PTP time in TAI nanoseconds as TIME64 (R231). -/
def State.tai (s : State) (x : Int) : Int := x - (s.obj Obj.TB_EPOCH_TAI 0 : Nat)

/-- A PTP message of the domain TB_PTP_DOMAIN on a management port (R230): one of another domain is not for this clock. -/
def State.ptpHeard (s : State) (src : TbSource) (domain : Nat) : Bool := src != .pps && domain == s.obj Obj.TB_PTP_DOMAIN 0

/-- A Sync arrives (R230): a one-step Sync carries its origin, a two-step one waits for its Follow_Up. -/
def ptpSync (src : TbSource) (domain : Nat) (oneStep : Bool) (origin rx : Int) (s : State) : State :=
  let k := srcNo src
  let v := s.tbSrc k
  if !s.ptpHeard src domain then s
  else if oneStep then s.setTbSrc k { v with diff := some (rx - origin), sync := none }
  else s.setTbSrc k { v with sync := some rx }

/-- A Follow_Up gives the origin of the waiting Sync (R230). -/
def ptpFollowUp (src : TbSource) (domain : Nat) (origin : Int) (s : State) : State :=
  let k := srcNo src
  let v := s.tbSrc k
  match v.sync with
  | some rx => if s.ptpHeard src domain then s.setTbSrc k { v with diff := some (rx - origin), sync := none } else s
  | none => s

/-- The slave sends a Delay_Req in its domain (R230). One before it that was not answered breaks the row of answered ones (R232). -/
def ptpDelayReq (src : TbSource) (s : State) : State :=
  if src == .pps then s
  else
    let k := srcNo src
    let v := s.tbSrc k
    (s.setTbSrc k { v with reqAt := some s.now, delays := if v.reqAt.isSome then 0 else v.delays }).emit
      (.ptp 1 [(k : Int), (s.obj Obj.TB_PTP_DOMAIN 0 : Int), (s.now : Int)])

/-- The master answers a delay measurement (R232, R234): four in a row qualify the source; the offset is
(Sync difference − request difference) / 2, against PTP time less TB_EPOCH_TAI. Before the first Sync there is nothing to
measure. -/
def ptpDelayResp (src : TbSource) (domain : Nat) (rxTime : Int) (s : State) : State :=
  let k := srcNo src
  let v := s.tbSrc k
  match v.reqAt, v.diff with
  | some a, some d =>
    if !s.ptpHeard src domain then s
    else
      let off : Int := 500 * (d - s.tai 0 - (s.tai rxTime - (a : Int)))
      let q := v.qualified || 4 ≤ v.delays + 1
      let s := s.setTbSrc k { v with
        reqAt := none, delays := v.delays + 1, lastDelay := some s.now, offset := off, qualified := q }
      if s.tb.selected = k then measured s off
      else if q && s.bestSrc = k then reselect { s with tb := { s.tb with offsetPs := off } }
      else s
  | _, _ => s

/-- Lexicographic order of two lists of numbers: the first is below the second. -/
def lexBelow : List Nat → List Nat → Bool
  | a :: as, b :: bs => a < b || (a = b && lexBelow as bs)
  | _, _ => false

/-- One master is better than another by the best master clock algorithm (R232): of two grandmasters the one lower in priority1,
class, accuracy, variance, priority2 and identity, in that order; of one grandmaster heard twice the fewer steps, then the
lower sender. The comparison is that of IEEE 1588-2019 (PRESUMED, log entry 130). -/
def betterMaster (a b : PtpMaster) : Bool :=
  if a.identity = b.identity then lexBelow [a.steps, a.sender] [b.steps, b.sender]
  else lexBelow [a.priority1, a.clockClass, a.accuracy, a.variance, a.priority2, a.identity]
    [b.priority1, b.clockClass, b.accuracy, b.variance, b.priority2, b.identity]

/-- A source without its qualification: its last delay measurement still gives a PPS edge its second (R231). -/
def TbSrc.fallen (v : TbSrc) : TbSrc :=
  { TbSrc.reset with master := v.master, second := v.second, lastDelay := v.lastDelay, offset := v.offset }

/-- An Announce (R232): the master in use brings its data set up to date; a better one replaces it, and must answer four delay
measurements itself. -/
def ptpAnnounce (src : TbSource) (domain : Nat) (m : PtpMaster) (s : State) : State :=
  let k := srcNo src
  let v := s.tbSrc k
  if !s.ptpHeard src domain then s
  else match v.master with
    | some w =>
      if w.sender = m.sender then s.setTbSrc k { v with master := some m }
      else if betterMaster m w then
        let s := s.setTbSrc k { v.fallen with master := some m }
        if v.qualified then reselect s else s
      else s
    | none => s.setTbSrc k { v with master := some m }

/-- The TIME64 second number of an edge by a PTP source with a delay measurement in the last 60 s (R231): TIME64 less the
source's offset, to the nearest second. -/
def State.ptpSecond (s : State) : Option Nat :=
  ([1, 2].find? (fun k => match (s.tbSrc k).lastDelay with
    | some d => decide (s.now - d ≤ 60000000000)
    | none => false)).map (fun k => (((s.now : Int) * 1000 - s.offsetOf k + 500000000000) / 1000000000000).toNat)

/-- The second number of an edge by the count from TB_PPS_SECONDS (R231): that number, at the first edge at least 100 ms after
it was written, and one more at each later edge. -/
def State.countedSecond (s : State) : Option Nat × Option Nat := match s.tb.ppsAt with
  | some w =>
    if w + 100000000 ≤ s.now then (some (s.obj Obj.TB_PPS_SECONDS 0), none)
    else ((s.tbSrc 3).second.map (· + 1), some w)
  | none => ((s.tbSrc 3).second.map (· + 1), none)

/-- A rising edge of TB_PPS_IN (R231, R232): four consistent seconds with TB_10M and a second number qualify the source, and the
offset is TIME64 less the second that the edge marks. -/
def ppsEdge (tenM consistent : Bool) (s : State) : State :=
  let v := s.tbSrc 3
  let c := s.countedSecond
  let sec := s.ptpSecond.or c.1
  let good := if tenM && consistent then v.good + 1 else 0
  let q := 5 ≤ good && sec.isSome
  let s := { s with tb := { s.tb with ppsAt := c.2 } }
  let s := s.setTbSrc 3 { v with good := good, second := c.1, qualified := q }
  match sec with
  | some n =>
    let off : Int := 1000 * ((s.now : Int) - (n : Int) * 1000000000)
    if q && s.tb.selected = 3 then measured s off
    else if q && s.bestSrc = 3 then reselect { s with tb := { s.tb with offsetPs := off } }
    else if v.qualified && !q then reselect s
    else s
  | none => if v.qualified then reselect s else s

/-- A write of TB_PPS_SECONDS (R231): the number of a coming edge; 0 is none. -/
def writePpsSeconds (via : Via) (v : Nat) (s : State) : State :=
  s.objWrite via (s.isPriv via) (fun s =>
    let s := s.setObj Obj.TB_PPS_SECONDS 0 v
    if v = 0 then (({ s with tb := { s.tb with ppsAt := none } }).setTbSrc 3 { s.tbSrc 3 with second := none }, .ok, [])
    else ({ s with tb := { s.tb with ppsAt := some s.now } }, .ok, []))

/-- A source loses qualification (R234). -/
def sourceLoss (src : TbSource) (s : State) : State :=
  let v := s.tbSrc (srcNo src)
  reselect (s.setTbSrc (srcNo src) v.fallen)

/-- The selected source loses qualification while another stays qualified: that one is selected, by slewing (R232). -/
def sourceSwitch (src : TbSource) (s : State) : State :=
  if s.tb.selected = srcNo src then sourceLoss src s else s

/-- Ends a holdover that has lasted TB_HOLDOVER_S (R234). -/
def holdoverEnd (s : State) : State :=
  let secs := s.obj Obj.TB_HOLDOVER_S 0
  if s.tb.state == .holdover && secs * 1000000000 ≤ s.now - s.tb.holdoverAt then
    ({ s with tb := { s.tb with state := .freerun } }).raise 0x50 [((s.now - s.tb.holdoverAt) / 1000000000, 4)]
  else s

/-- A write of TB_HOLDOVER_S applies to a holdover in progress (R498). -/
def writeHoldover (via : Via) (value : Nat) (s : State) : State :=
  s.objWrite via (s.isPriv via) (fun s =>
    if inRange Obj.TB_HOLDOVER_S value then (holdoverEnd (s.setObj Obj.TB_HOLDOVER_S 0 value), .ok, [])
    else (s, .transportError, []))

/-- TB_PPS_OUT rises at each TIME64 that is a multiple of 10^9, in every timebase state (R236). -/
def ppsOut (s : State) : State :=
  if s.now % 1000000000 = 0 then s.emit (.ptp 2 [((s.now / 1000000000 : Nat) : Int)]) else s

/-! ## Meanings -/

def execPortEnable (port : PortNo) (via : Via) (s : State) : Outcome := .next (portEnable port via s)
def execPortDisable (port : PortNo) (via : Via) (s : State) : Outcome := .next (portDisable port via s)
def execNegotiationDone (port : PortNo) (spare : Bool) (s : State) : Outcome := .next (negotiationDone port spare s)
def execNegotiationTimeout (port : PortNo) (s : State) : Outcome := .next (negotiationTimeout port s)
def execTrainingDone (port : PortNo) (sparedRx sparedTx : Option (Fin 9)) (s : State) : Outcome :=
  .next (trainingDone port sparedRx sparedTx s)
def execTrainingFail (port : PortNo) (s : State) : Outcome := .next (trainingFail port s)
def execTrainingWaitExpiry (port : PortNo) (s : State) : Outcome := .next (trainingWaitExpiry port s)
def execAlignmentTimeout (port : PortNo) (s : State) : Outcome := .next (alignmentTimeout port s)
def execAlignmentLoss (port : PortNo) (t : Nat) (s : State) : Outcome := .next (alignmentLoss port (s.at t))
def execPredictiveTrigger (port : PortNo) (symbols : List Nat) (w : LaneWindow) (t : Nat) (s : State) : Outcome :=
  .next (predictiveTrigger port symbols w.lost w.corrCw w.uncorrCw (s.at t))
def execSuddenTrigger (port : PortNo) (lanes : List (Fin 9)) (t : Nat) (s : State) : Outcome :=
  .next (suddenTrigger port lanes (s.at t))
def execMirrorReq (port : PortNo) (llane : Fin 8) (plane : Fin 9) (sudden : Bool) (seq : Nat) (s : State) : Outcome :=
  .next (mirrorReq port llane plane sudden seq s)
def execRemapSwitch (port : PortNo) (s : State) : Outcome := .next (remapSwitch port s)
def execSwitched (port : PortNo) (llane : Fin 8) (plane : Fin 9) (seq : Nat) (s : State) : Outcome :=
  .next (switched port llane plane seq s)
def execGoullorFrame (port : PortNo) (f : Frame) (t : Nat) (s : State) : Outcome := .next (goullorFrame port f (s.at t))
def execXoffRepeat (port : PortNo) (cls : Fin 8) (s : State) : Outcome := .next (xoffRepeat port cls s)
def execXon (port : PortNo) (cls : Fin 8) (taken : Nat) (s : State) : Outcome := .next (xon port cls taken s)
def execPfcStorm (port : PortNo) (cls : Fin 8) (t : Nat) (s : State) : Outcome := .next (pfcStorm port cls (s.at t))
def execPtpSync (x : PtpFrom) (oneStep : Bool) (origin rx : Int) (t : Nat) (s : State) : Outcome :=
  .next (ptpSync x.src x.domain oneStep origin rx (s.at t))
def execPtpFollowUp (x : PtpFrom) (origin : Int) (t : Nat) (s : State) : Outcome :=
  .next (ptpFollowUp x.src x.domain origin (s.at t))
def execPtpDelayReq (src : TbSource) (t : Nat) (s : State) : Outcome := .next (ptpDelayReq src (s.at t))
def execPtpDelayResp (x : PtpFrom) (rxTime : Int) (t : Nat) (s : State) : Outcome :=
  .next (ptpDelayResp x.src x.domain rxTime (s.at t))
def execPtpAnnounce (src : TbSource) (domain : Nat) (master : PtpMaster) (s : State) : Outcome :=
  .next (ptpAnnounce src domain master s)
def execTbPpsInEdge (tenMPresent consistent : Bool) (t : Nat) (s : State) : Outcome :=
  .next (ppsEdge tenMPresent consistent (s.at t))
def execTbSourceLoss (src : TbSource) (t : Nat) (s : State) : Outcome := .next (sourceLoss src (s.at t))
def execTbHoldoverExpiry (t : Nat) (s : State) : Outcome := .next (holdoverEnd (s.at t))
def execTbHoldoverS (via : Via) (value t : Nat) (s : State) : Outcome := .next (writeHoldover via value (s.at t))
def execTbPpsOut (t : Nat) (s : State) : Outcome := .next (ppsOut (s.at t))
def execTbSourceSwitch (src : TbSource) (t : Nat) (s : State) : Outcome := .next (sourceSwitch src (s.at t))

end Sys2Proof.Machine
end

