-- ==== Sys2Proof/Machine/Fair.lean ====
section
/-! DEFINITION. The associative engine and what is stored in it (chapters 11 to 13): the composition map by epoch, the ORDER
table of fair queueing, CLASSIFY, and the shapers. -/

namespace Sys2Proof.Machine

/-! ## The composition map (R268 to R293) -/

/-- RMF_MODULE_NUM. -/
def State.moduleNum (s : State) : Nat := s.obj Obj.RMF_MODULE_NUM 0

/-- The current epoch, 0 before the first commit. -/
def State.curEpoch (s : State) : Nat := s.obj Obj.RMF_EPOCH 0

/-- The slot of a held epoch (R292). -/
def State.epochSlot (s : State) (e : Nat) : Option Nat :=
  (List.find? (fun h => h.number == e) s.rmf.epochs).map (·.slot)

/-- e is newer than c in serial-number order (R270). -/
def newerEpoch (e c : Nat) : Bool := 1 ≤ (e + 65536 - c) % 65536 && (e + 65536 - c) % 65536 ≤ 32767

/-- The record with a KIND and KEY in force under an epoch (R286): the entry at the lowest position. -/
def State.record? (s : State) (e kind key : Nat) : Option MapRecord := match s.epochSlot e with
  | none => none
  | some sl =>
    (List.find? (fun x => bitOf x.2.emask sl && x.2.record.kind == kind && x.2.record.key == key) s.rmf.entries).map
      (fun x => x.2.record)

/-- A send-side or receive-side search, counted at its port (R289): 0 receive, 1 send, 2 POP and PEEK, 3 classification. -/
def State.searched (s : State) (port : Nat) : State := s.bump (Obj.ASC_SEARCHES + port) 0

/-- PORTS of a module's record. -/
def State.portsOf (s : State) (e m : Nat) : Option Nat := (s.record? e 1 m).map (·.ports)

/-- RMF_DEAD of a module. -/
def State.dead (s : State) (m : Nat) : Bool := s.obj Obj.RMF_DEAD m == 1

/-- The GROUP record of a request under an epoch (R282). -/
def State.groupOf (s : State) (e rid : Nat) : Option MapRecord := match s.epochSlot e with
  | none => none
  | some sl =>
    (List.find? (fun x => bitOf x.2.emask sl && x.2.record.kind == 3 && x.2.record.rid == rid) s.rmf.entries).map
      (fun x => x.2.record)

/-! ## CLASSIFY (R286, R299) -/

/-- Blocks of a table: 0 COMPOSITION, 1 ORDER, 2 CLASSIFY (R287). -/
def State.tableBlocks (s : State) (k : Nat) : Nat := s.objField Obj.ASC_TABLE_BLOCKS 0 k 1

/-- First position of a table. -/
def State.tableBase (s : State) (k : Nat) : Nat := 1024 * sumOf (List.range k) s.tableBlocks

/-- A CLASSIFY search key (R287). -/
def classKey (ld pallet queue cls op srcMod dir : Nat) : Nat :=
  ld + pallet * 2 ^ 5 + queue * 2 ^ 9 + cls * 2 ^ 27 + op * 2 ^ 30 + srcMod * 2 ^ 38 + dir * 2 ^ 54

/-- An ASC_RULE value matches a key (R286). -/
def ruleMatches (v key : Nat) : Bool :=
  bitOf v 384 && bitsOf v 385 2 == 2 && ((bitsOf v 0 192 ^^^ key) &&& bitsOf v 192 192) == 0

/-- The result DATA of a CLASSIFY search; 0 and ASC_RULE_MISS for a miss (R299). -/
def classify (s : State) (key : Nat) : Nat × State :=
  let s := s.searched 3
  let lo := objKey Obj.ASC_RULE (s.tableBase 2)
  let hi := objKey Obj.ASC_RULE (s.tableBase 2 + 1024 * s.tableBlocks 2)
  match List.find? (fun e => lo ≤ e.1 && e.1 < hi && ruleMatches e.2 key) s.dict.vals with
  | some e => (bitsOf e.2 448 64, s)
  | none => (0, s.bump Obj.ASC_RULE_MISS 0)

/-- WEIGHT of a classification: a miss or 0 gives SCH_WEIGHT_DEFAULT (R323). -/
def State.classWeight (s : State) (data : Nat) : Nat :=
  if bitsOf data 0 16 = 0 then s.obj Obj.SCH_WEIGHT_DEFAULT 0 else bitsOf data 0 16

/-- SHAPER of a classification (R323); 0x1FFF leaves the entity unshaped. The DATA 0 of a miss names shaper 0. -/
def classShaper (data : Nat) : Nat := bitsOf data 16 13

/-! ## ORDER (R294 to R298) -/

/-- The entries of a block, packed from its first position. -/
def State.orderBlock (s : State) (k : Nat) : List OrderEntry := NMap.get [] s.asc.order k

def State.setOrderBlock (s : State) (k : Nat) (l : List OrderEntry) : State :=
  { s with asc := { s.asc with order := NMap.put [] s.asc.order k l } }

/-- Valid entries of ORDER. -/
def State.orderCount (s : State) : Nat := sumOf s.asc.order (fun e => e.2.length)

/-- The place of a new entry in a block: after every entry with a VFT at most its own. -/
def orderPlace (l : List OrderEntry) (e : OrderEntry) : List OrderEntry :=
  l.filter (fun x => x.vft ≤ e.vft) ++ [e] ++ l.filter (fun x => e.vft < x.vft)

/-- The block in which the place of a VFT lies: the last that holds an entry at or before it, or else the first in use. -/
def State.orderBlockFor (s : State) (vft : Nat) : Nat :=
  match (s.asc.order.filter (fun e => e.2.any (fun x => x.vft ≤ vft))).reverse with
  | e :: _ => e.1
  | [] => match s.asc.order with
    | e :: _ => e.1
    | [] => 0

/-- One insert (R295): within its block, or with the last entry of a full block carried into the next. None where it must
wait. -/
def orderTry (s : State) (e : OrderEntry) : Option State :=
  let b := s.orderBlockFor e.vft
  let l := orderPlace (s.orderBlock b) e
  if s.tableBlocks 1 * 1024 ≤ s.orderCount then none
  else if l.length ≤ 1024 then some ((s.setOrderBlock b l).bump Obj.ASC_UPDATES 0)
  else
    let next := s.orderBlock (b + 1)
    if b + 1 < s.tableBlocks 1 && next.length < 1024 then
      some (((s.setOrderBlock b (l.take 1024)).setOrderBlock (b + 1) (l.drop 1024 ++ next)).bump Obj.ASC_UPDATES 0)
    else none

/-- Inserts an entry, or holds it until there is room. -/
def orderAdd (s : State) (e : OrderEntry) : State :=
  match orderTry s e with
  | some s' => s'
  | none =>
    let full := s.tableBlocks 1 * 1024 ≤ s.orderCount
    let s := { s with asc := { s.asc with waiting := s.asc.waiting ++ [e] } }
    if full then s.bump Obj.ASC_ORDER_FULL 0 else s.bump Obj.ASC_ORDER_WAIT 0

/-- Tries the held inserts again, oldest first. -/
def orderRetry (s : State) : State :=
  s.asc.waiting.foldl (fun s e => match orderTry s e with
    | some s' => s'
    | none => { s with asc := { s.asc with waiting := s.asc.waiting ++ [e] } })
    { s with asc := { s.asc with waiting := [] } }

/-- The first entry of a domain that is ELIGIBLE and passes a test: block, place in it and entry. -/
def orderFind (s : State) (d : Nat) (ok : Nat → Bool) : Option (Nat × Nat × OrderEntry) :=
  s.asc.order.findSome? (fun b =>
    (b.2.findIdx? (fun x => x.domain == d && x.eligible && ok x.entity)).map
      (fun i => (b.1, i, b.2.getD i { vft := 0, domain := 0, eligible := false, entity := 0 })))

/-- An entity begins anew with F_e 0 (R323, R324): a flow incarnation, in the domains of the ports, or a ring, in those of the
pallets. -/
def freshEntity (s : State) (flow : Bool) (e : Nat) : State :=
  { s with asc := { s.asc with
    f := s.asc.f.filter (fun x => x.1 % 2 ^ 20 ≠ e || decide (16 ≤ x.1 / 2 ^ 20) != flow) } }

/-- POP (R297, R324): finds, deletes, and moves V_d and F_e to the entry's VFT. -/
def orderPop (s : State) (d : Nat) (ok : Nat → Bool) : Option OrderEntry × State :=
  let s := s.searched 2
  match orderFind s d ok with
  | none => (none, s)
  | some (b, i, e) =>
    let s := (s.setOrderBlock b ((s.orderBlock b).eraseIdx i)).bump Obj.ASC_UPDATES 0
    let a := { s.asc with
      v := NMap.put 0 s.asc.v d e.vft,
      f := NMap.put 0 s.asc.f (d * 2 ^ 20 + e.entity) e.vft }
    (some e, orderRetry { s with asc := a })

/-- An entity has an entry, or an insert that waits. -/
def State.inOrder (s : State) (d e : Nat) : Bool :=
  s.asc.order.any (fun b => b.2.any (fun x => x.domain == d && x.entity == e))
    || s.asc.waiting.any (fun x => x.domain == d && x.entity == e)

/-- Deletes every entry of an entity, an update each (R290, R296). -/
def orderDrop (s : State) (d e : Nat) : State :=
  let mine := fun (x : OrderEntry) => x.domain == d && x.entity == e
  let o := s.asc.order.foldl (fun m b => NMap.put [] m b.1 (b.2.filter (fun x => !mine x))) s.asc.order
  let n := sumOf s.asc.order (fun b => countIf b.2 mine)
  orderRetry (({ s with asc := { s.asc with
    order := o, waiting := s.asc.waiting.filter (fun x => !mine x) } }).bumpBy Obj.ASC_UPDATES 0 n)

/-- Inserts an entity's next item (R324): VFT = max(V_d, F_e) + ⌈c × 65,536 / w⌉. -/
def fairInsert (s : State) (d e cost weight : Nat) (eligible : Bool) : State :=
  let vft := max (NMap.get 0 s.asc.v d) (NMap.get 0 s.asc.f (d * 2 ^ 20 + e)) + ceilDiv (cost * 65536) (max weight 1)
  orderAdd s { vft := vft, domain := d, eligible := eligible, entity := e }

/-- MODIFY (R297): rewrites ELIGIBLE in place, an update for each entry that changes (R290). -/
def orderModify (s : State) (d e : Nat) (eligible : Bool) : State :=
  let mine := fun (x : OrderEntry) => x.domain == d && x.entity == e && x.eligible != eligible
  let o := s.asc.order.map (fun b => (b.1, mapIf b.2 mine (fun x => { x with eligible := eligible })))
  ({ s with asc := { s.asc with order := o } }).bumpBy Obj.ASC_UPDATES 0
    (sumOf s.asc.order (fun b => countIf b.2 mine))

/-! ## Shapers (R328 to R331) -/

/-- SCH_SHAPER of an index: EN, RATE, BURST. -/
def State.shaperEn (s : State) (k : Nat) : Bool := k < 4096 && bitOf (s.obj Obj.SCH_SHAPER k) 0
def State.shaperRate (s : State) (k : Nat) : Nat := s.objField Obj.SCH_SHAPER k 4 4
def State.shaperBurst (s : State) (k : Nat) : Nat := s.objField Obj.SCH_SHAPER k 8 4
def State.tokensOf (s : State) (k : Nat) : Nat := NMap.get 0 s.asc.tokens k

def State.setTokens (s : State) (k v : Nat) : State :=
  { s with asc := { s.asc with tokens := NMap.put 0 s.asc.tokens k v } }

/-- The entity bound to shaper k may send a burst of this cost (R331). -/
def State.shaperOk (s : State) (k cost : Nat) : Bool := !s.shaperEn k || cost ≤ s.tokensOf k

/-! ## Flows of a port (R325) -/

def State.flow? (s : State) (i : Nat) : Option Flow := NMap.get? s.trn.flows i

def State.setFlow (s : State) (i : Nat) (f : Flow) : State :=
  { s with trn := { s.trn with flows := NMap.ins s.trn.flows i f } }

/-- Port bytes of a packet: frame length plus 20. -/
def Held.portBytes (h : Held) : Nat := h.pkt.data.length + 136

/-- The queued packets that the flow may send now: up to TRN_WINDOW unacknowledged, its port up, no backoff, and none under
a newer epoch while one under an older is unacknowledged (R248, R276). -/
def State.sendable (s : State) (f : Flow) : List Held :=
  if !(s.port f.port).isUp || f.backoffTill.isSome || s.paused f.port f.cls then []
  else
    let e := match f.unacked, f.queued with
      | h :: _, _ => h.pkt.epoch
      | [], h :: _ => h.pkt.epoch
      | [], [] => 0
    (f.queued.take (s.obj Obj.TRN_WINDOW 0 - f.unacked.length)).takeWhile (fun h => h.pkt.epoch == e)

/-- The longest head of a list of packets within a number of port bytes. -/
def burstOf : List Held → Nat → List Held
  | [], _ => []
  | h :: hs, n => if h.portBytes ≤ n then h :: burstOf hs (n - h.portBytes) else []

/-- The head burst (R325): at least the head frame. -/
def State.headBurst (s : State) (f : Flow) : List Held := match s.sendable f with
  | [] => []
  | h :: hs => h :: burstOf hs (s.obj Obj.SCH_QUANTUM 0 - h.portBytes)

def burstCost (b : List Held) : Nat := sumOf b Held.portBytes

/-- The domain of a port (R323): 16 to 27. -/
def portDomain (port : Nat) : Nat := 16 + port

/-- The ORDER entries of the flows that pass a test are ELIGIBLE where they are unshaped or their tokens reach the cost of the
head burst (R331). -/
def refreshEligible (c : Flow → Bool) (s : State) : State :=
  (s.trn.flows.filter (fun e => c e.2)).foldl (fun s e =>
    orderModify s (portDomain e.2.port) e.1 (s.shaperOk e.2.shaper (burstCost (s.headBurst e.2)))) s

/-- The extended PSN of a packet of an own flow (R352). -/
def State.sendExt (s : State) (p : Pkt) : Nat := match s.flow? p.flow with
  | some f => nearPsn (f.wraps * 2 ^ 24 + f.nextPsn) p.psn
  | none => p.psn

/-- A transport packet leaves by a port in its frame and is counted: the frame is 116 bytes longer than its data. Where it is a
NAK, NAKR stands above the opcode, at bit 8. No packet goes to a module declared dead (R281). -/
def emitPkt (s : State) (port op : Nat) (p : Pkt) : State :=
  if s.dead p.dstMod then s
  else
    let s := traceSample s 5 port (port + p.cls % 8 * 2 ^ 5 + op % 256 * 2 ^ 8 + p.psn % 2 ^ 24 * 2 ^ 16)
    (((s.bump Obj.TRN_PKTS_TX 0).bump Obj.LNK_FRAMES_TX port).bumpBy Obj.LNK_BYTES_TX port (p.data.length + 116)).emit
      (.pkt port op p (s.pktFrame port op (s.sendExt p) p))

/-- Counts the first sending of a write packet of a relaxed queue in FGEN for its destination; after the flagged packet FGEN
rises and its counts begin again (R251, R263). What stands in AUX is PCOUNT for the flagged packet. -/
def countRelaxed (s : State) (h : Held) : Nat × State := match h.purpose with
  | .entry q _ =>
    if !h.pkt.relaxed || h.op = 0x05 || 0 < h.sent then (h.pkt.aux, s)
    else
      let v := NMap.get Queue.reset s.trn.queues q
      let c := NMap.get 0 v.counts h.pkt.dstMod + 1
      let v' := if h.pkt.flagged then { v with counts := [], pcount := 0, fgen := (v.fgen + 1) % 256 }
        else { v with counts := NMap.put 0 v.counts h.pkt.dstMod c, pcount := c }
      (if h.pkt.flagged then c else h.pkt.aux,
        { s with trn := { s.trn with queues := NMap.put Queue.reset s.trn.queues q v' } })
  | _ => (h.pkt.aux, s)

/-- T_HDR stands in the header of an attention answer when its first packet starts to leave (R91, R92). -/
def stampHdr (s : State) (h : Held) : List Byte :=
  if h.op = 0x11 && h.pkt.first && h.sent = 0 then
    h.pkt.data.take 0x20 ++ toBytes 8 s.now ++ h.pkt.data.drop 0x28
  else h.pkt.data

/-- Sends the first `n` queued packets of a flow: each takes the next PSN, BIRTH on its first sending (R221, R238). One that is
sent again is not sent past 400,000 ns of age (R241). -/
def transmit : Nat → Nat → State → State
  | 0, _, s => s
  | n + 1, i, s => match s.flow? i with
    | none => s
    | some f => match f.queued with
      | [] => s
      | h :: hs =>
        if 0 < h.sent && 400000 < s.now - h.pkt.birth then s
        else
          let c := countRelaxed s h
          let p := { h.pkt with
            data := stampHdr s h, openF := !f.acked, flow := i, flowT := f.flowT, psn := f.nextPsn, cls := f.cls, aux := c.1,
            birth := if h.sent = 0 then s.now else h.pkt.birth }
          let f' := { f with
            queued := hs, unacked := f.unacked ++ [{ h with pkt := p, sent := h.sent + 1 }],
            nextPsn := (f.nextPsn + 1) % 2 ^ 24, wraps := f.wraps + (f.nextPsn + 1) / 2 ^ 24,
            lastSent := if f.unacked.isEmpty then s.now else f.lastSent }
          transmit n i (emitPkt (c.2.setFlow i f') f.port h.op p)

/-- Gives a flow that has something to send its place in fair queueing; classes 4 to 7 send at once in strict priority
(R224, R324). -/
def kick (s : State) (i : Nat) : State := match s.flow? i with
  | none => s
  | some f =>
    let b := s.headBurst f
    if b.isEmpty then s
    else if 4 ≤ f.cls then transmit (s.sendable f).length i s
    else if s.inOrder (portDomain f.port) i then s
    else fairInsert s (portDomain f.port) i (burstCost b) f.weight (s.shaperOk f.shaper (burstCost b))

/-- One POP of a port's domain (R325, R331): a burst is sent, or the entity whose tokens are short is made ineligible and the
domain is popped again; `n` bounds the number of POPs. A send takes the burst's cost from the tokens, and the other entities of
the shaper are ELIGIBLE by what is left. A flow whose class is paused is passed over. -/
def portPop : Nat → Nat → State → State
  | 0, _, s => s
  | n + 1, port, s =>
    let d := portDomain port
    let ok := fun i => match s.flow? i with
      | some f => !s.paused port f.cls
      | none => true
    match orderFind s d ok with
    | none => s.searched 2
    | some (_, _, e) => match s.flow? e.entity with
      | none => (orderPop s d ok).2
      | some f =>
        let b := s.headBurst f
        let cost := burstCost b
        if !s.shaperOk f.shaper cost then
          portPop n port ((orderModify (s.searched 2) d e.entity false).bump Obj.SCH_SHAPER_REPOP 0)
        else
          let s := (orderPop s d ok).2
          let spent := refreshEligible (fun g => g.shaper == f.shaper) (s.setTokens f.shaper (s.tokensOf f.shaper - cost))
          kick (transmit b.length e.entity (if s.shaperEn f.shaper then spent else s)) e.entity

/-- PORT_BURST_POP (R325): the port pops its domain and sends the burst. -/
def portBurstPop (port : Nat) (s : State) : State := if (s.port port).isUp then portPop 16384 port s else s

/-- ORDER_INSERT (R295, R324) by domain, entity and cost, with the entity's own weight; domains 28 and above are reserved. -/
def orderInsert (d e cost : Nat) (s : State) : State :=
  if 28 ≤ d then s
  else
    let w := if d < 16 then s.classWeight (NMap.get 0 s.asc.ringClass e)
      else match s.flow? e with
        | some f => f.weight
        | none => s.obj Obj.SCH_WEIGHT_DEFAULT 0
    let ok := if d < 16 then true
      else match s.flow? e with
        | some f => s.shaperOk f.shaper cost
        | none => true
    fairInsert s d e (max cost 1) w ok

/-- SLACK_MOVE (R296): one entry crosses a boundary of the block towards a neighbour with more free positions, while the
block has fewer than ASC_ORDER_SLACK. -/
def slackMove (k : Nat) (s : State) : State :=
  let l := s.orderBlock k
  let up := s.orderBlock (k + 1)
  let down := s.orderBlock (k - 1)
  if s.obj Obj.ASC_ORDER_SLACK 0 ≤ 1024 - l.length || l.isEmpty || s.tableBlocks 1 ≤ k then s
  else if k + 1 < s.tableBlocks 1 && up.length + 1 < l.length then
    orderRetry (((s.setOrderBlock k l.dropLast).setOrderBlock (k + 1) (l.drop (l.length - 1) ++ up)).bump Obj.ASC_UPDATES 0)
  else if 0 < k && down.length + 1 < l.length then
    orderRetry (((s.setOrderBlock k (l.drop 1)).setOrderBlock (k - 1) (down ++ l.take 1)).bump Obj.ASC_UPDATES 0)
  else s

/-- DOMAIN_REBASE (R327) once V_d has reached 2^62: VFT, V_d and every F_e of the domain fall by 2^62. Each entry
is deleted and inserted again (R290). -/
def domainRebase (d : Nat) (s : State) : State :=
  let big := 2 ^ 62
  if NMap.get 0 s.asc.v d < big then s
  else
    let sub := fun (e : OrderEntry) => if e.domain == d then { e with vft := e.vft - big } else e
    let es := (s.asc.order.flatMap (fun b => b.2)).filter (fun e => e.domain == d)
    let rest := s.asc.order.foldl (fun m b => NMap.put [] m b.1 (b.2.filter (fun e => e.domain ≠ d))) s.asc.order
    let a := { s.asc with
      order := rest,
      v := NMap.put 0 s.asc.v d (NMap.get 0 s.asc.v d - big),
      f := s.asc.f.foldl (fun m e =>
        if e.1 / 2 ^ 20 = d then NMap.put 0 m e.1 (e.2 - big) else m) s.asc.f,
      waiting := s.asc.waiting.map sub }
    let s := ({ s with asc := a }).bumpBy Obj.ASC_UPDATES 0 es.length
    (orderRetry ((es.map sub).foldl orderAdd s)).bump Obj.SCH_REBASES 0

/-! ## Meanings -/

def execOrderInsert (domain entity cost : Nat) (s : State) : Outcome := .next (orderInsert domain entity cost s)
def execSlackMove (blk : Nat) (s : State) : Outcome := .next (slackMove blk s)
def execDomainRebase (domain : Nat) (s : State) : Outcome := .next (domainRebase domain s)
def execPortBurstPop (port : PortNo) (t : Nat) (s : State) : Outcome := .next (portBurstPop port (s.at t))

end Sys2Proof.Machine
end

