-- ==== Sys2Proof/Machine/Flow.lean ====
section
/-! DEFINITION. The transport's flows (chapter 10): sending a message, the receiver's judgement of a packet (R239, R241, R246),
and the sender's answers to ACK, NAK and its timers. What a message's end means to the operation it serves comes in as the
argument `fin`: none when an ACK covers the message, or the status that ends it. -/

namespace Sys2Proof.Machine

/-- What the end of a message does to the operation it serves. -/
abbrev Fin' := MsgFor → Option Status → State → State

/-! ## Packets -/

/-- A packet with every field zero. -/
def Pkt.zero : Pkt :=
  { openF := false, first := false, last := false, coded := false, flagged := false, relaxed := false, epoch := 0,
    srcMod := 0, dstMod := 0, flow := 0, keyId := 0, psn := 0, fgen := 0, flowT := 0, dq := 0, sq := 0, addr := 0,
    rkey := 0, status := .ok, tag := 0, imm := 0, ackPsn := 0, aux := 0, birth := 0, cls := 0, data := [], icv := .checked true }

/-- TB_ERR_BOUND_NS plus 8 ns: δ (R241). -/
def State.delta (s : State) : Nat := s.tbBound + 8

/-- The age of a packet. -/
def State.age (s : State) (p : Pkt) : Nat := s.now - p.birth

/-- Cuts a message into packets of at most 4,096 bytes, FIRST to LAST (R240). `place` is the base that offsets are added to;
the message's length stands in AUX of the first packet. -/
def cutMsg (proto : Pkt) (base : Nat) (data : List Byte) : List Pkt :=
  let n := max 1 (ceilDiv data.length 4096)
  (List.range n).map (fun k =>
    { proto with
      first := k = 0, last := k + 1 = n, addr := base + 4096 * k, data := (data.drop (4096 * k)).take 4096,
      aux := if k = 0 then (if data.isEmpty then proto.aux else data.length) else 0 })

/-! ## Sender flows (R242 to R250) -/

/-- The ports of a mask that are UP or UP_SPARED with the class not degraded (R229); else those that are up; else the mask's. -/
def State.portsFor (s : State) (ports cls : Nat) : List Nat :=
  let all := (List.range 12).filter (fun i => bitOf ports i)
  let up := all.filter (fun i => (s.port i).isUp)
  let good := up.filter (fun i => !(s.port i).degraded.contains cls)
  if !good.isEmpty then good else if !up.isEmpty then up else all

/-- The port of a lane's flow: the lowest of them for lane 0, the next ones for the lanes of relaxed writes. -/
def choosePort (s : State) (ports cls lane : Nat) : Nat :=
  let l := s.portsFor ports cls
  l.getD (lane % max l.length 1) 0

/-- A flow with nothing on the way whose port is down takes a port that is up. -/
def rehome (s : State) (i : Nat) : State := match s.flow? i with
  | none => s
  | some f =>
    if !f.unacked.isEmpty || f.backoffTill.isSome || (s.port f.port).isUp then s
    else
      let e := match f.queued with
        | h :: _ => h.pkt.epoch
        | [] => s.curEpoch
      let k := choosePort s ((s.portsOf e f.dst).getD 0) f.cls f.lane
      if k = f.port then s else (orderDrop s (portDomain f.port) i).setFlow i { f with port := k }

/-- The open flow of a destination, class and lane; lane 0 is that of every ordered packet (R242). -/
def State.flowOf (s : State) (dst cls lane : Nat) : Option Nat :=
  (List.find? (fun e => e.2.dst == dst && e.2.cls == cls && e.2.lane == lane) s.trn.flows).map (·.1)
def State.flowFor (s : State) (dst cls : Nat) : Option Nat := s.flowOf dst cls 0

/-- The lowest free of the 16,384 sender entries (R243, R244). -/
def State.freeFlow (s : State) : Option Nat := leastBelow 16384 (fun i => (NMap.get? s.trn.flows i).isNone)

/-- Opens an incarnation in a free sender entry (R244), classified by its first packet (R323). -/
def openFlow (s : State) (dst cls lane : Nat) (h : Held) : Option (Nat × State) := s.freeFlow.map (fun i =>
  let q := NMap.get Queue.reset s.trn.queues h.pkt.sq
  let r := classify s (classKey q.ld q.pallet h.pkt.sq cls h.op s.moduleNum 0)
  let s := freshEntity r.2 true i
  let f : Flow :=
    { dst := dst, cls := cls, lane := lane, flowT := s.now, opened := true, acked := false,
      port := choosePort s ((s.portsOf h.pkt.epoch dst).getD 0) cls lane, nextPsn := 0, wraps := 0, unacked := [], queued := [],
      part := [], expiries := 0, notReady := 0, backoffTill := none, lastSent := s.now, lastBusy := s.now, vft := 0,
      weight := s.classWeight r.1, shaper := classShaper r.1 }
  (i, s.setFlow i f))

/-- The packets go behind those that a flow has queued, or, where they are routed again, before every one that has not been sent
(R279). -/
def enqueue (front : Bool) (queued hs : List Held) : List Held :=
  if front then queued.takeWhile (fun h => 0 < h.sent) ++ hs ++ queued.dropWhile (fun h => 0 < h.sent) else queued ++ hs

/-- Queues a message's packets on the flow of its destination, class and lane, opening one where none is open; none where no entry
is free. -/
def queueNow (s : State) (dst cls lane : Nat) (front : Bool) (hs : List Held) : Option State := match hs with
  | [] => some s
  | h :: _ =>
    let put := fun (s : State) (i : Nat) => match s.flow? i with
      | none => s
      | some f => kick (rehome (s.setFlow i { f with queued := enqueue front f.queued hs, lastBusy := s.now }) i) i
    match s.flowOf dst cls lane with
    | some i => some (put s i)
    | none => (openFlow s dst cls lane h).map (fun x => put x.2 x.1)

/-- A message waits for the same flow. -/
def State.flowAwaited (s : State) (dst cls lane : Nat) : Bool :=
  s.trn.waiting.any (fun w => w.1 == dst && w.2.1 == cls && w.2.2.1 == lane)

def State.setWaiting (s : State) (l : List (Nat × Nat × Nat × List Held)) : State := { s with trn := { s.trn with waiting := l } }

/-- Queues a message's packets; a message waits where no entry is free, and behind an earlier one that waits for its flow (R244,
R261). -/
def queueAt (s : State) (dst cls lane : Nat) (front : Bool) (hs : List Held) : State :=
  let w := s.trn.waiting ++ [(dst, cls, lane, hs)]
  if hs.isEmpty then s
  else if s.flowAwaited dst cls lane then s.setWaiting w
  else match queueNow s dst cls lane front hs with
    | some s => s
    | none => (s.setWaiting w).bump Obj.TRN_FLOW_FULL 0

def queueOn (s : State) (dst cls : Nat) (hs : List Held) : State := queueAt s dst cls 0 false hs

/-- Sends the packets of a message to a module under an epoch. A module declared dead ends the message with TARGET_DEAD
unsent (R281); a module without a record under the epoch ends it with ACCESS_DENIED (R279). -/
def sendPkts (s : State) (fin : Fin') (purpose : MsgFor) (op cls dst epoch : Nat) (pkts : List Pkt) : State :=
  let s := s.searched 1
  if s.dead dst then (fin purpose (some .targetDead) s).bump Obj.RMF_TARGET_DEAD 0
  else if (s.portsOf epoch dst).isNone then fin purpose (some .accessDenied) s
  else
    queueOn s dst cls (pkts.map (fun p =>
      ({ op := op, pkt := { p with srcMod := s.moduleNum }, purpose := purpose, sent := 0 } : Held)))

/-- Sends a message of an operation: `proto` carries the header fields, KEYID, DQ, SQ and EPOCH among them. -/
def sendMsg (s : State) (fin : Fin') (purpose : MsgFor) (op cls : Nat) (proto : Pkt) (base : Nat) (data : List Byte) : State :=
  sendPkts s fin purpose op cls proto.dstMod proto.epoch (cutMsg proto base data)

/-- A new message tag, never 0. -/
def newTag (s : State) : Nat × State :=
  (s.trn.nextTag, { s with trn := { s.trn with nextTag := s.trn.nextTag % (2 ^ 32 - 1) + 1 } })

/-- Sends one packet again on its flow's port; it is never resent past 400,000 ns of age (R241). -/
def resendOne (s : State) (port op : Nat) (p : Pkt) : State :=
  if 400000 < s.age p || !(s.port port).isUp || s.dead p.dstMod then s
  else emitPkt (s.bump Obj.TRN_RETX 0) port op p

/-- Resends every unacknowledged packet of a flow in PSN order, its header and data as they were (R352). -/
def resendAll (s : State) (i : Nat) : State := match s.flow? i with
  | none => s
  | some f =>
    let f' := { f with lastSent := s.now, unacked := f.unacked.map (fun (h : Held) => { h with sent := h.sent + 1 }) }
    f'.unacked.foldl (fun s h => resendOne s f.port h.op h.pkt) (s.setFlow i f')

/-- Distance from a PSN to another modulo 2^24. -/
def psnDist (a b : Nat) : Nat := (b + 2 ^ 24 - a) % 2 ^ 24

/-- Changes the record of a work queue entry. -/
def onEntryOf (s : State) (m : MsgFor) (f : QEntry → QEntry) : State := match m with
  | .entry q n =>
    let v := NMap.get Queue.reset s.trn.queues q
    let v' := { v with entries := mapIf v.entries (fun e => e.n == n) f }
    { s with trn := { s.trn with queues := NMap.put Queue.reset s.trn.queues q v' } }
  | _ => s

/-- An acknowledged packet: its bytes have been transferred for its entry (R256), and the last of its message ends it. -/
def packetAcked (fin : Fin') (s : State) (h : Held) : State :=
  let s := onEntryOf s h.purpose (fun e => { e with bytes := e.bytes + h.pkt.data.length })
  if h.pkt.last then fin h.purpose none s else s

/-- Releases the packets below ACK_PSN: the messages whose last packet is among them are acknowledged. -/
def releaseBelow (s : State) (fin : Fin') (i ackPsn : Nat) : State := match s.flow? i with
  | none => s
  | some f => match f.unacked with
    | [] => s
    | h :: _ =>
      let k := psnDist h.pkt.psn ackPsn
      if k = 0 || f.unacked.length < k then s
      else
        let gone := f.unacked.take k
        let part := gone.foldl (fun acc g => if g.pkt.last then [] else acc ++ [g]) f.part
        let s := s.setFlow i { f with
          unacked := f.unacked.drop k, expiries := 0, notReady := 0, part := part, lastSent := s.now }
        gone.foldl (packetAcked fin) s

/-- The flow that an answer names: same index and incarnation, from its destination. -/
def answered (s : State) (p : Pkt) : Bool := match s.flow? p.flow with
  | some f => f.flowT == p.flowT && f.dst == p.srcMod
  | none => false

/-- Two packets are of one message. -/
def sameMsg (g h : Held) : Bool := g.purpose == h.purpose && g.pkt.tag == h.pkt.tag

/-- Removes from a flow every packet not yet sent of one message. -/
def dropUnsent (s : State) (i : Nat) (h : Held) : State := match s.flow? i with
  | none => s
  | some f => s.setFlow i { f with queued := f.queued.filter (fun g => !sameMsg g h) }

/-- On NAK STATUS EPOCH_STALE (R279): the message is sent again from its first packet under the current epoch, with the same
BIRTH, before every later one that has not been sent; or it ends with ACCESS_DENIED where its target no longer resolves, or
TARGET_DEAD where that is dead (R281). A rack command's region is resolved again, and its owner notes the new epoch (R276). -/
def reroute (s : State) (fin : Fin') (i : Nat) (h : Held) : State := match s.flow? i with
  | none => s
  | some f =>
    let mine := fun (g : Held) => sameMsg g h
    let msg := f.part.filter mine ++ [h] ++ f.unacked.filter mine ++ f.queued.filter mine
    let s := s.setFlow i { f with
      part := [], queued := f.queued.filter (fun g => !mine g),
      unacked := mapIf f.unacked mine (fun g => { g with purpose := .dropped }) }
    let s := (s.bump Obj.RMF_EPOCH_STALE_TX 0).searched 1
    let again := fun (s : State) (dst : Nat) =>
      queueAt s dst f.cls f.lane true (msg.map (fun g =>
        { g with pkt := { g.pkt with epoch := s.curEpoch, birth := h.pkt.birth, dstMod := dst }, sent := max 1 g.sent }))
    let dst := match h.purpose with
      | .rack _ _ _ | .gather _ => (s.record? s.curEpoch 2 h.pkt.rkey).map (·.home)
      | _ => some h.pkt.dstMod
    match dst with
    | none => fin h.purpose (some .accessDenied) s
    | some m =>
      if s.dead m then (fin h.purpose (some .targetDead) s).bump Obj.RMF_TARGET_DEAD 0
      else if (s.portsOf s.curEpoch m).isNone then fin h.purpose (some .accessDenied) s
      else match h.purpose with
        | .rack _ _ _ | .gather _ => again (fin h.purpose (some .epochStale) s) m
        | _ => again (onEntryOf s h.purpose (fun e => { e with epoch := s.curEpoch, bytes := 0 })) m

/-- ACK (R248). The first of an incarnation clears OPEN for what is sent after it (R238). -/
def onAck (fin : Fin') (p : Pkt) (s : State) : State :=
  if answered s p then
    let s := match s.flow? p.flow with
      | some f => s.setFlow p.flow { f with acked := true }
      | none => s
    kick (releaseBelow s fin p.flow p.ackPsn) p.flow
  else s

/-- NAK SEQ (R248): resends from ACK_PSN at once. -/
def onNakSeq (fin : Fin') (p : Pkt) (s : State) : State :=
  if answered s p then kick (resendAll (releaseBelow s fin p.flow p.ackPsn) p.flow) p.flow else s

/-- The backoff after the n-th consecutive NOT_READY (R248). -/
def State.backoff (s : State) (n : Nat) : Nat := min 64000 (s.obj Obj.TRN_NR_BACKOFF_NS 0 * 2 ^ (n - 1))

/-- NAK NOT_READY (R248). Packets that it releases do not end the row of NOT_READY answers: only an ACK does. -/
def onNakNotReady (fin : Fin') (p : Pkt) (s : State) : State :=
  if !answered s p then s
  else
    let n := match s.flow? p.flow with
      | some f => f.notReady + 1
      | none => 1
    let s := (releaseBelow s fin p.flow p.ackPsn).bump Obj.TRN_NR_RX 0
    match s.flow? p.flow with
    | none => s
    | some f => s.setFlow p.flow { f with notReady := n, backoffTill := some (s.now + s.backoff n) }

/-- The backoff has passed: resends from the first unacknowledged packet. -/
def backoffEnd (i : Nat) (s : State) : State := match s.flow? i with
  | none => s
  | some f => match f.backoffTill with
    | none => s
    | some b => if b ≤ s.now then kick (resendAll (s.setFlow i { f with backoffTill := none }) i) i else s

/-- Numbers packets anew from a PSN under a new incarnation. -/
def renumber (flowT : Nat) : Nat → List Held → List Held
  | _, [] => []
  | n, h :: hs =>
    { h with pkt := { h.pkt with flowT := flowT, psn := n, openF := true } } :: renumber flowT (n + 1) hs

/-- NAK NO_FLOW (R248): a new incarnation; every unacknowledged packet is resent in order under new PSNs from 0 with its
BIRTH. -/
def onNakNoFlow (p : Pkt) (s : State) : State :=
  if !answered s p then s
  else match s.flow? p.flow with
    | none => s
    | some f =>
      let u := renumber s.now 0 f.unacked
      resendAll (s.setFlow p.flow { f with
        flowT := s.now, acked := false, unacked := u, nextPsn := u.length, wraps := 0, expiries := 0, notReady := 0,
        backoffTill := none }) p.flow

/-- NAK STATUS (R248, R279): the packets below the refused one are acknowledged; the refused packet's message ends with the
status, or is routed again. The answers to its later packets, which are refused in turn, end nothing. -/
def onNakStatus (fin : Fin') (p : Pkt) (s : State) : State :=
  if !answered s p then s
  else
    let s := releaseBelow s fin p.flow ((p.ackPsn + 2 ^ 24 - 1) % 2 ^ 24)
    match s.flow? p.flow with
    | none => s
    | some f => match f.unacked with
      | [] => s
      | h :: hs =>
        if (h.pkt.psn + 1) % 2 ^ 24 ≠ p.ackPsn then s
        else
          let s := s.setFlow p.flow { f with
            unacked := hs, expiries := 0, notReady := 0, lastSent := s.now }
          let s :=
            if h.purpose == .dropped then s
            else if p.status == .epochStale then reroute s fin p.flow h
            else
              let s := dropUnsent s p.flow h
              let s := match s.flow? p.flow with
                | some f => s.setFlow p.flow { f with
                  part := if h.pkt.last then [] else f.part,
                  unacked := mapIf f.unacked (fun g => sameMsg g h) (fun g => { g with purpose := .dropped }) }
                | none => s
              fin h.purpose (some p.status) s
          kick s p.flow

/-- The timer of a flow (R249): nothing acknowledged for 8 µs since the oldest packet was last sent. From the
TRN_RETRY_MAX-th consecutive expiry the flow moves to another port before it resends. -/
def timerExpiry (i : Nat) (s : State) : State := match s.flow? i with
  | none => s
  | some f =>
    if f.unacked.isEmpty || s.now - f.lastSent < 8000 || f.backoffTill.isSome then s
    else
      let s := s.bump Obj.TRN_TIMER_EXP 0
      let n := f.expiries + 1
      if s.obj Obj.TRN_RETRY_MAX 0 ≤ n then
        let ports := (s.portsOf (match f.unacked with
          | h :: _ => h.pkt.epoch
          | [] => s.curEpoch) f.dst).getD 0
        match (List.range 12).find? (fun k =>
            bitOf ports k && k ≠ f.port && (s.port k).isUp && !(s.port k).degraded.contains f.cls) with
        | some k =>
          let s := orderDrop s (portDomain f.port) i
          resendAll ((s.setFlow i { f with expiries := 0, port := k }).bump Obj.TRN_PORT_MOVES 0) i
        | none => resendAll (s.setFlow i { f with expiries := n }) i
      else resendAll (s.setFlow i { f with expiries := n }) i

/-- The messages of a list of packets, each once, in order. -/
def messagesOf (hs : List Held) : List MsgFor :=
  hs.foldl (fun acc h => if acc.contains h.purpose then acc else acc ++ [h.purpose]) []

/-- Closes a flow and ends its messages. -/
def closeFlow (s : State) (fin : Fin') (i : Nat) (st : Status) : State := match s.flow? i with
  | none => s
  | some f =>
    let ms := messagesOf (f.part ++ f.unacked ++ f.queued)
    let s := orderDrop s (portDomain f.port) i
    let s := { s with trn := { s.trn with flows := NMap.del s.trn.flows i } }
    ms.foldl (fun s m => fin m (some st) s) s

/-- A packet that has been sent and can no longer be (R241). -/
def State.overAge (s : State) (h : Held) : Bool := 0 < h.sent && 400000 < s.age h.pkt

/-- A packet of the flow can no longer be resent (R250): the flow fails. The messages with an unacknowledged packet end; the others
that it had queued go on. -/
def flowFail (fin : Fin') (i : Nat) (s : State) : State := match s.flow? i with
  | none => s
  | some f =>
    if (f.unacked ++ f.queued).any s.overAge then
      let s := s.bump Obj.TRN_FLOW_FAIL 0
      let s := s.raise 0x30 [(f.dst, 2), (i, 2), (f.cls, 1)]
      let old := f.part ++ f.unacked ++ f.queued.filter (fun h => 0 < h.sent)
      let s := orderDrop s (portDomain f.port) i
      let st := if s.dead f.dst then Status.targetDead else .timeout
      let rest := f.queued.filter (fun h => !old.any (fun g => sameMsg g h))
      let s := { s with trn := { s.trn with flows := NMap.del s.trn.flows i } }
      let s := (messagesOf old).foldl (fun s m => fin m (some st) s) s
      queueAt s f.dst f.cls f.lane true rest
    else s

/-- The incarnation closes once every packet has been acknowledged and none has been queued for TRN_FLOW_IDLE_NS (R244). -/
def flowIdle (i : Nat) (s : State) : State := match s.flow? i with
  | none => s
  | some f =>
    if f.unacked.isEmpty && f.queued.isEmpty && s.obj Obj.TRN_FLOW_IDLE_NS 0 ≤ s.now - f.lastBusy then
      let s := orderDrop s (portDomain f.port) i
      { s with trn := { s.trn with flows := NMap.del s.trn.flows i } }
    else s

/-- The oldest message that waits for a sender entry takes one, if one is free, and the later ones for the same flow follow in
order (R244, R261). -/
def flowWaitEnd (s : State) : State := match s.trn.waiting with
  | [] => s
  | (dst, cls, lane, _) :: _ =>
    if (s.flowOf dst cls lane).isNone && s.freeFlow.isNone then s
    else
      let mine := fun (w : Nat × Nat × Nat × List Held) => w.1 == dst && w.2.1 == cls && w.2.2.1 == lane
      let l := s.trn.waiting
      (l.filter mine).foldl (fun s w => queueAt s dst cls lane false w.2.2.2) (s.setWaiting (l.filter (fun w => !mine w)))

/-! ## Receiver (R239 to R247, R277) -/

/-- How the target judges a packet at order 7. -/
inductive Verdict where
  | accept
  /-- Accepted, with the acknowledgement sent later (R134). -/
  | acceptHeld
  | refuse (st : Status)
  | notReady
  deriving DecidableEq, Repr

def rxKey (src flow : Nat) : Nat := src * 2 ^ 14 + flow

/-- The BIRTH of an answer: the present instant, or the least that no answer before it has carried (R352). -/
def State.ansBirth (s : State) : Nat × State :=
  let b := max s.now s.trn.ansNext
  (b, { s with trn := { s.trn with ansNext := b + 1 } })

/-- Sends an ACK, a NAK or a FLUSH_ACK on the port its packet came by, under the current epoch (R247, R276); none to a dead module
(R281). `op` 7 is ACK; for NAK (8) `r` is NAKR. -/
def sendReplyTo (s : State) (port op r : Nat) (p : Pkt) (ackPsn tag : Nat) (st : Status) : State :=
  if s.dead p.srcMod then s
  else
    let b := s.ansBirth
    let s := b.2
    emitPkt (if op = 7 then s.bump Obj.TRN_ACKS_TX 0 else s) port (op + 256 * r) { Pkt.zero with
      epoch := s.curEpoch, srcMod := s.moduleNum, dstMod := p.srcMod, flow := p.flow, keyId := p.keyId, flowT := p.flowT,
      ackPsn := ackPsn, status := st, tag := tag, sq := p.dq, dq := p.sq, birth := b.1, cls := 5 }

/-- Sends an ACK or a NAK. -/
def answer (s : State) (port op r : Nat) (p : Pkt) (ackPsn : Nat) (st : Status) : State := sendReplyTo s port op r p ackPsn 0 st

/-- Sends the same answer to each of `n` packets. -/
def answerEach (s : State) (port op r n : Nat) (p : Pkt) (ackPsn : Nat) : State :=
  (List.range n).foldl (fun s _ => answer s port op r p ackPsn .ok) s

def State.setRx (s : State) (key : Nat) (r : RxFlow) : State :=
  { s with trn := { s.trn with rx := NMap.ins s.trn.rx key r } }

/-- The extended PSN of a packet that arrives (R352): the nearest to the entry's expected one, or to 0 in a new incarnation. -/
def State.rxExt (s : State) (p : Pkt) : Nat := match NMap.get? s.trn.rx (rxKey p.srcMod p.flow) with
  | some r => nearPsn (if r.flowT = p.flowT then r.wraps * 2 ^ 24 + r.expected else 0) p.psn
  | none => p.psn

/-- Orders 1 and 2 of R246, the trailer and the age, for a message of `n` packets: none where they are dropped. -/
def admitPacket (s : State) (port op n : Nat) (p : Pkt) : Option State × State :=
  if !(s.port port).isUp then (none, s)
  else if p.dstMod ≠ s.moduleNum || s.moduleNum = 0xFFFF then (none, s.bumpBy Obj.TRN_MISROUTED 0 n)
  else if p.keyId ≠ 0 && !s.keyInstalled p.keyId then (none, s.bumpBy Obj.SEC_KEYID_DROPPED 0 n)
  else if !s.icvOk op (s.rxExt p) p then (none, s.bumpBy Obj.TRN_ICV_ERR 0 n)
  else if 500000 < s.age p + s.delta then (none, s.bumpBy Obj.TRN_AGED_DROP 0 n)
  else (some (s.bumpBy Obj.TRN_PKTS_RX 0 n), s)

/-- The epoch check of R277 on each of `n` packets; composition opcodes bypass it. The first that is ahead stops the rest. -/
def epochCheck (s : State) (op n : Nat) (p : Pkt) : Verdict × State :=
  if 0x30 ≤ op || (s.epochSlot p.epoch).isSome then (.accept, s.bumpBy (Obj.ASC_SEARCHES + 0) 0 n)
  else if s.curEpoch = 0 || newerEpoch p.epoch s.curEpoch then (.notReady, (s.searched 0).bump Obj.RMF_EPOCH_AHEAD 0)
  else (.refuse .epochStale, (s.bumpBy (Obj.ASC_SEARCHES + 0) 0 n).bumpBy Obj.RMF_EPOCH_STALE_RX 0 n)

/-- A packet that would begin new work under a retiring key (R354, item 6). An OFFER is judged where it is known as one. -/
def State.retiredWork (s : State) (op : Nat) (p : Pkt) : Bool :=
  p.keyId ≠ 0 && s.slotRetired (bitsOf p.keyId 0 10)
    && ((op ≤ 4 && p.first) || op == 5 || op == 0x10 || op == 0x13 || op == 0x20 || op == 0x22 || op == 0x23 || op == 0x28
      || op == 0x29)

/-- The entry once `n` packets have advanced it. -/
def RxFlow.advance (r : RxFlow) (n : Nat) : RxFlow :=
  { r with expected := (r.expected + n) % 2 ^ 24, wraps := r.wraps + (r.expected + n) / 2 ^ 24, nakFor := none }

/-- `n` packets are ahead of the expected PSN (order 6): they are dropped and counted, and NAK SEQ goes out once for that value. -/
def aheadOf (s : State) (port n key : Nat) (r : RxFlow) (p : Pkt) : State :=
  let s := s.bumpBy Obj.TRN_OOS_DROP 0 n
  if r.nakFor == some r.expected || n = 0 then s
  else answer (s.setRx key { r with nakFor := some r.expected }) port 8 0 p r.expected .ok

/-- Orders 5 to 7 for packets whose entry exists. `n` packets of a message arrive as one: `check` judges the target, `place` has the
message's effect. Where the first is refused, each later one is refused in turn; where it is not ready, they are ahead. -/
def judgeSeq (s : State) (port op n : Nat) (p : Pkt) (check : State → Verdict × State) (place : State → State) : State :=
  let key := rxKey p.srcMod p.flow
  match NMap.get? s.trn.rx key with
  | none => s
  | some r =>
    let d := psnDist r.expected p.psn
    if d = 0 then
      let epoch := epochCheck s op n p
      let v := match epoch with
        | (.accept, s) => if s.retiredWork op p then (Verdict.refuse .keyRetired, s) else check s
        | x => x
      let s := v.2
      let next := (r.expected + n) % 2 ^ 24
      match v.1 with
      | .accept =>
        let s := s.setRx key { r.advance n with m := max r.m p.birth }
        answer (place s) port 7 0 p (r.hold.getD next) .ok
      | .acceptHeld => place (s.setRx key { r.advance n with m := max r.m p.birth, hold := some (r.hold.getD r.expected) })
      | .refuse st =>
        (List.range n).foldl (fun s k =>
          let s := if 0 < k && epoch.1 == .accept && st ≠ .keyRetired then (check s).2 else s
          answer s port 8 3 p ((r.expected + k + 1) % 2 ^ 24) st) (s.setRx key (r.advance n))
      | .notReady => aheadOf (answer (s.bump Obj.TRN_NR_TX 0) port 8 1 p r.expected .ok) port (n - 1) key r p
    else if 2 ^ 24 - 2 ^ 23 ≤ d then
      answerEach (s.bumpBy Obj.TRN_DUP_RX 0 n) port 7 0 n p (r.hold.getD r.expected)
    else aheadOf s port n key r p

/-- The receiver's judgement of the `n` packets of a message (R246). -/
def gateN (s : State) (port op n : Nat) (p : Pkt) (check : State → Verdict × State) (place : State → State) : State :=
  match admitPacket s port op n p with
  | (none, s) => s
  | (some s, _) =>
    let s := (List.range n).foldl (fun s k => traceSample s 5 port
      (port + 2 ^ 4 + p.cls % 8 * 2 ^ 5 + op % 256 * 2 ^ 8 + (p.psn + k) % 2 ^ 24 * 2 ^ 16)) s
    let key := rxKey p.srcMod p.flow
    let fresh : RxFlow := { flowT := p.flowT, expected := 0, wraps := 0, m := 0, nakFor := none, hold := none }
    let noFlow := fun (s : State) => answerEach (s.bumpBy Obj.TRN_NO_FLOW 0 n) port 8 2 n p 0
    match NMap.get? s.trn.rx key with
    | none =>
      if !p.openF then noFlow s
      else if 32768 ≤ s.trn.rx.length then answerEach (s.bumpBy Obj.TRN_NR_TX 0 n) port 8 1 n p 0
      else judgeSeq (s.setRx key fresh) port op n p check place
    | some r =>
      if r.flowT < p.flowT then
        if p.openF then judgeSeq (s.setRx key fresh) port op n p check place else noFlow s
      else if p.flowT < r.flowT then s.bumpBy Obj.TRN_STALE_FLOW 0 n
      else judgeSeq s port op n p check place

/-- A single packet. -/
def gatePkt (s : State) (port op : Nat) (p : Pkt) (check : State → Verdict × State) (place : State → State) : State :=
  gateN s port op 1 p check place

/-- A message that arrives whole, as its packets of at most 4,096 bytes: `len` is its length. -/
def gateMsg (s : State) (port op len : Nat) (p : Pkt) (check : State → Verdict × State) (place : State → State) : State :=
  gateN s port op (max 1 (ceilDiv len 4096)) p check place

/-- An answer packet (ACK, NAK, FLUSH_ACK) passes orders 1 and 2, the trailer and the age, and then acts on its flow. -/
def gateAnswer (s : State) (port op : Nat) (p : Pkt) (act : State → State) : State :=
  match admitPacket s port op 1 p with
  | (none, s) => s
  | (some s, _) => act s

/-- A receiver frees an entry 500,000 ns + δ after M (R245). -/
def receiverExpiry (src flow : Nat) (s : State) : State :=
  let key := rxKey src flow
  match NMap.get? s.trn.rx key with
  | none => s
  | some r =>
    if r.m + 500000 + s.delta ≤ s.now then { s with trn := { s.trn with rx := NMap.del s.trn.rx key } } else s

/-! ## Ports and classes that can send again -/

/-- The flows of a port, of the classes named, send what has waited. -/
def kickFlows (s : State) (port : Nat) (cls : Nat → Bool) : State :=
  s.trn.flows.foldl (fun s e => match s.flow? e.1 with
    | some f => if f.port = port && cls f.cls then kick s e.1 else s
    | none => s) s

/-- A port that can send again serves the classes named: 7, 6, 5 and 4 in strict priority, highest first, and then 0 to 3, which
share what remains (R211, R224, R225). Class 7 carries the link-control frames. -/
def kickPort (s : State) (port : Nat) (cls : Nat → Bool) : State :=
  let s := if cls 7 then sendHeldWords s port else s
  let s := [7, 6, 5, 4].foldl (fun s c => kickFlows s port (fun k => k = c && cls c)) s
  kickFlows s port (fun k => k < 4 && cls k)

/-- ALIGNMENT_DONE: the port is reported up to the transport, whose flows send what has waited for it. -/
def portCameUp (port : Nat) (s : State) : State :=
  if (s.port port).state == .aligning then
    let s := alignmentDone port s
    kickPort (s.trn.flows.foldl (fun s e => rehome s e.1) s) port (fun _ => true)
  else s

/-- PFC_FRAME: the classes that a pause time of 0 resumes send what has waited. -/
def pfcArrives (port enable : Nat) (times : List Nat) (s : State) : State :=
  if (s.port port).isUp then
    kickPort (pfcFrame port enable times s) port (fun c => bitOf enable c && times.getD c 0 % 65536 = 0)
  else s

/-- PAUSE_EXPIRY: the class sends what has waited. -/
def pauseEnds (port c : Nat) (s : State) : State :=
  if NMap.get 0 (s.port port).pausedTill c ≤ s.now then kickPort (pauseExpiry port c s) port (fun k => k = c) else s

def execAlignmentDone (port : PortNo) (s : State) : Outcome := .next (portCameUp port s)
def execPfcFrame (port : PortNo) (enable : Nat) (times : List Nat) (t : Nat) (s : State) : Outcome :=
  .next (pfcArrives port enable times (s.at t))
def execPauseExpiry (port : PortNo) (cls : Fin 8) (t : Nat) (s : State) : Outcome := .next (pauseEnds port cls (s.at t))

/-! ## Meanings of the timers -/

def execNrBackoffExpiry (flow t : Nat) (s : State) : Outcome := .next (backoffEnd flow (s.at t))
def execTrnTimerExpiry (flow t : Nat) (s : State) : Outcome := .next (timerExpiry flow (s.at t))
def execFlowIdleExpiry (flow t : Nat) (s : State) : Outcome := .next (flowIdle flow (s.at t))
def execFlowEntryWaitEnd (t : Nat) (s : State) : Outcome := .next (flowWaitEnd (s.at t))
def execReceiverFlowExpiry (srcMod flow t : Nat) (s : State) : Outcome := .next (receiverExpiry srcMod flow (s.at t))

end Sys2Proof.Machine
end

