-- ==== Sys2Proof/Machine/HostOps.lean ====
section
/-! DEFINITION. What the device writes to a host (chapter 15): completion entries, events, result records, MSI-X messages and
ring errors; and the end of a command, wherever it came from. -/

namespace Sys2Proof.Machine

/-! ## Interrupts (R374) -/

/-- Sends the MSI-X message of a vector, or sets its pending bit while it is masked. The FM-owned LD has none (R377). -/
def sendMsix (s : State) (o vector : Nat) : State :=
  if o = 16 then s
  else if (s.ld o).unmasked.contains vector then s.emit (.msix o vector)
  else s.onLd o (fun d => if d.msixPending.contains vector then d else { d with msixPending := vector :: d.msixPending })

/-- An entry or record of a CPL or RESULT ring is written: COAL_COUNT entries, or every entry where it is 0 or 1, send a
message. -/
def signalEntry (s : State) (o r : Nat) : State :=
  let v := s.ring o r
  if v.coalCount ≤ v.unsignalled + 1 then
    sendMsix (s.setRing o r { v with unsignalled := 0, firstAt := none }) o v.vector
  else
    s.setRing o r { v with unsignalled := v.unsignalled + 1, firstAt := some (v.firstAt.getD s.now) }

/-! ## CPL rings (R371) -/

/-- Bytes of an entry on a pass of the ring. -/
def CplEntry.bytes (e : CplEntry) (phase : Bool) : List Byte :=
  pack [(e.tag, 4), (statusCode e.status, 1), (e.op, 1), (if phase then 0x8000 else 0, 2), (e.value, 8), (e.value2, 8),
    (e.tDone, 8)]

/-- The size of a ring in entries, or in bytes for a RESULT ring. -/
def Ring.size (v : Ring) : Nat := 2 ^ v.logSize

/-- Producer count less consumer count, modulo 2^32. -/
def Ring.used (v : Ring) : Nat := (v.tail + 2 ^ 32 - v.head) % 2 ^ 32

/-- A ring accepts what the device writes: it is enabled and not in ERROR. -/
def Ring.active (v : Ring) : Bool := v.state == 1

/-- Writes an entry at TAIL; PHASE is 1 on the first pass and inverts on each later one. -/
def writeCpl (s : State) (o r : Nat) (e : CplEntry) : State :=
  let v := s.ring o r
  let phase := v.tail / v.size % 2 == 0
  let s := s.winWrite o (v.base + v.tail % v.size * 32) (e.bytes phase)
  signalEntry (s.setRing o r { v with tail := (v.tail + 1) % 2 ^ 32 }) o r

/-- Posts an entry: held, in order, while the ring is full. A ring that is not active takes nothing. -/
def postCpl (s : State) (o r : Nat) (e : CplEntry) : State :=
  let v := s.ring o r
  if !(v.active && v.kind == 3) then s
  else if v.held.isEmpty && v.used < v.size then writeCpl s o r e
  else s.setRing o r { v with held := v.held ++ [e], heldSince := some (v.heldSince.getD s.now) }

/-- Writes held entries while the ring has room (R371): `n` bounds the number. -/
def releaseCpl : Nat → Nat → Nat → State → State
  | 0, _, _, s => s
  | n + 1, o, r, s =>
    let v := s.ring o r
    match v.held with
    | [] => s
    | e :: es =>
      if v.used < v.size then
        let s := if es.isEmpty then s.bumpBy Obj.HST_CPL_FULL_NS o (s.now - v.heldSince.getD s.now) else s
        releaseCpl n o r (writeCpl (s.setRing o r
          { v with held := es, heldSince := if es.isEmpty then none else v.heldSince }) o r e)
      else s

/-! ## Events of an LD (R365, R371, R400) -/

/-- Posts an event to the owning LD's EVENT_RING, or counts it lost. -/
def postEvent (s : State) (o code : Nat) (status : Status) (value value2 : Nat) : State :=
  let d := s.ld o
  let v := s.ring o d.eventRing
  if d.eventEn && v.active && v.kind == 3 then
    postCpl s o d.eventRing
      { tag := 0, status := status, op := code, value := value, value2 := value2, tDone := s.now }
  else s.bump Obj.HST_EVENTS_LOST o

/-- A ring enters ERROR (R367). -/
def ringError (s : State) (o r : Nat) (status : Status) : State :=
  let v := s.ring o r
  if v.state ≠ 1 then s
  else
    let s := s.setRing o r { v with state := 2, errStatus := statusCode status, waitSince := none }
    let s := s.bump Obj.HST_RING_ERRORS o
    let s := if o < 16 then s.onLd o (fun d => { d with status := d.status ||| 2#3 }) else s
    postEvent s o 0x82 status r 0

/-- A draining ring whose taken entries have completed is DISABLED (R367). -/
def ringDrained (s : State) (o r : Nat) : State :=
  let v := s.ring o r
  if v.draining && v.taken = 0 then
    s.setRing o r { v with state := 0, draining := false, held := [], heldRecs := [], heldSince := none, unsignalled := 0,
                           firstAt := none, waitSince := none }
  else s

/-! ## The end of a VDP session (R395) -/

/-- A session ends: its pieces go, and its subscriptions end (R401). -/
def closeSession (s : State) (k : Nat) : State :=
  let s := { s with vdp := { s.vdp with
    sessions := NMap.del s.vdp.sessions k, pieces := NMap.del s.vdp.pieces (k + 32) } }
  (List.range 64).foldl (fun s i =>
    let v := s.obj Obj.OBS_SUB i
    if bitOf v 0 && bitsOf v 32 32 == k then s.setObj Obj.OBS_SUB i (setBit v 0 false) else s) s

/-- The device closes a session: CLOSE goes out on its port. -/
def sendClose (s : State) (k : Nat) : State := match NMap.get? s.vdp.sessions k with
  | none => s
  | some v => closeSession (s.emit (.vdp v.port k 0x13 0 [])) k

/-! ## The end of a command -/

/-- A COMPLETION (R400): a NOTIFY to the session that wrote the command, or event 0x85 of the LD's EVENT_RING. -/
def completeObject (s : State) (via : Via) (oid inst : Nat) (st : Status) (value : Nat) : State :=
  match via with
  | .vdp k => s.notifyOne k
      (pack [(1, 1), (0, 3), (oid / 256, 2), (oid % 256, 1), (0, 1), (inst, 4), (statusCode st, 1), (0, 7), (value, 8)])
  | .unauth => s
  | .mailbox o => postEvent s o 0x85 st (oid / 256 + oid % 256 * 2 ^ 16 + inst * 2 ^ 32) value

/-- A taken entry of a CMD or STEP ring has ended. -/
def entryEnded (s : State) (o r : Nat) : State :=
  ringDrained (s.onRing o r (fun v => { v with taken := v.taken - 1 })) o r

/-- Completes a command with its opcode, status and VALUE. -/
def complete (s : State) (src : Source) (op : Nat) (st : Status) (value : Nat) : State :=
  match src with
  | .ring o r tag =>
    let s := postCpl s o (s.ring o r).target
      { tag := tag, status := st, op := op, value := value, value2 := 0, tDone := s.now }
    entryEnded s o r
  | .object via oid inst => completeObject s via oid inst st value
  | .device => s

/-! ## Taking entries (R369, R370) -/

/-- The body lengths of the commands of fixed length (R370); none for ADMIT and REQ_UPDATE, whose layouts give it. -/
def cmdLength : Nat → Option (Option Nat)
  | 0x01 => some none
  | 0x02 => some none
  | 0x03 => some (some 8)
  | 0x04 => some (some 4)
  | 0x05 => some (some 8)
  | 0x06 => some (some 16)
  | 0x07 => some (some 32)
  | 0x08 => some (some 24)
  | 0x09 => some (some 4)
  | _ => none

/-- Address of an entry of a CMD or STEP ring. -/
def Ring.entryAddr (v : Ring) (c : Nat) : Nat := v.base + c % v.size * 64

/-- OP of a placement command is one of the three (R171). -/
def placeOpOk (op : Nat) : Bool := 1 ≤ op && op ≤ 3

/-- A visible entry at HEAD whose opcode the ring does not take, whose body length is wrong (R370), or whose placement command has a
reserved OP (R9, R171), completes with TRANSPORT_ERROR: `n` bounds the number. -/
def skipBad : Nat → Nat → Nat → State → State
  | 0, _, _, s => s
  | n + 1, o, r, s =>
    let v := s.ring o r
    if v.active && v.kind == 1 && v.head ≠ v.visible && !v.draining then
      let a := v.entryAddr v.head
      let op := s.winNat o a 1
      let len := s.winNat o (a + 8) 4
      let inline := bitOf (s.winNat o (a + 1) 1) 0
      let bad := match cmdLength op with
        | none => true
        | some none => inline && 48 < len
        | some (some l) => len ≠ l || (op = 7 && !placeOpOk (s.winNat o (if inline then a + 16 else s.winNat o (a + 16) 8) 1))
      if bad then
        let s := s.setRing o r { v with head := (v.head + 1) % 2 ^ 32, taken := v.taken + 1 }
        skipBad n o r (complete s (.ring o r (s.winNat o (a + 4) 4)) op .transportError 0)
      else s
    else s

/-- The device takes the next visible entry of a CMD ring: HEAD advances. None where the ring has none. -/
def takeEntry (s : State) (o r : Nat) : Option State :=
  let v := s.ring o r
  if v.active && v.kind == 1 && v.head ≠ v.visible && !v.draining then
    some (s.setRing o r { v with head := (v.head + 1) % 2 ^ 32, taken := v.taken + 1 })
  else none

/-- Runs a command of a CMD ring on the state that has taken its entry, then passes over entries that no command reads. -/
def onEntry (s : State) (o r : Nat) (body : State → State) : State := match takeEntry s o r with
  | none => s
  | some s' => skipBad 65536 o r (body s')

/-! ## RESULT rings (R373) -/

/-- The 64-byte header of a record or of a PAD (R126). -/
def recordHeader (batch nentry refused length tStart tEnd : Nat) : List Byte :=
  padTo 64 (pack [(batch, 4), (nentry + refused * 2 ^ 16, 4), (length, 4), (0, 4), (tStart, 8), (tEnd, 8)])

/-- A record fits in the free space of its ring, with the PAD it needs before it. -/
def recordFits (v : Ring) (len : Nat) : Bool :=
  let off := v.tail % v.size
  let pad := if v.size < off + len then v.size - off else 0
  v.used + pad + len ≤ v.size

/-- Advances TAIL by bytes: the pass number rises each time the ring's end is reached. -/
def advanceTail (v : Ring) (n : Nat) : Ring :=
  { v with tail := (v.tail + n) % 2 ^ 32, pass := v.pass + (v.tail % v.size + n) / v.size }

/-- Writes a record, a PAD before it where it would run past the end, and the status line after it. -/
def writeRecord (s : State) (o r : Nat) (rec : List Byte) : State :=
  let len := roundUp rec.length 64
  let v := s.ring o r
  let off := v.tail % v.size
  let left := v.size - off
  let s := if v.size < off + len then
      (s.winWrite o (v.base + off) (recordHeader 0 0 0 left 0 0)).setRing o r (advanceTail v left)
    else s
  let v := s.ring o r
  let s := s.winWrite o (v.base + v.tail % v.size) (padTo len rec)
  let v := advanceTail v len
  let s := s.winWrite o (v.base + v.size) (pack [(v.tail, 4), (v.pass, 4)])
  signalEntry (s.setRing o r v) o r

/-- Posts a record: it is held while it does not fit. A ring that is not active takes nothing. -/
def postRecord (s : State) (o r p : Nat) (rec : List Byte) : State :=
  let v := s.ring o r
  if !(v.active && v.kind == 4) then s
  else if v.heldRecs.isEmpty && recordFits v (roundUp rec.length 64) then writeRecord s o r rec
  else s.setRing o r { v with heldRecs := v.heldRecs ++ [(p, rec)], heldSince := some (v.heldSince.getD s.now) }

/-- Writes held records while they fit: `n` bounds the number. -/
def releaseRecords : Nat → Nat → Nat → State → State
  | 0, _, _, s => s
  | n + 1, o, r, s =>
    let v := s.ring o r
    match v.heldRecs with
    | [] => s
    | e :: es =>
      if recordFits v (roundUp e.2.length 64) then
        let s := if es.isEmpty then s.bumpBy Obj.HST_RESULT_FULL_NS o (s.now - v.heldSince.getD s.now) else s
        releaseRecords n o r (writeRecord (s.setRing o r
          { v with heldRecs := es, heldSince := if es.isEmpty then none else v.heldSince }) o r e.2)
      else s

end Sys2Proof.Machine
end

