-- ==== Sys2Proof/Machine/Float.lean ====
section
/-! DEFINITION. Floating-point arithmetic on bit patterns: decode to an exact value, compute exactly, round once (R21, R54, R61
to R64, R119, R488). A pattern is a number below 2^(1 + exponent bits + fraction bits); an exact value is sign, mantissa
and a power of two. -/

namespace Sys2Proof.Machine

/-- A binary format: exponent bits and fraction bits. -/
structure FFmt where
  eb : Nat
  mb : Nat
  deriving DecidableEq, Repr

def fp32 : FFmt := ⟨8, 23⟩
def fp16 : FFmt := ⟨5, 10⟩
def bf16 : FFmt := ⟨8, 7⟩

def FFmt.bias (f : FFmt) : Nat := 2 ^ (f.eb - 1) - 1
/-- The canonical quiet NaN (R54). -/
def FFmt.nan (f : FFmt) : Nat := (2 ^ f.eb - 1) * 2 ^ f.mb + 2 ^ (f.mb - 1)
def FFmt.inf (f : FFmt) (neg : Bool) : Nat := (if neg then 2 ^ (f.eb + f.mb) else 0) + (2 ^ f.eb - 1) * 2 ^ f.mb
def FFmt.maxFin (f : FFmt) (neg : Bool) : Nat := f.inf neg - 1
def FFmt.zero (f : FFmt) (neg : Bool) : Nat := if neg then 2 ^ (f.eb + f.mb) else 0

/-- A decoded value: m × 2^e where finite. -/
inductive FVal where
  | nan (signalling : Bool)
  | inf (neg : Bool)
  | fin (neg : Bool) (m : Nat) (e : Int)
  deriving DecidableEq, Repr

/-- Decodes a pattern. -/
def fdec (f : FFmt) (b : Nat) : FVal :=
  let neg := b / 2 ^ (f.eb + f.mb) % 2 == 1
  let ex := b / 2 ^ f.mb % 2 ^ f.eb
  let fr := b % 2 ^ f.mb
  if ex = 2 ^ f.eb - 1 then
    if fr = 0 then .inf neg else .nan (fr < 2 ^ (f.mb - 1))
  else if ex = 0 then .fin neg fr (1 - (f.bias : Int) - f.mb)
  else .fin neg (2 ^ f.mb + fr) ((ex : Int) - f.bias - f.mb)

/-- Rounding modes by their RISC-V codes: 0 RNE, 1 RTZ, 2 RDN, 3 RUP, 4 RMM. Whether a remainder r of d rounds away. -/
def roundsAway (rm : Nat) (neg odd : Bool) (r d : Nat) : Bool :=
  match rm with
  | 0 => d < 2 * r || (2 * r == d && odd)
  | 1 => false
  | 2 => neg && r ≠ 0
  | 3 => !neg && r ≠ 0
  | _ => d ≤ 2 * r

/-- Quotient, remainder and divisor of n × 2^k / d. -/
def scaleDiv (n d : Nat) (k : Int) : Nat × Nat × Nat :=
  let num := n * 2 ^ k.toNat
  let den := d * 2 ^ (-k).toNat
  (num / den, num % den, den)

/-- ⌊log2 (n / d)⌋ for n, d above 0. -/
def ilogQ (n d : Nat) : Int :=
  let l : Int := (Nat.log2 n : Int) - Nat.log2 d
  if n * 2 ^ (-l).toNat < d * 2 ^ l.toNat then l - 1 else l

/-- Flags: NV 16, DZ 8, OF 4, UF 2, NX 1. -/
abbrev FRes := Nat × Nat

/-- n / d × 2^e rounded to a significand of `q`'s quantum: the rounded integer and whether it is inexact. -/
def roundAt (rm : Nat) (neg : Bool) (n d : Nat) (k : Int) : Nat × Bool :=
  let x := scaleDiv n d k
  let q := x.1
  (q + (if roundsAway rm neg (q % 2 == 1) x.2.1 x.2.2 then 1 else 0), x.2.1 ≠ 0)

/-- Rounds n / d × 2^e, n above 0, to a format: pattern and flags. Tininess is judged after rounding. -/
def froundQ (f : FFmt) (rm : Nat) (neg : Bool) (n d : Nat) (e : Int) : FRes :=
  let l := ilogQ n d + e
  let emin : Int := 1 - (f.bias : Int)
  let q := max (l - f.mb) (emin - f.mb)
  let r := roundAt rm neg n d (e - q)
  let carry := r.1 = 2 ^ (f.mb + 1)
  let sig := if carry then 2 ^ f.mb else r.1
  let q := if carry then q + 1 else q
  let tiny := l < emin && !(l = emin - 1 && (roundAt rm neg n d (e - (l - f.mb))).1 = 2 ^ (f.mb + 1))
  let ex := if sig < 2 ^ f.mb then 0 else (q + f.mb + f.bias).toNat
  if 2 ^ f.eb - 1 ≤ ex then
    let away := rm = 0 || rm = 4 || (rm = 2 && neg) || (rm = 3 && !neg)
    (if away then f.inf neg else f.maxFin neg, 5)
  else
    (f.zero neg + ex * 2 ^ f.mb + sig % 2 ^ f.mb, if r.2 then (if tiny then 3 else 1) else 0)

/-- Rounds a signed exact value v × 2^e; `zneg` is the sign of an exact zero. -/
def froundZ (f : FFmt) (rm : Nat) (v : Int) (e : Int) (zneg : Bool) : FRes :=
  if v = 0 then (f.zero zneg, 0) else froundQ f rm (v < 0) v.natAbs 1 e

/-- Signed mantissa of a finite value. -/
def signedM (neg : Bool) (m : Nat) : Int := if neg then -(m : Int) else m

/-- Sum of two exact values v1 × 2^e1 + v2 × 2^e2. -/
def addExact (v1 e1 v2 e2 : Int) : Int × Int :=
  let e := min e1 e2
  (v1 * 2 ^ (e1 - e).toNat + v2 * 2 ^ (e2 - e).toNat, e)

def isSnan : FVal → Bool
  | .nan s => s
  | _ => false

def isNan : FVal → Bool
  | .nan _ => true
  | _ => false

/-- The NaN result of an operation on its operands: NV where one of them is signalling. -/
def nanRes (f : FFmt) (xs : List FVal) : FRes := (f.nan, if xs.any isSnan then 16 else 0)

/-- a + b. -/
def fadd (f : FFmt) (rm a b : Nat) : FRes :=
  match fdec f a, fdec f b with
  | .nan s, y => nanRes f [.nan s, y]
  | x, .nan s => nanRes f [x, .nan s]
  | .inf n, .inf m => if n = m then (f.inf n, 0) else (f.nan, 16)
  | .inf n, .fin _ _ _ => (f.inf n, 0)
  | .fin _ _ _, .inf n => (f.inf n, 0)
  | .fin n1 m1 e1, .fin n2 m2 e2 =>
    let x := addExact (signedM n1 m1) e1 (signedM n2 m2) e2
    froundZ f rm x.1 x.2 (if n1 = n2 then n1 else rm = 2)

/-- The pattern with its sign inverted. -/
def fneg (f : FFmt) (b : Nat) : Nat := if b / 2 ^ (f.eb + f.mb) % 2 = 1 then b - 2 ^ (f.eb + f.mb) else b + 2 ^ (f.eb + f.mb)

/-- a − b. -/
def fsub (f : FFmt) (rm a b : Nat) : FRes :=
  if isNan (fdec f b) then fadd f rm a b else fadd f rm a (fneg f b)

/-- a × b. -/
def fmul (f : FFmt) (rm a b : Nat) : FRes :=
  match fdec f a, fdec f b with
  | .nan s, y => nanRes f [.nan s, y]
  | x, .nan s => nanRes f [x, .nan s]
  | .inf n, .inf m => (f.inf (n != m), 0)
  | .inf n, .fin n2 m2 _ => if m2 = 0 then (f.nan, 16) else (f.inf (n != n2), 0)
  | .fin n1 m1 _, .inf n => if m1 = 0 then (f.nan, 16) else (f.inf (n1 != n), 0)
  | .fin n1 m1 e1, .fin n2 m2 e2 => froundZ f rm (signedM (n1 != n2) (m1 * m2)) (e1 + e2) (n1 != n2)

/-- a × b + c, rounded once. -/
def ffma (f : FFmt) (rm a b c : Nat) : FRes :=
  let x := fdec f a
  let y := fdec f b
  let z := fdec f c
  let prod : Option FVal := match x, y with
    | .nan _, _ => none
    | _, .nan _ => none
    | .inf n, .inf m => some (.inf (n != m))
    | .inf n, .fin n2 m2 _ => if m2 = 0 then none else some (.inf (n != n2))
    | .fin n1 m1 _, .inf n => if m1 = 0 then none else some (.inf (n1 != n))
    | .fin n1 m1 e1, .fin n2 m2 e2 => some (.fin (n1 != n2) (m1 * m2) (e1 + e2))
  match prod, z with
  | none, _ =>
    if isNan x || isNan y then nanRes f [x, y, z] else (f.nan, 16)
  | some _, .nan s => nanRes f [x, y, .nan s]
  | some (.nan s), _ => nanRes f [.nan s]
  | some (.inf n), .inf m => if n = m then (f.inf n, 0) else (f.nan, 16)
  | some (.inf n), .fin _ _ _ => (f.inf n, 0)
  | some (.fin _ _ _), .inf n => (f.inf n, 0)
  | some (.fin n1 m1 e1), .fin n2 m2 e2 =>
    let s := addExact (signedM n1 m1) e1 (signedM n2 m2) e2
    froundZ f rm s.1 s.2 (if n1 = n2 then n1 else rm = 2)

/-- a / b. -/
def fdiv (f : FFmt) (rm a b : Nat) : FRes :=
  match fdec f a, fdec f b with
  | .nan s, y => nanRes f [.nan s, y]
  | x, .nan s => nanRes f [x, .nan s]
  | .inf _, .inf _ => (f.nan, 16)
  | .inf n, .fin n2 _ _ => (f.inf (n != n2), 0)
  | .fin n1 _ _, .inf n => (f.zero (n1 != n), 0)
  | .fin n1 m1 e1, .fin n2 m2 e2 =>
    if m2 = 0 then (if m1 = 0 then (f.nan, 16) else (f.inf (n1 != n2), 8))
    else if m1 = 0 then (f.zero (n1 != n2), 0)
    else froundQ f rm (n1 != n2) m1 m2 (e1 - e2)

/-- Integer square root, bit by bit from 2^k. -/
def isqrtGo : Nat → Nat → Nat → Nat
  | 0, _, a => a
  | k + 1, n, a => if (a + 2 ^ k) * (a + 2 ^ k) ≤ n then isqrtGo k n (a + 2 ^ k) else isqrtGo k n a

/-- ⌊√n⌋. -/
def isqrt (n : Nat) : Nat := isqrtGo (Nat.log2 n / 2 + 1) n 0

/-- √a. The root is taken with many bits to spare, and a last bit that says whether it is inexact. -/
def fsqrt (f : FFmt) (rm a : Nat) : FRes :=
  match fdec f a with
  | .nan s => nanRes f [.nan s]
  | .inf n => if n then (f.nan, 16) else (f.inf false, 0)
  | .fin n m e =>
    if m = 0 then (f.zero n, 0)
    else if n then (f.nan, 16)
    else
      let m := if e % 2 = 0 then m else 2 * m
      let e := if e % 2 = 0 then e else e - 1
      let big := m * 2 ^ 64
      let r := isqrt big
      froundQ f rm false (2 * r + (if r * r = big then 0 else 1)) 1 (e / 2 - 33)

/-- Comparison of two non-NaN values: negative, zero or positive as a < b, a = b, a > b. -/
def fcmp : FVal → FVal → Int
  | .inf n, .inf m => if n = m then 0 else if n then -1 else 1
  | .inf n, _ => if n then -1 else 1
  | _, .inf m => if m then 1 else -1
  | .fin n1 m1 e1, .fin n2 m2 e2 => (addExact (signedM n1 m1) e1 (-(signedM n2 m2)) e2).1
  | _, _ => 0

/-- a < b, for patterns without NaN. -/
def flt (f : FFmt) (a b : Nat) : Bool := fcmp (fdec f a) (fdec f b) < 0
def fle (f : FFmt) (a b : Nat) : Bool := fcmp (fdec f a) (fdec f b) ≤ 0

/-- Sign bit of a pattern. -/
def fsign (f : FFmt) (b : Nat) : Bool := b / 2 ^ (f.eb + f.mb) % 2 == 1

/-- Minimum and maximum as RISC-V gives them: a NaN operand yields the other, two NaNs the canonical NaN, −0 lies below
+0. -/
def fmin (f : FFmt) (a b : Nat) : FRes :=
  let fl := if isSnan (fdec f a) || isSnan (fdec f b) then 16 else 0
  if isNan (fdec f a) && isNan (fdec f b) then (f.nan, fl)
  else if isNan (fdec f a) then (b, fl)
  else if isNan (fdec f b) then (a, fl)
  else if fcmp (fdec f a) (fdec f b) = 0 then (if fsign f a then a else b, fl)
  else (if flt f a b then a else b, fl)

def fmax (f : FFmt) (a b : Nat) : FRes :=
  let fl := if isSnan (fdec f a) || isSnan (fdec f b) then 16 else 0
  if isNan (fdec f a) && isNan (fdec f b) then (f.nan, fl)
  else if isNan (fdec f a) then (b, fl)
  else if isNan (fdec f b) then (a, fl)
  else if fcmp (fdec f a) (fdec f b) = 0 then (if fsign f a then b else a, fl)
  else (if flt f a b then b else a, fl)

/-- FCLASS: the bit number of a value's class. -/
def fclass (f : FFmt) (b : Nat) : Nat :=
  match fdec f b with
  | .nan s => if s then 8 else 9
  | .inf n => if n then 0 else 7
  | .fin n m _ =>
    if m = 0 then (if n then 3 else 4)
    else if m < 2 ^ f.mb then (if n then 2 else 5)
    else if n then 1 else 6

/-- Conversion to an integer between lo and hi: out of range or NaN saturates with NV. -/
def ftoInt (f : FFmt) (rm a : Nat) (lo hi : Int) : Int × Nat :=
  match fdec f a with
  | .nan _ => (hi, 16)
  | .inf n => (if n then lo else hi, 16)
  | .fin n m e =>
    let r := roundAt rm n m 1 e
    let v := signedM n r.1
    if v < lo then (lo, 16) else if hi < v then (hi, 16) else (v, if r.2 then 1 else 0)

/-- Conversion of an integer. -/
def fofInt (f : FFmt) (rm : Nat) (v : Int) : FRes := froundZ f rm v 0 false

/-! ## Conversions without NaN or infinity (R64), and exact widening -/

/-- FP32 to a narrower format, to nearest even, saturating; NaN becomes +0 (R64, R65). -/
def narrow (f : FFmt) (b : Nat) : Nat :=
  match fdec fp32 b with
  | .nan _ => 0
  | .inf n => f.maxFin n
  | .fin n m e =>
    if m = 0 then f.zero n
    else
      let r := (froundQ f 0 n m 1 e).1
      if r % 2 ^ (f.eb + f.mb) = f.inf false then f.maxFin n else r

/-- A narrower format to FP32, exactly; a NaN becomes the canonical one. -/
def widen (f : FFmt) (b : Nat) : Nat :=
  match fdec f b with
  | .nan _ => fp32.nan
  | .inf n => fp32.inf n
  | .fin n m e => (froundZ fp32 0 (signedM n m) e n).1

/-! ## FP32 operations of the engines: to nearest even, flags not kept -/

def f32add (a b : Nat) : Nat := (fadd fp32 0 a b).1
def f32sub (a b : Nat) : Nat := (fsub fp32 0 a b).1
def f32mul (a b : Nat) : Nat := (fmul fp32 0 a b).1
def f32div (a b : Nat) : Nat := (fdiv fp32 0 a b).1
def f32fma (a b c : Nat) : Nat := (ffma fp32 0 a b c).1
def f32sqrt (a : Nat) : Nat := (fsqrt fp32 0 a).1
def f32lt (a b : Nat) : Bool := !isNan (fdec fp32 a) && !isNan (fdec fp32 b) && flt fp32 a b
def f32le (a b : Nat) : Bool := !isNan (fdec fp32 a) && !isNan (fdec fp32 b) && fle fp32 a b
def f32one : Nat := 0x3F800000
def f32ofNat (n : Nat) : Nat := (fofInt fp32 0 n).1

/-- The exact magnitude |v| × 2^e exceeds the largest finite FP32 magnitude, (2^24 − 1) × 2^104. -/
def overMax (v e : Int) : Bool :=
  (2 ^ 24 - 1) * 2 ^ (104 - e).toNat < v.natAbs * 2 ^ (e - 104).toNat

/-- Saturating FP32 rounding of an exact value v × 2^e (R63): the pattern, and whether the exact value exceeds the largest
finite magnitude, so that the rounding counts. -/
def satRound (v e : Int) : Nat × Bool :=
  if overMax v e then (fp32.maxFin (v < 0), true) else ((froundZ fp32 0 v e false).1, false)

/-- A pattern with an infinity replaced by the largest finite value of its sign: what a saturating conversion reads (R64). -/
def finite32 (b : Nat) : Nat := match fdec fp32 b with
  | .inf n => fp32.maxFin n
  | _ => b

/-- The exact value of a finite FP32 pattern, as v × 2^e; NaN and infinity are not asked for. -/
def exact32 (b : Nat) : Int × Int := match fdec fp32 b with
  | .fin n m e => (signedM n m, e)
  | _ => (0, 0)

/-! ## Exponential and logarithm, correctly rounded (R488)

Fixed-point numbers with 256 fraction bits. The errors of the sums are far below the distance of any FP32 result of a
non-trivial argument from a rounding boundary. -/

/-- Fraction bits. -/
def fixP : Nat := 256

/-- Fixed-point product. -/
def fixMul (a b : Int) : Int := a * b / 2 ^ fixP

/-- Σ t^k / k! by Horner from term n down. -/
def expSum : Nat → Nat → Int → Int
  | 0, _, _ => 2 ^ fixP
  | n + 1, k, t => 2 ^ fixP + fixMul t (expSum n (k + 1) t) / k

/-- Σ over odd k of z^k / k, `n` terms. -/
def atanhSum : Nat → Nat → Int → Int → Int
  | 0, _, _, _ => 0
  | n + 1, k, zk, z2 => zk / k + atanhSum n (k + 2) (fixMul zk z2) z2

/-- ln(n / d) for n / d in [1, 2]: 2 atanh((n − d) / (n + d)). -/
def fixLn (n d : Nat) : Int :=
  let z : Int := ((n : Int) - d) * 2 ^ fixP / (n + d)
  2 * atanhSum 90 1 z (fixMul z z)

/-- ln 2. -/
def fixLn2 : Int := fixLn 2 1

/-- exp of an FP32 value: what lies above the largest finite value saturates to it; what rounds to zero is +0. -/
def f32exp (b : Nat) : Nat :=
  match fdec fp32 b with
  | .nan _ => fp32.nan
  | .inf n => if n then 0 else fp32.maxFin false
  | .fin n m e =>
    if m = 0 then f32one
    else if 8 ≤ ilogQ m 1 + e then (if n then 0 else fp32.maxFin false)
    else if ilogQ m 1 + e < -40 then f32one
    else
      let v := signedM n m
      let x : Int := v * 2 ^ (fixP + e).toNat / 2 ^ (-(fixP + e)).toNat
      let k := x / fixLn2
      let r := x - k * fixLn2
      let y := expSum 70 1 r
      min (froundQ fp32 0 false (2 * y.toNat + 1) 1 (k - fixP - 1)).1 (fp32.maxFin false)

/-- ln of an FP32 value: 0 gives −infinity, a negative value NaN. -/
def f32ln (b : Nat) : Nat :=
  match fdec fp32 b with
  | .nan _ => fp32.nan
  | .inf n => if n then fp32.nan else fp32.inf false
  | .fin n m e =>
    if m = 0 then fp32.inf true
    else if n then fp32.nan
    else
      let l := ilogQ m 1
      let k := l + e
      let frac := fixLn m (2 ^ l.toNat)
      if k = 0 && m = 2 ^ l.toNat then 0
      else
        let v := k * fixLn2 + frac
        (froundZ fp32 0 (2 * v + 1) (-fixP - 1) false).1

end Sys2Proof.Machine
end

