-- ==== Sys2Proof/Machine/Blocks.lean ====
section
/-! DEFINITION. Block formats (R55 to R59) and the encoding of a block (R65 to R67, R70 to R72). -/

namespace Sys2Proof.Machine

/-! ## Formats (R55 to R58) -/

/-- Element bits of a format code. -/
def elemBits (fmt : Nat) : Nat := match fmt with
  | 0 => 4 | 1 => 4 | 2 => 3 | 3 => 2 | 4 => 6 | 5 => 8 | 6 => 8 | _ => 6

/-- Bytes of a block's in-place area. -/
def areaSize (fmt : Nat) : Nat := 4 * elemBits fmt

/-- The exponent of a format's unit: every element value is an integer times 2^unit. -/
def elemUnit (fmt : Nat) : Int := match fmt with
  | 0 => -1 | 1 => -2 | 2 => 0 | 3 => 0 | 4 => -3 | 5 => -9 | 6 => -16 | _ => -4

/-- A minifloat magnitude in units: `mb` fraction bits. -/
def miniMag (mb code : Nat) : Nat :=
  let ex := code / 2 ^ mb
  let fr := code % 2 ^ mb
  if ex = 0 then fr else (2 ^ mb + fr) * 2 ^ (ex - 1)

/-- An element code's value in units, and whether R59 replaces it. -/
def elemVal (fmt code : Nat) : Int × Bool :=
  let sgn := fun (neg : Bool) (m : Nat) => if neg then -(m : Int) else m
  match fmt with
  | 0 => (sgn (bitOf code 3) (miniMag 1 (code % 8)), false)
  | 1 => (if 8 ≤ code % 16 then (code % 16 : Int) - 16 else (code % 16 : Int), false)
  | 2 => (sgn (bitOf code 2) (code % 4), false)
  | 3 => (if code % 4 = 1 then 1 else if code % 4 = 3 then -1 else 0, false)
  | 4 => (sgn (bitOf code 5) (miniMag 3 (code % 32)), false)
  | 5 => if code % 128 = 127 then (0, true) else (sgn (bitOf code 7) (miniMag 3 (code % 128)), false)
  | 6 =>
    let m := code % 128
    if m = 0x7C then (sgn (bitOf code 7) (miniMag 2 0x7B), true)
    else if 0x7C < m then (0, true)
    else (sgn (bitOf code 7) (miniMag 2 m), false)
  | _ => (sgn (bitOf code 5) (miniMag 2 (code % 32)), false)

/-- K3 and K2 have UE5M3 scales. -/
def isK (fmt : Nat) : Bool := fmt = 2 || fmt = 3

/-- Value of a scale code: mantissa and exponent (R57). -/
def scaleVal (fmt code : Nat) : Nat × Int :=
  if isK fmt then
    (if code / 8 = 0 then (code % 8, -17) else (8 + code % 8, (code / 8 : Int) - 18))
  else (1, (code : Int) - 127)

/-- Splits an element area into codes (R58). -/
def unpackCodes (fmt : Nat) (area : List Byte) : List Nat :=
  let v := ofBytes area
  (List.range 32).map (fun i => bitsOf v (elemBits fmt * i) (elemBits fmt))

/-- The element area of 32 codes. -/
def packCodes (fmt : Nat) (codes : List Nat) : List Byte :=
  toBytes (areaSize fmt) (codes.zipIdx.foldl (fun a e => a + e.1 * 2 ^ (elemBits fmt * e.2)) 0)

/-! ## Preparing (R65) -/

/-- Prepares an FP32 element: its pattern, and whether it counts in FMT_RANGE_CLAMP. -/
def prepare (b : Nat) : Nat × Bool :=
  match fdec fp32 b with
  | .nan _ => (0, true)
  | .inf n => (0x7E800000 + (if n then 2 ^ 31 else 0), true)
  | .fin n m _ =>
    if 0x7E800000 < b % 2 ^ 31 then (0x7E800000 + (if n then 2 ^ 31 else 0), true)
    else if m < 2 ^ 23 then (0, false)
    else (b, false)

/-! ## Encoding a block (R66, R67) -/

/-- Magnitudes a format may write, by magnitude code, in units. -/
def magnitudes (fmt : Nat) : List Nat := match fmt with
  | 0 => [0, 1, 2, 3, 4, 6, 8, 12]
  | 1 => List.range 8
  | 2 => List.range 4
  | 3 => [0, 1]
  | 4 => (List.range 32).map (miniMag 3)
  | _ => (List.range 127).map (miniMag 3)

/-- The nearest magnitude code to n / d units, ties to the even code; beyond the largest it saturates. -/
def nearest (mags : List Nat) (n d : Nat) : Nat :=
  ((mags.zip (mags.drop 1)).foldl (fun (a : Nat × Nat) e =>
    let j := a.1 + 1
    (j, if (e.1 + e.2) * d < 2 * n || ((e.1 + e.2) * d = 2 * n && j % 2 = 0) then j else a.2)) (0, 0)).2

/-- The element code of a magnitude code with a sign; no negative zero is written. -/
def signCode (fmt : Nat) (neg : Bool) (mag : Nat) : Nat :=
  if mag = 0 || !neg then mag
  else match fmt with
    | 0 => mag + 8
    | 1 => 16 - mag
    | 2 => mag + 4
    | 3 => 3
    | 4 => mag + 32
    | _ => mag + 128

/-- The code of an FP32 pattern against a scale: exact comparison of x / scale with the format's values (R67). -/
def encodeElem (fmt scale x : Nat) : Nat :=
  let v := exact32 x
  let sc := scaleVal fmt scale
  let k := v.2 - sc.2 - elemUnit fmt
  signCode fmt (v.1 < 0) (nearest (magnitudes fmt) (v.1.natAbs * 2 ^ k.toNat) (sc.1 * 2 ^ (-k).toNat))

/-- FP32 value of a code against a scale: none where it is not finite in FP32. -/
def decodeElem (fmt scale code : Nat) : Option Nat :=
  let sc := scaleVal fmt scale
  let r := (froundZ fp32 0 ((elemVal fmt code).1 * sc.1) (elemUnit fmt + sc.2) false).1
  if r % 2 ^ 31 = 0x7F800000 then none else some r

/-- ⌊log2⌋ of a positive FP32 magnitude. -/
def ilog32 (b : Nat) : Int := match fdec fp32 b with
  | .fin _ m e => if m = 0 then 0 else ilogQ m 1 + e
  | _ => 0

/-- The largest magnitude of a list of patterns. -/
def maxMag (xs : List Nat) : Nat := xs.foldl (fun a x => max a (x % 2 ^ 31)) 0

/-- Scale candidates in search order (R66, search order). -/
def candidates (fmt a : Nat) : List Nat :=
  if isK fmt then
    if a = 0 then [0x78]
    else
      let l := if fmt = 2 then 3 else 1
      let v := exact32 a
      let ok := fun c =>
        let sc := scaleVal fmt c
        let k := v.2 - sc.2
        v.1.natAbs * 2 ^ k.toNat ≤ sc.1 * l * 2 ^ (-k).toNat
      let base := ((List.range 254).map (· + 1)).find? ok
      let base := base.getD 0xFE
      ((List.range 8).map (fun i => base - i)).filter (fun c => 1 ≤ c)
  else if a = 0 then [0x7F]
  else
    let emax : Int := match fmt with
      | 0 => 2 | 1 => 0 | 4 => 2 | _ => 8
    let e0 := max (-127) (min 127 (ilog32 a - emax))
    if e0 < 127 then [(e0 + 127).toNat, (e0 + 128).toNat] else [254]

/-- 2^−s times a pattern, rounded to FP32. -/
def scaleDown (s b : Nat) : Nat :=
  if s = 0 then b
  else
    let v := exact32 b
    (froundZ fp32 0 v.1 (v.2 - s) (fsign fp32 b)).1

/-- s of R66. -/
def blockShift (x : List Nat) : Nat := if maxMag x = 0 then 0 else (ilog32 (maxMag x) - 50).toNat

/-- R = Σ x². -/
def blockR (x : List Nat) : Nat :=
  let s := blockShift x
  x.foldl (fun a e => f32add a (f32mul (scaleDown s e) (scaleDown s e))) 0

/-- E = Σ (x − q)². -/
def blockE (x q : List Nat) : Nat :=
  let s := blockShift x
  (x.zip q).foldl (fun a e =>
    let d := f32sub (scaleDown s e.1) (scaleDown s e.2)
    f32add a (f32mul d d)) 0

/-- A block as the quantiser encodes it: scale code, element codes, outliers (element, FP16 value), and whether it fell
back to MXFP8 E4M3. -/
structure QBlock where
  scale : Nat
  codes : List Nat
  outl : List (Nat × Nat)
  fallback : Bool
  deriving DecidableEq, Repr

/-- The indices of the k elements of largest magnitude, ties to the lower index, ascending. -/
def largestK (x : List Nat) (k : Nat) : List Nat :=
  let rank := fun i =>
    countIf (List.range 32) (fun j =>
      (x.getD i 0) % 2 ^ 31 < (x.getD j 0) % 2 ^ 31 || ((x.getD j 0) % 2 ^ 31 = (x.getD i 0) % 2 ^ 31 && j < i))
  (List.range 32).filter (fun i => rank i < k)

/-- FP32 to FP16 to nearest even; none where the rounding exceeds 65,504. -/
def toFp16 (b : Nat) : Option Nat :=
  match fdec fp32 b with
  | .fin n m e => if m = 0 then some (fp16.zero n) else
      let r := (froundQ fp16 0 n m 1 e).1
      if r % 2 ^ 15 = 0x7C00 then none else some r
  | _ => none

/-- The best scale for a block with outliers at `o`: scale, codes and E, the first of smallest E. -/
def bestScale (fmt : Nat) (x : List Nat) (o : List (Nat × Nat)) : Option (Nat × List Nat × Nat) :=
  let y := x.zipIdx.map (fun e => if o.any (fun p => p.1 == e.2) then 0 else e.1)
  (candidates fmt (maxMag y)).foldl (fun best sc =>
    let codes := y.map (encodeElem fmt sc)
    let q := codes.map (decodeElem fmt sc)
    if q.any Option.isNone then best
    else
      let q := q.zipIdx.map (fun e => match o.find? (fun p => p.1 == e.2) with
        | some p => widen fp16 p.2
        | none => e.1.getD 0)
      let e := blockE x q
      match best with
      | some (_, _, e') => if f32lt e e' then some (sc, codes, e) else best
      | none => some (sc, codes, e)) none

/-- Bound code over 65,536 as FP32. -/
def boundVal (code : Nat) : Nat := (froundZ fp32 0 code (-16) false).1

/-- The encodings with 0 to `n` outliers: the first that meets the bound. -/
def tryOutliers (fmt bound : Nat) (x : List Nat) (r : Nat) : Nat → Nat → Option QBlock
  | 0, _ => none
  | n + 1, k =>
    let idx := largestK x k
    let o := idx.map (fun i => (i, toFp16 (x.getD i 0)))
    if o.any (fun p => p.2.isNone) then tryOutliers fmt bound x r n (k + 1)
    else
      let o := o.map (fun p => (p.1, p.2.getD 0))
      match bestScale fmt x o with
      | some (sc, codes, e) =>
        if f32le e (f32mul (boundVal bound) r) then some { scale := sc, codes := codes, outl := o, fallback := false }
        else tryOutliers fmt bound x r n (k + 1)
      | none => tryOutliers fmt bound x r n (k + 1)

/-- Encodes a prepared block (R67): `m` outliers allowed, `c` list entries free. -/
def quantBlock (fmt bound m c : Nat) (x : List Nat) : QBlock :=
  match tryOutliers fmt bound x (blockR x) (min m c + 1) 0 with
  | some b => b
  | none => match bestScale 5 x [] with
    | some (sc, codes, _) => { scale := sc, codes := codes, outl := [], fallback := true }
    | none => { scale := 0x7F, codes := List.replicate 32 0, outl := [], fallback := true }

/-- An outlier-list entry (R71). -/
def outlierWord (block : Nat) (o : Nat × Nat) : Nat := o.2 + o.1 * 2 ^ 16 + block * 2 ^ 21

/-- The in-place area of a block: its elements, or FB_SCALE and FB_SLOT (R70). -/
def blockArea (fmt : Nat) (b : QBlock) (slot : Nat) : List Byte :=
  if b.fallback then padTo (areaSize fmt) (pack [(b.scale, 1), (slot, 4)]) else packCodes fmt b.codes

/-- The scale byte of a block. -/
def blockScale (b : QBlock) : Nat := if b.fallback then 0xFF else b.scale

end Sys2Proof.Machine
end

