-- ==== Sys2Proof/Machine/Pages.lean ====
section
/-! DEFINITION. The device virtual space (chapter 07): leaf entries, translation, HBM frames, and reads and writes of bytes at
device virtual addresses. -/

namespace Sys2Proof.Machine

/-! ## Regions (R162) -/

/-- The regions of a device virtual space. -/
inductive VRegion where
  | image | spill | scratch | request
  deriving DecidableEq, Repr

/-- The region of an address below 2^48. -/
def vRegion (va : Nat) : VRegion :=
  if va < 0x100000000000 then .image
  else if va < 0x200000000000 then .spill
  else if va < 0x400000000000 then .scratch
  else .request

/-- Start of spill slot i. -/
def spillVa (i : Nat) : Nat := 0x100000000000 + 32 * i

/-- S = 2^MEM_REQ_SPAN_LOG of a pallet. -/
def State.spanSize (s : State) (p : Nat) : Nat := 2 ^ s.obj Obj.MEM_REQ_SPAN_LOG p

/-- MEM_PAGES_PER_HEAD of a pallet. -/
def State.pagesPerHead (s : State) (p : Nat) : Nat := s.obj Obj.MEM_PAGES_PER_HEAD p

/-- Start of span k. -/
def State.spanStart (s : State) (p k : Nat) : Nat := 0x400000000000 + k * s.spanSize p

/-- Spans of a pallet. -/
def State.spans (s : State) (p : Nat) : Nat := (2 ^ 48 - 0x400000000000) / s.spanSize p

/-! ## Page tables (R165 to R168) -/

/-- The 8 bytes of a leaf entry (R167). -/
def Leaf.word (l : Leaf) : Nat :=
  1 + b2n l.write * 2 + (match l.tier with
    | .hbm => 0
    | .host => 1
    | .remote => 2) * 2 ^ 2 + l.ld * 2 ^ 8 + l.target * 2 ^ 13 + l.keyslot * 2 ^ 54

/-- The leaf that an entry of level 0 holds: none where V is 0 or TIER is reserved. -/
def leafOf (w : Nat) : Option Leaf :=
  let tier := match bitsOf w 2 2 with
    | 0 => some Tier.hbm
    | 1 => some .host
    | 2 => some .remote
    | _ => none
  if bitOf w 0 then tier.map (fun t =>
    { write := bitOf w 1, tier := t, ld := bitsOf w 8 4, target := bitsOf w 13 39, keyslot := bitsOf w 54 10 })
  else none

/-- The 8 bytes of a valid entry of levels 3, 2 and 1 (R166): V, and NEXT, the frame of the next table. -/
def tableWord (next : Nat) : Nat := 1 + next % 2 ^ 26 * 2 ^ 13

/-- The index of an address in its table of a level. -/
def tableIndex (level va : Nat) : Nat := bitsOf va (13 + 10 * level) 10

/-- Key, in `mem.tables`, of the entry of an address at level 3, 2 or 1. -/
def tableKey (p level va : Nat) : Nat := (level * 16 + p) * 2 ^ 26 + va / 2 ^ (13 + 10 * level)

/-- The entries of levels 3, 2 and 1 that lead to a page are made valid: the frame that a new table lies in is a constant of the
implementation, of the module's reserved area (log entry 104). -/
def State.linkPage (s : State) (p va : Nat) : State :=
  { s with mem := { s.mem with tables := [3, 2, 1].foldl (fun m level =>
      let k := tableKey p level va
      if (NMap.get? m k).isSome then m else NMap.ins m k (Config.tableFrame k)) s.mem.tables } }

/-- MEM_PT_ROOT: the physical address of a pallet's root table. -/
def ptRoot (p : Nat) : Nat := Config.ptRoot p % 2 ^ 26 * 8192

/-- Key of the leaf of a page. -/
def leafKey (p va : Nat) : Nat := p * 2 ^ 35 + va / 8192

/-- The fields of an RMF_WINDOW value (R275). -/
structure Window where
  v : Bool
  region : Nat
  va : Nat
  npages : Nat
  page0 : Nat
  deriving DecidableEq, Repr

def windowOf (w : Nat) : Window :=
  { v := bitOf w 0, region := bitsOf w 32 32, va := bitsOf w 64 48, npages := bitsOf w 128 32, page0 := bitsOf w 160 32 }

/-- The window maps the page that holds an address. -/
def Window.holds (w : Window) (va : Nat) : Bool := w.v && w.va / 8192 ≤ va / 8192 && va / 8192 < w.va / 8192 + w.npages

/-- The mapped windows of a pallet, by number. -/
def State.windows (s : State) (p : Nat) : List (Nat × Window) :=
  (s.dict.vals.filter (fun e => objKey Obj.RMF_WINDOW (4096 * p) ≤ e.1 && e.1 < objKey Obj.RMF_WINDOW (4096 * p + 4096)
    && bitOf e.2 0)).map (fun e => (e.1 % 4096, windowOf e.2))

/-- The read-only leaf of TIER REMOTE that a window writes for a page (R275). -/
def State.remoteLeaf? (s : State) (p va : Nat) : Option Leaf :=
  (List.find? (fun e => e.2.holds va) (s.windows p)).map (fun e =>
    { write := false, tier := .remote, ld := 0, target := e.1 + (va / 8192 - e.2.va / 8192) * 2 ^ 12, keyslot := 0 })

/-- The leaf of the page that holds an address. The leaves of windows follow from RMF_WINDOW. -/
def State.leaf? (s : State) (p va : Nat) : Option Leaf := match NMap.get? s.mem.leaves (leafKey p va) with
  | some l => some l
  | none => if vRegion va = .scratch then s.remoteLeaf? p va else none

/-- Writes the leaf of a page, with the entries that lead to it. -/
def State.setLeaf (s : State) (p va : Nat) (l : Leaf) : State :=
  let s := s.linkPage p va
  { s with mem := { s.mem with leaves := NMap.ins s.mem.leaves (leafKey p va) l } }

/-- The entry of an address in its table of a level, 0 where it is not valid. -/
def State.entryWord (s : State) (p level va : Nat) : Nat :=
  if level = 0 then ((s.leaf? p va).map Leaf.word).getD 0
  else ((NMap.get? s.mem.tables (tableKey p level va)).map tableWord).getD 0

/-- The physical address of that entry: the root table is at MEM_PT_ROOT, each other where the entry above says. -/
def State.entryAddr (s : State) (p level va : Nat) : Nat :=
  (if 3 ≤ level then ptRoot p else bitsOf (s.entryWord p (level + 1) va) 13 26 * 8192) + 8 * tableIndex level va

/-- A walk through the four levels (R165): the leaf, where every entry on the way is valid. -/
def State.walk (s : State) (p va : Nat) : Option Leaf :=
  if [3, 2, 1].all (fun level => (NMap.get? s.mem.tables (tableKey p level va)).isSome) then s.leaf? p va else none

/-- The table that a frame holds: pallet, level, and the first address it translates. -/
def State.tableAt (s : State) (f : Nat) : Option (Nat × Nat × Nat) :=
  match (List.range 16).find? (fun p => ptRoot p == f * 8192) with
  | some p => some (p, 3, 0)
  | none => (List.find? (fun e => e.2 % 2 ^ 26 == f) s.mem.tables).map (fun e =>
      let level := e.1 / 2 ^ 30
      (e.1 / 2 ^ 26 % 16, level - 1, e.1 % 2 ^ 26 * 2 ^ (13 + 10 * level)))

/-- The pages that [va, va + n) touches, by number. -/
def pagesOf (va n : Nat) : List Nat :=
  if n = 0 then [] else (List.range ((va + n - 1) / 8192 - va / 8192 + 1)).map (fun k => va / 8192 + k)

/-- Every page of the range is mapped. -/
def State.vMapped (s : State) (p va n : Nat) : Bool :=
  va + n ≤ 2 ^ 48 && (pagesOf va n).all (fun k => (s.leaf? p (k * 8192)).isSome)

/-- Every page of the range is mapped and may be written. -/
def State.vWritable (s : State) (p va n : Nat) : Bool :=
  va + n ≤ 2 ^ 48 && (pagesOf va n).all (fun k => match s.leaf? p (k * 8192) with
    | some l => l.write
    | none => false)

/-- Every page of the range is in the HBM tier. -/
def State.vInHbm (s : State) (p va n : Nat) : Bool :=
  (pagesOf va n).all (fun k => match s.leaf? p (k * 8192) with
    | some l => l.tier == .hbm
    | none => false)

/-- The LDs whose host memory holds pages of the range. -/
def State.vHostLds (s : State) (p va n : Nat) : List Nat :=
  (pagesOf va n).filterMap (fun k => match s.leaf? p (k * 8192) with
    | some l => if l.tier == .host then some l.ld else none
    | none => none)

/-! ## Bytes -/

/-- Address of a host byte in `hostMem`. -/
def hostAddr (ld a : Nat) : Nat := ld * 2 ^ 64 + a

/-- The host physical address of a page of the HOST tier. -/
def Leaf.hostPa (l : Leaf) : Nat := l.target * 8192

/-- A byte of a page, by its leaf. A REMOTE page has no byte on this module. -/
def State.pageByte (s : State) (l : Leaf) (off : Nat) : Byte := match l.tier with
  | .hbm => NMap.get 0 s.mem.hbm (l.target * 8192 + off)
  | .host => NMap.get 0 s.host.hostMem (hostAddr l.ld (l.hostPa + off))
  | .remote => 0

/-! ## Bytes of whole pages -/

/-- `n` bytes of a sorted memory from `a`, in one pass. -/
def memSeq : Mem → Nat → Nat → List Byte
  | [], _, n => zeros n
  | (k, v) :: m, a, n =>
    if k < a then memSeq m a n
    else if a + n ≤ k then zeros n
    else zeros (k - a) ++ v :: memSeq m (k + 1) (n - (k - a) - 1)

/-- Replaces the bytes of [a, a + length) of a sorted memory. -/
def memSplice (m : Mem) (a : Nat) (bs : List Byte) : Mem :=
  m.filter (fun e => e.1 < a) ++ (bs.zipIdx.map (fun e => (a + e.2, e.1))).filter (fun e => e.2 ≠ 0)
    ++ m.filter (fun e => a + bs.length ≤ e.1)

/-- Bytes of one page, at an address whose range does not leave it. -/
def State.pageRead (s : State) (p va n : Nat) : List Byte := match s.leaf? p va with
  | none => zeros n
  | some l => match l.tier with
    | .hbm => memSeq s.mem.hbm (l.target * 8192 + va % 8192) n
    | .host => memSeq s.host.hostMem (hostAddr l.ld (l.hostPa + va % 8192)) n
    | .remote => zeros n

/-- Stores bytes in one page. -/
def State.pageWrite (s : State) (p va : Nat) (bs : List Byte) : State := match s.leaf? p va with
  | none => s
  | some l => match l.tier with
    | .hbm => { s with mem := { s.mem with hbm := memSplice s.mem.hbm (l.target * 8192 + va % 8192) bs } }
    | .host => { s with host := { s.host with
        hostMem := memSplice s.host.hostMem (hostAddr l.ld (l.hostPa + va % 8192)) bs } }
    | .remote => s

/-! ## Frames (R180) -/

/-- Frames of the 384 GiB of HBM. -/
def frameCount : Nat := 50331648

/-- The stack of a frame, its stack-local frame, and the pseudo-channel that line l of it goes to. -/
def stackOf (f : Nat) : Nat := f % 8
def localFrame (f : Nat) : Nat := f / 8
def pseudoChannel (f l : Nat) : Nat := (l + localFrame f) % 64

/-- Frames that a pallet holds. -/
def State.framesOf (s : State) (p : Nat) : Nat := countIf s.mem.frames (fun e => e.2 == p)

/-- Searches the frames in ascending order for `n` free ones in stacks that `mask` allows (0: all eight). -/
def freeFrames (used : NMap Nat) (mask : Nat) : Nat → Nat → Nat → List Nat
  | 0, _, _ => []
  | fuel + 1, f, n =>
    if n = 0 || frameCount ≤ f then []
    else if (mask = 0 || bitOf mask (stackOf f)) && (NMap.get? used f).isNone then f :: freeFrames used mask fuel (f + 1) (n - 1)
    else freeFrames used mask fuel (f + 1) n

/-- Takes `n` frames for a pallet, lowest first; none where there are not enough. -/
def State.takeFrames (s : State) (p mask n : Nat) : Option (List Nat × State) :=
  let fs := freeFrames s.mem.frames mask (8 * (s.mem.frames.length + n + 1)) 0 n
  if fs.length < n then none
  else some (fs, { s with mem := { s.mem with frames := fs.foldl (fun m f => NMap.ins m f p) s.mem.frames } })

/-- Frees a frame and erases its bytes. -/
def State.freeFrame (s : State) (f : Nat) : State :=
  { s with mem := { s.mem with frames := NMap.del s.mem.frames f, hbm := memClear s.mem.hbm (f * 8192) (f * 8192 + 8192) } }

/-- Removes a leaf: its HBM frame is freed (R170). -/
def State.unmapKey (s : State) (key : Nat) : State := match NMap.get? s.mem.leaves key with
  | none => s
  | some l =>
    let s := { s with mem := { s.mem with leaves := NMap.del s.mem.leaves key } }
    if l.tier == .hbm then s.freeFrame l.target else s

/-- The level-1 entry that a leaf lies under, as a walk cache names it. -/
def walkKey (key : Nat) : Nat := key / 1024

/-- Drops the copies of a leaf that a pallet's bricks hold: TLB entries, walk-cache entries and prefetched pages (R170). A prefetched
page that is dropped so before use counts as wasted, as one that is evicted does (DESIGN CHOICE, log entry 128). -/
def State.invalidateLeaf (s : State) (p key : Nat) : State :=
  s.array.bricks.foldl (fun s e =>
    if (s.rect p).has e.1 then
      let wasted := countIf e.2.prefetched (fun q => q.1 == key && !q.2)
      let k := { s.brick e.1 with
        tlb := (s.brick e.1).tlb.filter (fun x => x ≠ key),
        walks := (s.brick e.1).walks.filter (fun x => x ≠ walkKey key),
        prefetched := (s.brick e.1).prefetched.filter (fun q => q.1 ≠ key) }
      (s.setBrick e.1 k).bumpBy Obj.MEM_PREFETCH_WASTED p wasted
    else s) s

/-- Maps new pages at ascending addresses from `va`, W set, HBM, under a key slot: none where frames are missing. -/
def State.mapNew (s : State) (p va n keyslot mask : Nat) : Option State :=
  match s.takeFrames p mask n with
  | none => none
  | some (fs, s) =>
    some (fs.foldl (fun (acc : Nat × State) f =>
      (acc.1 + 8192, acc.2.setLeaf p acc.1 { write := true, tier := .hbm, ld := 0, target := f, keyslot := keyslot })) (va, s)).2

/-- Unmaps every page of a range of page numbers. -/
def State.unmapRange (s : State) (p first count : Nat) : State :=
  (s.mem.leaves.filter (fun e => p * 2 ^ 35 + first ≤ e.1 && e.1 < p * 2 ^ 35 + first + count)).foldl
    (fun s e => (s.invalidateLeaf p e.1).unmapKey e.1) s

/-! ## Flushes in progress (R175) -/

/-- A flush begins. -/
def addFlush (s : State) (f : FlushRec) : State :=
  let n := s.newId
  let s := n.2
  { s with mem := { s.mem with flushes := NMap.ins s.mem.flushes n.1 f } }

/-! ## The 80/64 code (R182 to R184) -/

/-- Product in GF(16), field polynomial x^4 + x + 1. -/
def gf16 (a b : Nat) : Nat :=
  let p := (List.range 4).foldl (fun r i => if bitOf b i then r ^^^ (a <<< i) else r) 0
  let p := if bitOf p 6 then p ^^^ (0x13 <<< 2) else p
  let p := if bitOf p 5 then p ^^^ (0x13 <<< 1) else p
  if bitOf p 4 then p ^^^ 0x13 else p

/-- Column of data symbol i: (1, i, 1, i² + i + μ). -/
def eccCol (i : Nat) : List Nat := [1, i, 1, gf16 i i ^^^ i ^^^ 8]

/-- Columns of the 20 symbols: d_0 to d_15, c_0 to c_3. -/
def eccCols : List (List Nat) := (List.range 16).map eccCol ++ [[1, 0, 0, 0], [0, 0, 0, 1], [1, 1, 0, 1], [1, 0, 2, 6]]

/-- The 20 symbols of a word and its check bits. -/
def eccSymbols (word check : Nat) : List Nat :=
  (List.range 16).map (fun i => bitsOf word (4 * i) 4) ++ (List.range 4).map (fun j => bitsOf check (4 * j) 4)

/-- Check bits of a word (R183). -/
def eccEncode (word : Nat) : Nat :=
  let d := fun i => bitsOf word (4 * i) 4
  let s0 := (List.range 16).foldl (fun a i => a ^^^ d i) 0
  let s1 := (List.range 16).foldl (fun a i => a ^^^ gf16 i (d i)) 0
  let s3 := (List.range 16).foldl (fun a i => a ^^^ gf16 (gf16 i i ^^^ i ^^^ 8) (d i)) 0
  let c2 := s1
  let c3 := gf16 9 s0
  let c1 := s3 ^^^ s1 ^^^ gf16 3 s0
  let c0 := s0 ^^^ s1 ^^^ gf16 9 s0
  c0 + 16 * c1 + 256 * c2 + 4096 * c3

/-- Outcomes of the decoder (R184). -/
inductive EccResult where
  | good
  | corrected (word : Nat)
  | uncorrectable
  deriving DecidableEq, Repr

/-- The syndrome over the received symbols. -/
def eccSyndrome (word check : Nat) : List Nat :=
  ((eccSymbols word check).zip eccCols).foldl
    (fun t e => (t.zip e.2).map (fun q => q.1 ^^^ gf16 e.1 q.2)) [0, 0, 0, 0]

/-- The decoder. -/
def eccDecode (word check : Nat) : EccResult :=
  match eccSyndrome word check with
  | [t0, t1, t2, t3] =>
    if t0 = 0 && t1 = 0 && t2 = 0 && t3 = 0 then .good
    else if t0 = 0 then
      if t1 = 0 && t2 = 0 then .corrected word else .uncorrectable
    else
      match (List.range 20).find? (fun i => (eccCols.getD i []).map (gf16 t0) == [t0, t1, t2, t3]) with
      | some i => .corrected (if i < 16 then word ^^^ (t0 <<< (4 * i)) else word)
      | none => .uncorrectable
  | _ => .uncorrectable

end Sys2Proof.Machine
end

