-- ==== Sys2Proof/Machine/KvPage.lean ====
section
/-! DEFINITION. What a request's span holds (R163): KV pages, their side records, summaries and index entries (R80 to R85), the
header, sampler blocks and count tables (R117, R120, R130), and reads and writes of bytes at device virtual addresses. -/

namespace Sys2Proof.Machine

/-! ## Stored blocks and pages -/

/-- A block of a page: as the quantiser encodes it, with the spill slot of a fallback block; none before it has one. -/
structure SBlock where
  q : QBlock
  slot : Option Nat
  deriving DecidableEq, Repr

/-- A block whose bytes are `scale` and zeros. -/
def SBlock.blank (scale : Nat) : SBlock :=
  { q := { scale := scale, codes := List.replicate 32 0, outl := [], fallback := false }, slot := none }

/-- The format a block of a page in format `fmt` is in. -/
def SBlock.fmt (b : SBlock) (fmt : Nat) : Nat := if b.q.fallback then 5 else fmt

/-- A fallback block whose payload has scale code 0xFF: it decodes as zero (R59). -/
def SBlock.dead (b : SBlock) : Bool := b.q.fallback && b.q.scale = 0xFF

/-- What R59 replaces where the block is decoded: the block, or its NaN elements. -/
def SBlock.nans (b : SBlock) (fmt : Nat) : Nat :=
  if b.dead then 1 else countIf b.q.codes (fun c => (elemVal (b.fmt fmt) c).2)

/-- A page with its side record (R80 to R82). `seg` has 64 entries and `blocks` 512. -/
structure KvPage where
  fmt : Nat
  ntok : Nat
  sealed : Bool
  pos0 : Nat
  radius : Nat
  segmin : Nat
  segmax : Nat
  layer : Nat
  head : Nat
  handle : Nat
  centroid : List Nat
  cscale : List Nat
  seg : List Nat
  blocks : List SBlock
  deriving DecidableEq, Repr

/-- Bytes [off, off + n) of an array. -/
def sliceOf (a : Array Byte) (off n : Nat) : List Byte := (List.range n).map (fun i => a.getD (off + i) 0)

/-- Reads a page from its element area and side record; `spill` gives the 32 bytes of a spill slot. -/
def parsePage (elems side : List Byte) (spill : Nat → List Byte) : KvPage :=
  let ea := elems.toArray
  let sa := side.toArray
  let num := fun off n => ofBytes (sliceOf sa off n)
  let w := num 0x200 4
  let fmt := bitsOf w 0 3
  let nout := bitsOf w 16 7
  let outs := (List.range nout).map (fun i => num (0x300 + 4 * i) 4)
  let block := fun j =>
    let sc := num j 1
    let area := sliceOf ea (j * areaSize fmt) (areaSize fmt)
    if sc = 0xFF then
      let slot := ofBytes ((area.drop 1).take 4)
      ({ q := { scale := ofBytes (area.take 1), codes := unpackCodes 5 (spill slot), outl := [], fallback := true },
         slot := some slot } : SBlock)
    else
      { q := { scale := sc, codes := unpackCodes fmt area,
               outl := (outs.filter (fun o => bitsOf o 21 9 == j)).map (fun o => (bitsOf o 16 5, bitsOf o 0 16)),
               fallback := false },
        slot := none }
  { fmt := fmt, ntok := bitsOf w 3 7, sealed := bitOf w 10, pos0 := num 0x204 4, radius := num 0x208 4,
    segmin := num 0x20C 1, segmax := num 0x20D 1, layer := num 0x210 1, head := bitsOf (num 0x211 1) 0 4,
    handle := num 0x214 4,
    centroid := (List.range 128).map (fun i => bitsOf (num (0x220 + i / 2) 1) (4 * (i % 2)) 4),
    cscale := (List.range 4).map (fun i => num (0x260 + i) 1),
    seg := (List.range 64).map (fun i => num (0x2C0 + i) 1),
    blocks := (List.range 512).map block }

/-- The element area of a page. -/
def KvPage.elems (p : KvPage) : List Byte := padTo 8192 (p.blocks.flatMap (fun b => blockArea p.fmt b.q (b.slot.getD 0)))

/-- Fallback blocks of a page. -/
def KvPage.nfb (p : KvPage) : Nat := countIf p.blocks (fun b => b.q.fallback)

/-- Outlier entries of a page in order (R71). -/
def KvPage.outliers (p : KvPage) : List Nat :=
  p.blocks.zipIdx.flatMap (fun e => e.1.q.outl.map (outlierWord e.2))

/-- Pairs of 4-bit codes as bytes. -/
def packNibbles : List Nat → List Byte
  | a :: b :: r => BitVec.ofNat 8 (a + 16 * b) :: packNibbles r
  | [a] => [BitVec.ofNat 8 a]
  | [] => []

/-- The side record of a page (R82). -/
def KvPage.side (p : KvPage) : List Byte :=
  let outs := p.outliers.take 64
  p.blocks.flatMap (fun b => toBytes 1 (blockScale b.q))
    ++ pack [(p.fmt + p.ntok * 2 ^ 3 + b2n p.sealed * 2 ^ 10 + outs.length * 2 ^ 16, 4), (p.pos0, 4), (p.radius, 4),
        (p.segmin + p.segmax * 2 ^ 8 + p.nfb * 2 ^ 16, 4), (p.layer + p.head * 2 ^ 8, 4), (p.handle, 4), (0, 8)]
    ++ packNibbles p.centroid ++ p.cscale.flatMap (toBytes 1) ++ zeros 92 ++ p.seg.flatMap (toBytes 1)
    ++ padTo 256 (outs.flatMap (toBytes 4))

/-- A page with no token: blocks of dimensions at or above HDIM have scale code 0x7F (R81), the rest nothing yet. -/
def KvPage.new (fmt hdim layer head k handle : Nat) : KvPage :=
  { fmt := fmt, ntok := 0, sealed := false, pos0 := 64 * k, radius := 0, segmin := 0, segmax := 0, layer := layer,
    head := head, handle := handle, centroid := List.replicate 128 0, cscale := List.replicate 4 0,
    seg := List.replicate 64 0,
    blocks := (List.range 512).map (fun j =>
      let dim := if j < 256 then 32 * (j % 4) else (j - 256) / 2
      SBlock.blank (if hdim ≤ dim then 0x7F else 0)) }

/-- The decoded block: 32 FP32 patterns, outliers at their places. -/
def SBlock.decode (b : SBlock) (fmt : Nat) : List Nat :=
  b.q.codes.zipIdx.map (fun e => match b.q.outl.find? (fun o => o.1 == e.2) with
    | some o => widen fp16 o.2
    | none => if b.dead then 0 else (decodeElem (b.fmt fmt) b.q.scale e.1).getD 0)

/-- The decoded key of token t: 128 dimensions. -/
def KvPage.key (p : KvPage) (t : Nat) : List Nat :=
  ((p.blocks.drop (4 * t)).take 4).flatMap (fun b => b.decode p.fmt)

/-! ## Summaries (R84, R85) -/

/-- A vector of 128 as MXFP4, per block of 32, saturating (R64): codes and scale codes. -/
def encodeCentroid (v : List Nat) : List Nat × List Nat :=
  (List.range 4).foldl (fun (acc : List Nat × List Nat) b =>
    let x := ((v.drop (32 * b)).take 32).map finite32
    let a := maxMag x
    let sc := if a = 0 then 0x7F else (max (-127) (min 127 (ilog32 a - 2)) + 127).toNat
    (acc.1 ++ x.map (encodeElem 0 sc), acc.2 ++ [sc])) ([], [])

/-- The decoded centroid; a scale code 0xFF decodes its block as zero (R59). -/
def decodeCentroid (codes scales : List Nat) : List Nat :=
  codes.zipIdx.map (fun e =>
    let sc := scales.getD (e.2 / 32) 0x7F
    if sc = 0xFF then 0 else (decodeElem 0 sc e.1).getD 0)

/-- Sums of vectors in order, to nearest even, divided once by `n`. -/
def meanOf (n : Nat) (vs : List (List Nat)) : List Nat :=
  (vs.foldl (fun a v => (a.zip v).map (fun e => f32add e.1 e.2)) (List.replicate 128 0)).map
    (fun x => f32div x (f32ofNat n))

/-- The distance of two vectors over ascending dimensions, every operation rounded toward +∞ (R84). -/
def distUp (a b : List Nat) : Nat :=
  let sq := (a.zip b).foldl (fun acc e =>
    let d := if f32lt e.1 e.2 then (fsub fp32 3 e.2 e.1).1 else (fsub fp32 3 e.1 e.2).1
    (fadd fp32 3 acc (fmul fp32 3 d d).1).1) 0
  (fsqrt fp32 3 sq).1

/-- The larger of two FP32 values. -/
def f32max (a b : Nat) : Nat := if f32lt a b then b else a

/-- Writes the summary of a full page and seals it (R84). -/
def KvPage.seal (p : KvPage) : KvPage :=
  let keys := (List.range 64).map p.key
  let c := encodeCentroid (meanOf 64 keys)
  let dc := decodeCentroid c.1 c.2
  { p with
    centroid := c.1, cscale := c.2, radius := keys.foldl (fun a k => f32max a (distUp k dc)) 0, sealed := true }

/-- An index entry of a range of pages (R85), from its sealed pages in ascending index. -/
structure IndexEntry where
  first : Nat
  nsealed : Nat
  radius : Nat
  centroid : List Nat
  cscale : List Nat
  segmin : Nat
  segmax : Nat
  deriving DecidableEq, Repr

/-- The entry of range g over its sealed pages. -/
def indexEntry (g : Nat) (pages : List KvPage) : IndexEntry :=
  let cs := pages.map (fun p => (decodeCentroid p.centroid p.cscale, p.radius))
  let c := encodeCentroid (meanOf (max 1 pages.length) (cs.map (·.1)))
  let dc := decodeCentroid c.1 c.2
  { first := 16 * g, nsealed := pages.length,
    radius := cs.foldl (fun a e => f32max a (fadd fp32 3 (distUp e.1 dc) e.2).1) 0,
    centroid := c.1, cscale := c.2,
    segmin := pages.foldl (fun a p => min a p.segmin) 255, segmax := pages.foldl (fun a p => max a p.segmax) 0 }

/-- Its 128 bytes; an entry with no sealed page is zero. -/
def IndexEntry.bytes (e : IndexEntry) : List Byte :=
  if e.nsealed = 0 then zeros 128
  else padTo 128 (pack [(e.first, 4), (e.nsealed, 4), (e.radius, 4), (0, 4)] ++ packNibbles e.centroid
    ++ e.cscale.flatMap (toBytes 1) ++ pack [(e.segmin, 1), (e.segmax, 1)])

/-! ## Addresses in a span (R163) -/

/-- The requests of a pallet. -/
def State.requestsOf (s : State) (p : Nat) : List (Nat × Request) := s.req.requests.filter (fun e => e.2.pallet == p)

/-- KV head slots of a geometry. -/
def headSlots (g : Geom) : Nat := g.nlayer * g.nkv + g.dlayer * g.dnkv

/-- The head slot of a LAYER and KV head (R163). -/
def headSlot (g : Geom) (layer head : Nat) : Nat :=
  if layer < 128 then layer * g.nkv + head else g.nlayer * g.nkv + (layer - 128) * g.dnkv + head

/-- Device virtual addresses of page k of a head slot and of its side record (R163). -/
def pageVa (s : State) (r : Request) (layer head k : Nat) : Nat :=
  r.vbase + s.spanSize r.pallet / 2 + (headSlot r.geom layer head * s.pagesPerHead r.pallet + k) * 8192
def sideVa (s : State) (r : Request) (layer head k : Nat) : Nat :=
  r.vbase + s.spanSize r.pallet / 4 + (headSlot r.geom layer head * s.pagesPerHead r.pallet + k) * 1024

/-- Addresses of inbox record i and of its side record. -/
def inboxVa (s : State) (r : Request) (i : Nat) : Nat := r.vbase + s.spanSize r.pallet / 8 + i * 8192
def inboxSideVa (s : State) (r : Request) (i : Nat) : Nat := r.vbase + 7 * s.spanSize r.pallet / 32 + i * 1024

/-! ## Pages of a request -/

/-- The 32 bytes of a spill slot of a pallet. -/
def State.spillBytes (s : State) (p slot : Nat) : List Byte := s.pageRead p (spillVa slot) 32

/-- A page at an element address and a side-record address; none where it is not mapped. -/
def State.pageAt (s : State) (p va side : Nat) : Option KvPage :=
  if (s.leaf? p va).isNone || (s.leaf? p side).isNone then none
  else some (parsePage (s.pageRead p va 8192) (s.pageRead p side 1024) (s.spillBytes p))

/-- Page k of a (layer, KV head) of a request. -/
def State.kvPage (s : State) (r : Request) (layer head k : Nat) : Option KvPage :=
  s.pageAt r.pallet (pageVa s r layer head k) (sideVa s r layer head k)

/-- The index entry of range g of a (layer, KV head), from the sealed pages below `n`. -/
def State.indexOf (s : State) (r : Request) (layer head n g : Nat) : IndexEntry :=
  indexEntry g ((List.range 16).filterMap (fun i =>
    if 16 * g + i < n then (s.kvPage r layer head (16 * g + i)).filter (·.sealed) else none))

/-- Pages of a (layer, KV head) with L committed tokens. -/
def pagesFor (l : Nat) : Nat := ceilDiv l 64

/-! ## Bytes of the parts -/

/-- LIFE (R130). -/
def Life.code : Life → Nat
  | .resident => 1 | .movingOut => 2 | .movingIn => 3 | .awaitReplay => 4

/-- The header (R130). -/
def requestHeader (r : Request) : List Byte :=
  padTo 256 (pack [(r.handle, 4),
    (r.life.code + r.pallet * 2 ^ 4 + r.keyslot * 2 ^ 8 + r.nstream * 2 ^ 18 + r.pfmt * 2 ^ 23 + b2n r.pendValid * 2 ^ 26, 4),
    (r.geom.nlayer + r.geom.nkv * 2 ^ 8 + r.geom.hdimc * 2 ^ 13 + r.geom.dlayer * 2 ^ 16 + r.geom.dnkv * 2 ^ 23
      + r.geom.dhdimc * 2 ^ 28, 4),
    (r.ctxlen, 4), (r.nextStep, 4), (r.cstep, 4), (r.copyVer, 4), (r.homeSeq, 4), (r.rid, 8), (r.vbase, 8), (r.resPages, 4),
    (r.resSpill, 4), (r.homeMod + countIf r.inbox (·.placed) * 2 ^ 16, 4), (r.admitHandle, 4)]
    ++ padTo 16 (r.copyGroup.flatMap (toBytes 2)) ++ pack [(r.tAdmit, 8), (r.tLast, 8)]
    ++ padTo 64 (r.pending.flatMap (toBytes 4)))

/-- A sampler block (R117). -/
def blockBytes (b : Block) : List Byte :=
  padTo 64 (pack [(b2n b.active + 2 * b2n b.sampled + b.window * 2 ^ 16, 4), (b.vocab, 4), (b.temp.toNat, 4), (b.topk, 4),
    (b.topp.toNat, 4), (b.minp.toNat, 4), (b.rep.toNat, 4), (b.freq.toNat, 4), (b.pres.toNat, 4), (0, 4), (b.seed, 8), (b.stop, 4)])

/-- A count table (R120). -/
def countBytes (t : CountTable) : List Byte :=
  let bs := padTo 64 (pack [(t.window + t.fill * 2 ^ 16, 4), (t.head, 4), (t.vocab, 4)])
    ++ (List.range t.window).flatMap (fun i => toBytes 4 (NMap.get 0 t.ring i))
    ++ (List.range t.vocab).flatMap (fun x => toBytes 2 (NMap.get 0 t.count x))
  padTo (roundUp bs.length 64) bs

/-! ## The regions that the device writes for itself (R163)

CTRL, COUNT and INDEX are kept as the request's header, blocks and count tables and as its pages; their bytes follow. -/

/-- Index pages to a head slot: ⌈P / 1,024⌉. -/
def State.indexSlots (s : State) (p : Nat) : Nat := ceilDiv (s.pagesPerHead p) 1024

/-- The count table of stream i, and index page g of head slot n. -/
def countVa (r : Request) (i : Nat) : Nat := r.vbase + 0x100000 + i * 0x100000
def indexVa (s : State) (r : Request) (n g : Nat) : Nat :=
  r.vbase + s.spanSize r.pallet / 32 + (n * s.indexSlots r.pallet + g) * 8192

/-- The bytes of CTRL: the header, and the block of stream i at 0x100 + 64 × i. -/
def ctrlBytes (r : Request) : List Byte := requestHeader r ++ r.blocks.flatMap blockBytes

/-- A byte of an index page of a target head slot n: 64 entries of 128 bytes. -/
def indexByte (s : State) (r : Request) (n g off : Nat) : Byte :=
  if n < r.geom.nlayer * r.geom.nkv then
    ((s.indexOf r (n / r.geom.nkv) (n % r.geom.nkv) (pagesFor r.ctxlen) (64 * g + off / 128)).bytes).getD (off % 128) 0
  else 0

/-- The byte at an offset of a span, below the INBOX regions. -/
def recordByte (s : State) (r : Request) (off : Nat) : Byte :=
  let index := s.spanSize r.pallet / 32
  if off < 0x100000 then (ctrlBytes r).getD off 0
  else if off < index then match NMap.get? r.counts (off / 0x100000 - 1) with
    | some t => (countBytes t).getD (off % 0x100000) 0
    | none => 0
  else
    let j := (off - index) / 8192
    indexByte s r (j / s.indexSlots r.pallet) (j % s.indexSlots r.pallet) ((off - index) % 8192)

/-- The request in whose CTRL, COUNT or INDEX region an address lies. -/
def State.recordAt (s : State) (p a : Nat) : Option Request :=
  if vRegion a = .request then
    (List.find? (fun e => e.2.vbase ≤ a && a < e.2.vbase + s.spanSize p / 8) (s.requestsOf p)).map (·.2)
  else none

/-- The pages that those regions take: CTRL, the count tables of streams with WINDOW above 0, and the index pages of the target
heads. -/
def recordPages (s : State) (r : Request) : List Nat :=
  r.vbase :: r.counts.flatMap (fun e =>
      (List.range (ceilDiv (roundUp (64 + 4 * e.2.window + 2 * e.2.vocab) 64) 8192)).map (fun i => countVa r e.1 + 8192 * i))
    ++ (List.range (r.geom.nlayer * r.geom.nkv)).flatMap (fun n =>
      (List.range (ceilDiv (pagesFor r.ctxlen) 1024)).map (indexVa s r n))

/-! ## Bytes at device virtual addresses -/

/-- The byte at a device virtual address; none where the page is not mapped. -/
def State.vByte (s : State) (p a : Nat) : Option Byte := (s.leaf? p a).map (fun l => match s.recordAt p a with
  | some r => recordByte s r (a - r.vbase)
  | none => s.pageByte l (a % 8192))

/-- Bytes at a device virtual address; an unmapped byte is given as zero (callers check the mapping). -/
def State.vRead (s : State) (p a : Nat) : Nat → List Byte
  | 0 => []
  | n + 1 => (s.vByte p a).getD 0 :: s.vRead p (a + 1) n

/-- The little-endian number of `n` bytes at a device virtual address. -/
def State.vNat (s : State) (p a n : Nat) : Nat := ofBytes (s.vRead p a n)

/-- Stores one byte at a device virtual address; an unmapped byte, or one of a REMOTE page, is not stored. The pages of CTRL, COUNT and
INDEX are mapped without W, so no access stores there. -/
def State.vPut (s : State) (p a : Nat) (b : Byte) : State := match s.leaf? p a with
  | none => s
  | some l => match l.tier with
    | .hbm => { s with mem := { s.mem with hbm := NMap.put 0 s.mem.hbm (l.target * 8192 + a % 8192) b } }
    | .host =>
      { s with host := { s.host with hostMem := NMap.put 0 s.host.hostMem (hostAddr l.ld (l.hostPa + a % 8192)) b } }
    | .remote => s

/-- Stores bytes at a device virtual address. -/
def State.vWrite (s : State) (p a : Nat) : List Byte → State
  | [] => s
  | b :: bs => State.vWrite (s.vPut p a b) p (a + 1) bs

/-! ## HBM as it is stored (R165, R168, R181)

The state keeps decrypted bytes. What the stacks hold follows: the lines are enciphered under the key slot of their frame, and the
check symbols are over the ciphertext. -/

/-- The leaf that maps a frame: its key. -/
def State.frameLeaf (s : State) (f : Nat) : Option (Nat × Leaf) :=
  List.find? (fun e => e.2.tier == .hbm && e.2.target == f) s.mem.leaves

/-- The key slot a frame is encrypted under: its leaf's; page tables are under slot 0. -/
def State.frameSlot (s : State) (f : Nat) : Nat := match s.frameLeaf f with
  | some (_, l) => l.keyslot
  | none => 0

/-- The decrypted byte at a physical address: of the page or of the page table that its frame holds. -/
def State.hbmByte (s : State) (a : Nat) : Byte := match s.frameLeaf (a / 8192) with
  | some (key, _) => (s.vByte (key / 2 ^ 35) (key % 2 ^ 35 * 8192 + a % 8192)).getD 0
  | none => match s.tableAt (a / 8192) with
    | some (p, level, va) =>
      (toBytes 8 (s.entryWord p level (va + a % 8192 / 8 * 2 ^ (13 + 10 * level)))).getD (a % 8) 0
    | none => NMap.get 0 s.mem.hbm a

/-- The 64 bytes of the line that holds a physical address: decrypted, and as the stack holds them. -/
def State.linePlain (s : State) (a : Nat) : List Byte := (List.range 64).map (fun i => s.hbmByte (a / 64 * 64 + i))
def State.lineStored (s : State) (a : Nat) : List Byte :=
  xtsLine false (s.kslot (s.frameSlot (a / 8192))).xts (a / 64) (s.linePlain a)

/-- The ciphertext word at a physical address, and its check bits in the metadata (R183). -/
def State.wordStored (s : State) (a : Nat) : Nat := ofBytes (((s.lineStored a).drop (a % 64 / 8 * 8)).take 8)
def State.checkStored (s : State) (a : Nat) : Nat := eccEncode (s.wordStored a)

/-- The decrypted word of a line, of which one ciphertext word is given: the line is decrypted as a whole. -/
def State.lineWith (s : State) (a word : Nat) : List Byte :=
  let c := s.lineStored a
  let o := a % 64 / 8 * 8
  xtsLine true (s.kslot (s.frameSlot (a / 8192))).xts (a / 64) (c.take o ++ toBytes 8 word ++ c.drop (o + 8))

end Sys2Proof.Machine
end

