-- ==== Sys2Proof/Machine/Queue.lean ====
section
/-! DEFINITION. Transport queues and registrations (chapter 10): contexts, work queue entries, completions, posted buffers,
and what arriving RDMA packets do. -/

namespace Sys2Proof.Machine

/-! ## Contexts (R251 to R254) -/

/-- The bytes of a context that its owner reads (R251): 0x00 to 0x3F. -/
def queueBytes (v : Queue) : List Byte :=
  pack [(v.state + v.typ * 2 ^ 3 + b2n v.relaxed * 2 ^ 6 + v.pallet * 2 ^ 8 + v.ld * 2 ^ 12 + v.cls * 2 ^ 17 + v.errStatus * 2 ^ 24, 4),
    (v.keyId, 4), (v.cqn, 4), (v.logSize, 4), (v.ring, 8), (v.head, 4), (v.tail, 4), (v.count, 4), (v.outst, 4), (v.fgen, 4),
    (v.pcount, 4), (v.tErr, 8)] ++ zeros 8

def State.queue (s : State) (q : Nat) : Queue := NMap.get Queue.reset s.trn.queues q

def State.setQueue (s : State) (q : Nat) (v : Queue) : State :=
  { s with trn := { s.trn with queues := NMap.put Queue.reset s.trn.queues q v } }

def State.onQueue (s : State) (q : Nat) (f : Queue → Queue) : State := s.setQueue q (f (s.queue q))

/-- The CLASS, type and state of a queue that work may use. -/
def Queue.ready (v : Queue) (typ : Nat) : Bool := v.state == 1 && v.typ == typ

/-- Size of a queue's ring in entries, and producer less consumer modulo 2^32. -/
def Queue.size (v : Queue) : Nat := 2 ^ v.logSize
def Queue.filled (v : Queue) : Nat := (v.tail + 2 ^ 32 - v.head) % 2 ^ 32

/-- The cached contexts of queues that are not in RESET. -/
def State.cachedQueues (s : State) : List (Nat × Queue) :=
  s.trn.queues.filter (fun e => e.2.place == 0 && e.2.state ≠ 0)

/-- Makes room for one context: the least recently used cached one, except the one named, moves to HBM (R253). -/
def evictFor (s : State) (q : Nat) : State :=
  let c := (s.cachedQueues).filter (fun e => e.1 ≠ q)
  if (s.cachedQueues).length ≤ 16384 then s
  else match c.foldl (fun (a : Option (Nat × Queue)) e => match a with
      | none => some e
      | some b => if e.2.lastUse < b.2.lastUse then some e else some b) none with
    | some e => s.onQueue e.1 (fun v => { v with place := 1 })
    | none => s

/-- A host-memory access fails (R378). -/
def dmaFail (s : State) (ld addr : Nat) : State :=
  let s := s.onLd ld (fun d => { d with status := d.status ||| 4#3 })
  (s.bump Obj.HST_DMA_ERRORS ld).raise 0x14 [(ld, 1), (0, 7), (addr, 8)]

/-! ## Completions (R256 to R258) -/

/-- A completion record less PHASE. -/
def cqRecord (s : State) (wrid qn : Nat) (st : Status) (op : Nat) (imm : Option Nat) (bytes : Nat) : List Byte :=
  pack [(wrid, 8), (qn + statusCode st * 2 ^ 24, 4), (op + (if imm.isSome then 256 else 0), 4), (bytes, 4),
    (imm.getD 0, 4), (s.now, 8)]

/-- Sets PHASE in a record: 1 on the first pass of the ring, inverting on each later pass. -/
def withPhase (rec : List Byte) (phase : Bool) : List Byte :=
  setAt rec 15 ((rec.getD 15 0) ||| (if phase then 0x80 else 0))

/-- A queue whose last outstanding entry has completed leaves FLUSHING for ERROR (R252). -/
def flushedOut (s : State) (q : Nat) : State :=
  s.onQueue q (fun v => if v.state == 2 && v.outst = 0 then { v with state := 3 } else v)

/-- The context of a queue in HBM is fetched where the device itself needs it: a CQ that takes a completion, or a service queue
that takes a message. The fetch is over within the command (log entry 56); it counts as a miss. -/
def useQueue (s : State) (q : Nat) : State :=
  let v := s.queue q
  let s := if v.place = 0 then s else s.bump Obj.TRN_CTX_MISSES 0
  let s := if v.place = 2 then
      s.emit (.hostRead s.ids v.ld (s.objField Obj.TRN_CTX_HOST v.ld 0 8 + 256 * v.hostSlot) 256)
    else s
  let s := s.setQueue q { v with place := 0, lastUse := s.now }
  if v.place = 0 then s else evictFor s q

/-- A completion takes effect: COUNT of the CQ and of the queue rise and the record is written. -/
def cqApply (s : State) (cqn qn : Nat) (rec : List Byte) : State :=
  let s := useQueue s cqn
  let c := s.queue cqn
  let s := if rec.isEmpty then s
    else
      let phase := c.tail / c.size % 2 == 0
      s.winWrite c.ld (c.ring + c.tail % c.size * 32) (withPhase rec phase)
  let s := s.setQueue cqn { c with
    tail := if rec.isEmpty then c.tail else (c.tail + 1) % 2 ^ 32, count := (c.count + 1) % 2 ^ 32 }
  flushedOut (s.onQueue qn (fun v => { v with outst := v.outst - 1, count := (v.count + 1) % 2 ^ 32 })) qn

/-- Reports a completion to a CQ: held, in order, while the ring is full or earlier ones are held. Where CQN names no ready
CQ the entry completes with no record. -/
def cqComplete (s : State) (cqn qn : Nat) (rec : List Byte) : State :=
  let c := s.queue cqn
  if !c.ready 2 then
    flushedOut (s.onQueue qn (fun v => { v with outst := v.outst - 1, count := (v.count + 1) % 2 ^ 32 })) qn
  else if c.held.isEmpty && (rec.isEmpty || c.filled < c.size) then cqApply s cqn qn rec
  else s.setQueue cqn { c with held := c.held ++ [(qn, rec)], heldSince := some (c.heldSince.getD s.now) }

/-- Releases held completions while the ring has room: `n` bounds the number. -/
def cqRelease : Nat → Nat → State → State
  | 0, _, s => s
  | n + 1, cqn, s =>
    let c := s.queue cqn
    match c.held with
    | [] => s
    | (qn, rec) :: hs =>
      if rec.isEmpty || c.filled < c.size then
        let s := if hs.isEmpty then s.bumpBy Obj.TRN_CQ_FULL_NS 0 (s.now - c.heldSince.getD s.now) else s
        let s := s.setQueue cqn { c with held := hs, heldSince := if hs.isEmpty then none else c.heldSince }
        cqRelease n cqn (cqApply s cqn qn rec)
      else s

/-- Completes the entries at the head of a queue that have ended, in submission order (R257): `n` bounds the number. A
failed entry always writes a record; an arrival at an RQ does too. -/
def completeHead : Nat → Nat → State → State
  | 0, _, s => s
  | n + 1, q, s =>
    let v := s.queue q
    match v.entries with
    | [] => s
    | e :: es => match e.ended with
      | none => s
      | some st =>
        let s := s.setQueue q { v with entries := es, waits := if e.op = 0x20 then none else v.waits }
        let written := e.w.signal || st ≠ .ok || v.typ == 1
        let wrid := if v.typ == 1 && st == .ok then 0 else e.w.wrid
        let bs := if written then cqRecord s wrid q st e.op e.imm e.bytes else []
        completeHead n q (cqComplete s v.cqn q bs)

/-- An error event (R252, R260): the queue enters FLUSHING; every outstanding entry from number `from?` on (all, where none is
given) ends FLUSHED, one that has ended OK and waits for its predecessors too; an entry that has failed keeps its status.
Nothing more of them is sent, and none of them waits for a flow. -/
def queueError (s : State) (q : Nat) (from? : Option Nat) (st : Status) : State :=
  let v := s.queue q
  if v.state ≠ 1 then s
  else
    let later := fun (n : Nat) => match from? with
      | none => true
      | some k => (n + 2 ^ 32 - k) % 2 ^ 32 < 2 ^ 31
    let es := v.entries.map (fun e =>
      if later e.n && (e.ended.isNone || e.ended == some .ok) then { e with ended := some .flushed } else e)
    let s := s.setQueue q { v with state := 2, errStatus := statusCode st, tErr := s.now, entries := es, waits := none }
    let mine := fun (h : Held) => match h.purpose with
      | .entry k n => k == q && later n
      | _ => false
    let fl := s.trn.flows.map (fun e => (e.1, { e.2 with queued := e.2.queued.filter (fun h => !mine h) }))
    let wl := s.trn.waiting.filter (fun w => !w.2.2.2.any mine)
    let s := ({ s with trn := { s.trn with flows := fl, waiting := wl } }).bump Obj.TRN_Q_ERRORS 0
    flushedOut (completeHead (es.length + 1) q s) q

/-- An entry ends with a status; any other than OK is an error event (R260). An entry that has ended keeps its status. -/
def endEntry (s : State) (q n : Nat) (st : Status) : State :=
  let v := s.queue q
  if v.entries.any (fun e => e.n == n && e.ended.isNone) then
    let s := s.setQueue q { v with
      entries := mapIf v.entries (fun e => e.n == n) (fun e => { e with ended := some st }) }
    let s := if st == .ok then s else queueError s q (some n) st
    completeHead (v.entries.length + 1) q s
  else s

/-! ## Registrations (R264 to R266) -/

def State.reg (s : State) (i : Nat) : Reg := NMap.get Reg.reset s.trn.regs i

def State.setReg (s : State) (i : Nat) (v : Reg) : State :=
  { s with trn := { s.trn with regs := NMap.put Reg.reset s.trn.regs i v } }

/-- Accesses a registration may permit. -/
inductive RegUse where
  | localRead | localWrite | write | read | atomic
  deriving DecidableEq, Repr

/-- The check of R265: none where it passes, or the status it refuses with. -/
def regCheck (s : State) (rkey keyId use_va len : Nat) (use : RegUse) : Option Status :=
  let v := s.reg (bitsOf rkey 0 16)
  if v.state == 2 || v.state == 3 || v.gen ≠ bitsOf rkey 16 12 then some .regionRevoked
  else
    let bit := match use with
      | .localRead => true
      | .localWrite => v.lwrite
      | .write => v.rwrite
      | .read => v.rread
      | .atomic => v.ratomic
    let key := match use with
      | .localRead => true
      | .localWrite => true
      | _ => v.keyId == keyId
    if v.state == 1 && bit && key && v.va ≤ use_va && use_va + len ≤ v.va + v.length && bitsOf rkey 28 4 = 0 then none
    else some .accessDenied

/-- The check of a remote access, counting refusals of a revoked registration. -/
def regJudge (s : State) (rkey keyId va len : Nat) (use : RegUse) : Option Status × State :=
  match regCheck s rkey keyId va len use with
  | some .regionRevoked => (some .regionRevoked, s.bump Obj.TRN_REVOKED_REFUSED 0)
  | r => (r, s)

/-- The bytes of a registered range can be reached: mapped, writable where written, and every host page's function a bus
master (R378). -/
def reach (s : State) (p va len : Nat) (writing : Bool) : Option Status × State :=
  if !(if writing then s.vWritable p va len else s.vMapped p va len) then (some .accessDenied, s)
  else match (s.vHostLds p va len).find? (fun l => !(s.ld l).busMaster) with
    | some l => (some .targetDead, dmaFail s l va)
    | none => (none, s)

/-- REGISTER (R266, R370): the index FREE longest, generation + 1 with 0xFFF followed by 0x001. -/
def register (o r tag p access keyId va length : Nat) (s : State) : State :=
  onEntry s o r (fun s =>
    let src := Source.ring o r tag
    let pick := match leastBelow 65536 (fun i => (NMap.get? s.trn.regs i).isNone) with
      | some i => some i
      | none => (s.trn.regs.foldl (fun (a : Option (Nat × Nat)) e =>
          if e.2.state ≠ 0 then a
          else match a with
            | none => some (e.1, e.2.freedAt)
            | some b => if e.2.freedAt < b.2 then some (e.1, e.2.freedAt) else a) none).map (·.1)
    if va % 64 ≠ 0 || length % 64 ≠ 0 || length = 0 || 2 ^ 48 < va + length then
      complete s src 0x08 .transportError 0
    else if keyId ≠ 0 && s.keyInstalled keyId && s.slotRetired (bitsOf keyId 0 10) then complete s src 0x08 .keyRetired 0
    else if !s.ownsPallet o p || !(keyId = 0 || (s.keyInstalled keyId && s.slotServes (bitsOf keyId 0 10) p)) then
      complete s src 0x08 .accessDenied 0
    else match pick with
      | none => complete s src 0x08 .admitDenied 0
      | some i =>
        let old := s.reg i
        let gen := if old.gen = 0xFFF then 1 else old.gen + 1
        let v : Reg := { old with
          state := 1, lwrite := bitOf access 0, rwrite := bitOf access 1, rread := bitOf access 2,
          ratomic := bitOf access 3, pallet := p, ld := o, gen := gen, keyId := keyId, va := va, length := length,
          inflight := 0, source := none }
        complete (s.setReg i v) src 0x08 .ok (i + gen * 2 ^ 16))

/-- Starts the revoke of a valid registration (R266). -/
def startRevoke (s : State) (i : Nat) (src : Option (Nat × Nat × Nat)) : State :=
  s.setReg i { s.reg i with state := 2, tRevoke := s.now, source := src }

/-- REVOKE (R266, R370): it completes at the revoke completion. -/
def revoke (o r tag rkey : Nat) (s : State) : State :=
  onEntry s o r (fun s =>
    let i := bitsOf rkey 0 16
    let v := s.reg i
    if v.ld ≠ o || v.state = 0 then complete s (.ring o r tag) 0x09 .accessDenied 0
    else if v.state ≠ 1 || v.gen ≠ bitsOf rkey 16 12 then complete s (.ring o r tag) 0x09 .regionRevoked 0
    else startRevoke s i (some (o, r, tag)))

/-- The revoke completes once nothing that passed the check is outstanding. -/
def revokeDrained (i : Nat) (s : State) : State :=
  let v := s.reg i
  if v.state == 2 && v.inflight = 0 then
    let s := (s.setReg i { v with state := 3, tDrained := s.now, source := none }).bump Obj.TRN_REVOKES 0
    match v.source with
    | some (o, r, tag) => complete s (.ring o r tag) 0x09 .ok 0
    | none => s
  else s

/-- 500 µs after the completion the index is FREE. -/
def registrationFree (i : Nat) (s : State) : State :=
  let v := s.reg i
  if v.state == 3 && v.tDrained + 500000 ≤ s.now then s.setReg i { v with state := 0, freedAt := s.now } else s

/-! ## The end of an entry's message -/

/-- What an acknowledgement or a failure of its message does to a work queue entry (R257). -/
def entryFin (q n : Nat) (r : Option Status) (s : State) : State := match r with
  | some st => endEntry s q n st
  | none =>
    let v := s.queue q
    let s := s.setQueue q { v with
      entries := mapIf v.entries (fun e => e.n == n) (fun e => { e with acked := true }) }
    match v.entries.find? (fun e => e.n == n) with
    | none => s
    | some e => if e.op = 0x05 || (e.w.flush && (e.op = 0x03 || e.op = 0x04)) then s else endEntry s q n .ok

/-! ## Starting entries (R255, R257, R262, R263) -/

/-- Fields of an entry in range: R255, R9. -/
def wqeValid (w : Wqe) (op : Nat) : Bool :=
  w.len ≤ 2 ^ 30 && (0 < w.len || op = 0x01 || op = 0x02 || op = 0x20 || op = 0x21)

/-- A fetch of a context that is not cached begins: from HBM, or by an access to host memory (R253, R378). -/
def startFetch (s : State) (q : Nat) : State :=
  let v := s.queue q
  if v.place = 0 || v.fetching then s
  else
    let s := s.bump Obj.TRN_CTX_MISSES 0
    if v.place = 1 then s.setQueue q { v with fetching := true }
    else
      let addr := s.objField Obj.TRN_CTX_HOST v.ld 0 8 + 256 * v.hostSlot
      if (s.ld v.ld).busMaster then
        let i := s.newId
        let s := (i.2.setQueue q { v with fetching := true })
        ({ s with host := { s.host with
          dmas := s.host.dmas ++ [({ id := i.1, ld := v.ld, addr := addr, since := s.now, purpose := .context q, stalled := 0 } : Dma)] } }).emit
          (.hostRead i.1 v.ld addr 256)
      else queueError (dmaFail s v.ld addr) q none .targetDead

/-- Completions of a queue are held because its CQ is full: the queue stalls (R258). -/
def State.stalledQueue (s : State) (q : Nat) : Bool := (s.queue (s.queue q).cqn).held.any (fun h => h.1 == q)

/-- An entry sends write packets, and is the flagged one of a relaxed queue: SEND, SEND_IMM and WRITE_IMM are treated as flagged
(R262). -/
def sendsWrites (op : Nat) : Bool := 1 ≤ op && op ≤ 4
def isFlagged (op : Nat) (w : Wqe) : Bool := sendsWrites op && (w.flag || op ≠ 0x03)

/-- Packets of entries of a queue that satisfy a test stand unsent on a flow or wait for one. -/
def State.unsentOf (s : State) (q : Nat) (c : Nat → Bool) : Bool :=
  let mine := fun (h : Held) => match h.purpose with
    | .entry k n => k == q && c n
    | _ => false
  s.trn.flows.any (fun f => f.2.queued.any mine) || s.trn.waiting.any (fun w => w.2.2.2.any mine)

/-- The orders of a relaxed queue (R262, R263): a READ is sent only after every earlier packet has been acknowledged; the flagged
packet goes last; nothing of the next FGEN goes before it; and no packet of FGEN g + 2 goes before the flagged packet of g is
acknowledged. -/
def relaxedMayStart (s : State) (q op : Nat) (w : Wqe) : Bool :=
  let v := s.queue q
  let done := fun (e : QEntry) => e.acked || e.ended.isSome
  if op = 0x05 then v.entries.all done
  else
    !sendsWrites op
      || (v.entries.all (fun e => done e || !isFlagged e.op e.w || (e.fgen + 2) % 256 ≠ v.fgen)
        && !(isFlagged op w && s.unsentOf q (fun _ => true))
        && !s.unsentOf q (fun n => v.entries.any (fun e => e.n == n && isFlagged e.op e.w)))

/-- The entry at the head may start: the queue is READY, nothing stands before it, its completions are not held, and the orders of
R262, R263 and R276 hold. `op` is the entry's opcode. -/
def mayStart (s : State) (q op : Nat) (w : Wqe) : Bool :=
  let v := s.queue q
  v.ready 0 && v.head ≠ v.tail && v.waits.isNone && v.place = 0 && !s.stalledQueue q
    && v.entries.all (fun e => e.ended.isSome || e.acked || e.op = 0x20 || e.op = 0x21 || e.epoch == s.curEpoch
        || !newerEpoch s.curEpoch e.epoch)
    && (!v.relaxed || relaxedMayStart s q op w)

/-- Starts an entry: it leaves the ring and is outstanding. -/
def startEntry (s : State) (q op : Nat) (w : Wqe) : Nat × Nat × State :=
  let t := newTag s
  let v := t.2.queue q
  let e : QEntry :=
    { n := v.head, w := w, op := op, epoch := s.curEpoch, tag := t.1, fgen := v.fgen, ended := none, bytes := 0,
      missing := w.len, imm := none, acked := false, src := 0, sq := 0 }
  (v.head, t.1, t.2.setQueue q { v with
    head := (v.head + 1) % 2 ^ 32, outst := v.outst + 1, entries := v.entries ++ [e], lastUse := s.now })

/-- The header fields an entry gives its packets. FGEN stands in the write packets of a relaxed queue (R238, R263). -/
def entryProto (s : State) (q tag op : Nat) (w : Wqe) : Pkt :=
  let v := s.queue q
  let flush := w.flush && (op = 0x03 || op = 0x04)
  { Pkt.zero with
    relaxed := v.relaxed, epoch := s.curEpoch, dstMod := w.dstMod, keyId := v.keyId, dq := w.dq, sq := q,
    rkey := w.rkey, tag := if op = 0x05 || flush then tag else 0, imm := w.imm,
    fgen := if v.relaxed && sendsWrites op then v.fgen else 0 }

/-- Marks the last packet of a flagged message FLAGGED; PCOUNT comes into its AUX as it is sent. -/
def flagLast (hs : List Pkt) : List Pkt := hs.map (fun p => if p.last then { p with flagged := true } else p)

/-- The lane of an entry's flow (R262): a WRITE without FLAG of a relaxed queue spreads over up to TRN_RELAXED_FLOWS flows, each on
a port of its own; every other entry goes on lane 0. -/
def laneOf (s : State) (q n op : Nat) (w : Wqe) : Nat :=
  let v := s.queue q
  if v.relaxed && op = 0x03 && !w.flag then
    let ports := s.portsFor ((s.portsOf s.curEpoch w.dstMod).getD 0) v.cls
    n % max 1 (min (s.obj Obj.TRN_RELAXED_FLOWS 0) ports.length)
  else 0

/-- Sends an entry's message. -/
def sendEntry (s : State) (q n tag op : Nat) (w : Wqe) (data : List Byte) : State :=
  let v := s.queue q
  let fin := fun (_ : MsgFor) (r : Option Status) (s : State) => entryFin q n r s
  let base := if op = 0x03 || op = 0x04 || op = 0x05 then w.raddr else 0
  let proto := { entryProto s q tag op w with srcMod := s.moduleNum, aux := if op = 0x05 then w.len else 0 }
  let s := s.searched 1
  if s.dead w.dstMod then (fin .response (some .targetDead) s).bump Obj.RMF_TARGET_DEAD 0
  else if (s.portsOf s.curEpoch w.dstMod).isNone then fin .response (some .accessDenied) s
  else
    let ps := cutMsg proto base data
    let ps := if v.relaxed && isFlagged op w then flagLast ps else ps
    queueAt s w.dstMod v.cls (laneOf s q n op w) false
      (ps.map (fun p => ({ op := op, pkt := p, purpose := .entry q n, sent := 0 } : Held)))

/-- A posted buffer at HEAD of an RQ: LADDR, LKEY, LEN and WRID of its entry in the ring. -/
def postedBuffer (s : State) (v : Queue) : Nat × Nat × Nat × Nat :=
  let a := v.ring + v.head % v.size * 64
  (s.winNat v.ld (a + 0x10) 8, s.winNat v.ld (a + 0x18) 4, s.winNat v.ld (a + 0x1C) 4, s.winNat v.ld (a + 0x08) 8)

/-- The work queue entry of a posted buffer. -/
def bufferWqe (b : Nat × Nat × Nat × Nat) : Wqe :=
  { signal := true, flush := false, flag := false, dstMod := 0, dq := 0, wrid := b.2.2.2, laddr := b.1, lkey := b.2.1,
    len := b.2.2.1, raddr := 0, rkey := 0, imm := 0, wcq := 0, wcount := 0, reserved := false }

/-- The entry at the head of an SQ has a reserved OP (R255, R9): no command of the table carries it, so the device judges it as it
comes to the head, and it completes with TRANSPORT_ERROR. -/
def judgeHead (s : State) (q : Nat) : State :=
  let v := s.queue q
  let w := bufferWqe (postedBuffer s v)
  let op := s.winNat v.ld (v.ring + v.head % v.size * 64) 1
  if (1 ≤ op && op ≤ 5) || op = 0x20 || op = 0x21 || !mayStart s q op w then s
  else
    let x := startEntry s q op w
    endEntry x.2.2 q x.1 .transportError

/-- A SEND, SEND_IMM, WRITE, WRITE_IMM or READ entry (R255, R257): malformed ones complete with TRANSPORT_ERROR; the local
registration is checked; then its message is sent. -/
def entryRun (op q : Nat) (w : Wqe) (s : State) : State :=
  let x := startEntry s q op w
  let n := x.1
  let s := x.2.2
  let v := s.queue q
  if !wqeValid w op then endEntry s q n .transportError
  else if w.len = 0 then sendEntry s q n x.2.1 op w []
  else
    let use := if op = 0x05 then RegUse.localWrite else .localRead
    let g := s.reg (bitsOf w.lkey 0 16)
    match regCheck s w.lkey v.keyId w.laddr w.len use with
    | some st => endEntry s q n st
    | none =>
      if g.pallet ≠ v.pallet || g.ld ≠ v.ld then endEntry s q n .accessDenied
      else match reach s g.pallet w.laddr w.len (op = 0x05) with
        | (some st, s) => endEntry s q n st
        | (none, s) =>
          sendEntry s q n x.2.1 op w (if op = 0x05 then [] else s.vRead g.pallet w.laddr w.len)

/-- An entry of an SQ comes to the head: where its queue's context is cached and it may start, it runs, and the next entry is
judged. -/
def headEntry (op q : Nat) (w : Wqe) (run : State → State) (s : State) : State :=
  if (s.queue q).place ≠ 0 then startFetch s q
  else if !mayStart s q op w then s
  else judgeHead (run s) q

def runEntry (op q : Nat) (w : Wqe) (s : State) : State := headEntry op q w (entryRun op q w) s

/-- WAIT_CQ (R257): the queue starts no later entry until COUNT of WCQ, less WCOUNT as a signed 32-bit difference, is zero or
more; a WCQ of another LD or pallet completes it with ACCESS_DENIED. -/
def waitDone (s : State) (wcq wcount : Nat) : Bool := ((s.queue wcq).count + 2 ^ 32 - wcount) % 2 ^ 32 < 2 ^ 31

def waitRun (q : Nat) (w : Wqe) (s : State) : State :=
  let x := startEntry s q 0x20 w
  let s := x.2.2
  let v := s.queue q
  let c := s.queue w.wcq
  if !wqeValid w 0x20 then endEntry s q x.1 .transportError
  else if c.typ ≠ 2 || c.ld ≠ v.ld || c.pallet ≠ v.pallet then endEntry s q x.1 .accessDenied
  else if waitDone s w.wcq w.wcount then endEntry s q x.1 .ok
  else s.setQueue q { v with waits := some (w.wcq, w.wcount) }

def runWaitCq (q : Nat) (w : Wqe) (s : State) : State := headEntry 0x20 q w (waitRun q w) s

/-- The count awaited has been reached. -/
def waitSatisfied (q : Nat) (s : State) : State :=
  let v := s.queue q
  match v.waits with
  | none => s
  | some (c, n) =>
    if waitDone s c n then
      let s := s.setQueue q { v with waits := none }
      judgeHead (match v.entries.find? (fun e => e.op = 0x20 && e.ended.isNone) with
        | some e => endEntry s q e.n .ok
        | none => s) q
    else s

def runNop (q : Nat) (w : Wqe) (s : State) : State :=
  headEntry 0x21 q w (fun s =>
    let x := startEntry s q 0x21 w
    endEntry x.2.2 q x.1 (if wqeValid w 0x21 then .ok else .transportError)) s

/-! ## Arriving packets (R240, R257, R259 to R263) -/

/-- The tenant of a KEYID is that of a queue's KEYID. -/
def sameTenant (s : State) (keyId qKey : Nat) : Bool :=
  if keyId = 0 || qKey = 0 then keyId == qKey
  else s.slotTenant (bitsOf keyId 0 10) == s.slotTenant (bitsOf qKey 0 10)

/-- A packet of a relaxed queue may be placed (R263): a tracker is there or free, and a flagged packet finds its count. -/
def trackerOk (s : State) (p : Pkt) : Bool :=
  if !p.relaxed then true
  else
    let t := s.trn.trackers.find? (fun t => t.src == p.srcMod && t.sq == p.sq && t.fgen == p.fgen)
    let n := match t with
      | some t => t.count
      | none => 0
    if p.flagged then n + 1 == p.aux else t.isSome || s.trn.trackers.length < 2048

/-- Counts a placed packet of a relaxed queue; the flagged packet frees the tracker. -/
def trackerCount (s : State) (p : Pkt) : State :=
  if !p.relaxed then s
  else
    let mine := fun (t : Tracker) => t.src == p.srcMod && t.sq == p.sq && t.fgen == p.fgen
    let ts := s.trn.trackers
    let ts' := if p.flagged then ts.filter (fun t => !mine t)
      else if ts.any mine then mapIf ts mine (fun t => { t with count := t.count + 1 })
      else ts ++ [{ src := p.srcMod, sq := p.sq, fgen := p.fgen, count := 1 }]
    { s with trn := { s.trn with trackers := ts' } }

/-- The RQ entry bound to the message a packet belongs to. -/
def boundTo (v : Queue) (p : Pkt) : Option QEntry :=
  v.entries.find? (fun e => e.src == p.srcMod && e.sq == p.sq && e.ended.isNone)

/-- Takes the posted buffer at HEAD for a message. -/
def takeBuffer (s : State) (q op : Nat) (p : Pkt) : Nat × State :=
  let v := s.queue q
  let e : QEntry :=
    { n := v.head, w := bufferWqe (postedBuffer s v), op := op, epoch := p.epoch, tag := p.tag, fgen := 0, ended := none,
      bytes := 0, missing := 0, imm := none, acked := true, src := p.srcMod, sq := p.sq }
  (v.head, s.setQueue q { v with
    head := (v.head + 1) % 2 ^ 32, outst := v.outst + 1, entries := v.entries ++ [e], lastUse := s.now })

/-- Length of the message a FIRST packet opens (R238). -/
def msgLen (p : Pkt) : Nat := if p.flagged then p.data.length else p.aux

/-- The checks of R259 at the FIRST packet: the message takes the next posted buffer. A queue whose completions are held takes none
(R258); a buffer whose LEN is outside its range is a malformed entry (R255, R260). -/
def bindBuffer (s : State) (op : Nat) (p : Pkt) : Verdict × State :=
  let v := s.queue p.dq
  if v.state ≠ 1 || !(v.typ == 1 || v.typ == 3) || !sameTenant s p.keyId v.keyId then (.refuse .accessDenied, s)
  else if v.typ == 3 || v.head = v.tail || s.stalledQueue p.dq then (.notReady, s)
  else
    let b := postedBuffer s v
    let x := takeBuffer s p.dq op p
    if 2 ^ 30 < b.2.2.1 then (.refuse .accessDenied, endEntry x.2 p.dq x.1 .transportError)
    else if b.2.2.1 < msgLen p then (.refuse .accessDenied, endEntry x.2 p.dq x.1 .accessDenied)
    else
      let g := s.reg (bitsOf b.2.1 0 16)
      match regCheck s b.2.1 v.keyId b.1 b.2.2.1 .localWrite with
      | some st => (.refuse st, endEntry x.2 p.dq x.1 st)
      | none =>
        if g.pallet ≠ v.pallet || !s.vWritable g.pallet b.1 b.2.2.1 then
          (.refuse .accessDenied, endEntry x.2 p.dq x.1 .accessDenied)
        else (.accept, x.2)

/-- The target check of SEND, SEND_IMM and WRITE_IMM at their queue, after the registration check of a WRITE_IMM. A later packet of
a message finds the buffer's registration as the first did: once it is revoked nothing lands in it (R260, R266). -/
def sendCheck (op : Nat) (p : Pkt) (s : State) : Verdict × State :=
  if !trackerOk s p then (.notReady, s)
  else
    let pre : Option Status × State :=
      if op = 0x04 then
        match regJudge s p.rkey p.keyId p.addr p.data.length .write with
        | (some st, s) => (some st, s)
        | (none, s) => reach s (s.reg (bitsOf p.rkey 0 16)).pallet p.addr p.data.length true
      else (none, s)
    match pre with
    | (some st, s) => (.refuse st, s)
    | (none, s) =>
      if p.first then bindBuffer s op p
      else match boundTo (s.queue p.dq) p with
        | some e =>
          if op = 0x04 then (.accept, s)
          else match regCheck s e.w.lkey (s.queue p.dq).keyId (e.w.laddr + p.addr) p.data.length .localWrite with
            | some st => (.refuse st, endEntry s p.dq e.n st)
            | none => (.accept, s)
        | none => (.refuse .accessDenied, s)

/-- Sends FLUSH_ACK for a message that asks for it: its TAG is not 0 (R240, R257). -/
def sendFlushAck (s : State) (port : Nat) (p : Pkt) (st : Status) : State :=
  if p.tag = 0 then s else sendReplyTo s port 9 0 p 0 p.tag st

/-- A message that asks for FLUSH_ACK, its TAG not 0, has been placed: FLUSH_ACK waits for a flush of its range (R175, R257). -/
def flushThenAck (s : State) (port p : Nat) (pkt : Pkt) : State :=
  if pkt.tag = 0 then s else addFlush s { what := .flushAck port pkt, pallet := p, va := pkt.addr, len := pkt.data.length }

/-- Places a packet of a SEND, SEND_IMM or WRITE_IMM and reports the message at its LAST packet. -/
def sendPlace (port op : Nat) (p : Pkt) (s : State) : State :=
  let s := trackerCount s p
  match boundTo (s.queue p.dq) p with
  | none => s
  | some e =>
    let g := s.reg (bitsOf (if op = 0x04 then p.rkey else e.w.lkey) 0 16)
    let s := s.vWrite g.pallet (if op = 0x04 then p.addr else e.w.laddr + p.addr) p.data
    let s := s.onQueue p.dq (fun v => { v with
      entries := mapIf v.entries (fun x => x.n == e.n) (fun x => { x with
        bytes := x.bytes + p.data.length, imm := if op = 0x01 then none else some p.imm }) })
    if p.last then
      let s := endEntry s p.dq e.n .ok
      if op = 0x04 then flushThenAck s port g.pallet p else s
    else s

/-- A packet whose queue's context is not cached waits in the miss buffer (R254). -/
def missWrap (port op : Nat) (p : Pkt) (check : Pkt → State → Verdict × State) (place : Pkt → State → State) :
    (State → Verdict × State) × (State → State) :=
  (fun s =>
    if (s.queue p.dq).place = 0 && !(s.trn.missed.any (fun x => x.1 == p.dq)) then check p s
    else if 512 ≤ s.trn.missed.length then (.notReady, s.bump Obj.TRN_MISS_FULL 0)
    else (.accept, s),
   fun s =>
    if (s.queue p.dq).place = 0 && !(s.trn.missed.any (fun x => x.1 == p.dq)) then place p s
    else startFetch { s with trn := { s.trn with missed := s.trn.missed ++ [(p.dq, op, p, port)] } } p.dq)

/-- A SEND, SEND_IMM or WRITE_IMM packet arrives. -/
def recvSend (port op : Nat) (p : Pkt) (s : State) : State :=
  let w := missWrap port op p (sendCheck op) (sendPlace port op)
  gatePkt s port op p w.1 w.2

/-- A WRITE packet arrives. -/
def recvWrite (port : Nat) (p : Pkt) (s : State) : State :=
  gatePkt s port 0x03 p
    (fun s =>
      if !trackerOk s p then (.notReady, s)
      else match regJudge s p.rkey p.keyId p.addr p.data.length .write with
        | (some st, s) => (.refuse st, s)
        | (none, s) => match reach s (s.reg (bitsOf p.rkey 0 16)).pallet p.addr p.data.length true with
          | (some st, s) => (.refuse st, s)
          | (none, s) => (.accept, s))
    (fun s =>
      let g := s.reg (bitsOf p.rkey 0 16)
      let s := (trackerCount s p).vWrite g.pallet p.addr p.data
      if p.last then flushThenAck s port g.pallet p else s)

/-- A READ_REQ arrives: the data goes back as READ_RESP packets in the same class. -/
def recvReadReq (port : Nat) (p : Pkt) (s : State) : State :=
  gatePkt s port 0x05 p
    (fun s => match regJudge s p.rkey p.keyId p.addr p.aux .read with
      | (some st, s) => (.refuse st, s)
      | (none, s) => match reach s (s.reg (bitsOf p.rkey 0 16)).pallet p.addr p.aux false with
        | (some st, s) => (.refuse st, s)
        | (none, s) => (.accept, s))
    (fun s =>
      let data := s.vRead (s.reg (bitsOf p.rkey 0 16)).pallet p.addr p.aux
      sendMsg s (fun _ _ s => s) .response 0x06 p.cls
        { Pkt.zero with
          epoch := p.epoch, dstMod := p.srcMod, keyId := p.keyId, sq := p.dq, dq := p.sq, tag := p.tag } p.addr data)

/-- The outstanding READ entry with a tag. -/
def readEntry (s : State) (tag src : Nat) : Option (Nat × QEntry) :=
  s.trn.queues.findSome? (fun e => (e.2.entries.find? (fun x =>
    x.op = 0x05 && x.tag == tag && x.w.dstMod == src && x.ended.isNone)).map (fun x => (e.1, x)))

/-- A READ_RESP arrives: its data is placed locally; the last of it completes the READ (R257). -/
def recvReadResp (port : Nat) (p : Pkt) (s : State) : State :=
  gatePkt s port 0x06 p (fun s => (.accept, s))
    (fun s => match readEntry s p.tag p.srcMod with
      | none => s
      | some (q, e) =>
        if p.status ≠ .ok then endEntry s q e.n p.status
        else
          let g := s.reg (bitsOf e.w.lkey 0 16)
          match regCheck s e.w.lkey (s.queue q).keyId e.w.laddr e.w.len .localWrite with
          | some st => endEntry s q e.n st
          | none =>
            let s := s.vWrite g.pallet (e.w.laddr + (p.addr - e.w.raddr)) p.data
            let left := e.missing - p.data.length
            let s := s.onQueue q (fun v => { v with
              entries := mapIf v.entries (fun x => x.n == e.n) (fun x => { x with
                missing := left, bytes := x.bytes + p.data.length }) })
            if left = 0 then endEntry s q e.n .ok else s)

/-- A FLUSH_ACK ends the WRITE with FLUSH that its TAG names. -/
def flushAckAct (p : Pkt) (s : State) : State :=
  match s.trn.queues.findSome? (fun e => (e.2.entries.find? (fun x =>
      x.w.flush && x.tag == p.tag && x.w.dstMod == p.srcMod && x.ended.isNone)).map (fun x => (e.1, x.n))) with
  | some (q, n) => endEntry s q n p.status
  | none => s

/-! ## Context fetches (R253, R254) -/

/-- Hands the waiting packets of a queue over in arrival order; the first that is not ready stops them. -/
def deliverMissed : Nat → Nat → State → State
  | 0, _, s => s
  | n + 1, q, s => match s.trn.missed.find? (fun x => x.1 == q) with
    | none => s
    | some x =>
      let rest := s.trn.missed.eraseP (fun y => y.1 == q)
      match sendCheck x.2.1 x.2.2.1 s with
      | (.accept, s) => deliverMissed n q (sendPlace x.2.2.2 x.2.1 x.2.2.1 { s with trn := { s.trn with missed := rest } })
      | (.acceptHeld, s) => s
      | (.refuse _, s) => deliverMissed n q { s with trn := { s.trn with missed := rest } }
      | (.notReady, s) => s

/-- A fetch ends: the context is cached and the packets that waited for it are handed on. -/
def fetchDone (q : Nat) (s : State) : State :=
  let v := s.queue q
  if v.fetching && !(s.host.dmas.any (fun d => d.purpose == .context q)) then
    let s := s.setQueue q { v with place := 0, fetching := false, lastUse := s.now }
    deliverMissed 512 q (evictFor s q)
  else s

/-- A context idle for TRN_CTX_IDLE_US moves from HBM to host memory that its LD has granted (R253): the 256 bytes of it are
written at the least place of the grant that holds none. What stands in its device-private bytes is a free value. -/
def contextIdle (q : Nat) (s : State) : State :=
  let v := s.queue q
  let granted := s.objField Obj.TRN_CTX_HOST v.ld 8 8
  let slot := leastBelow (granted / 256) (fun k =>
    s.trn.queues.all (fun e => !(e.2.place == 2 && e.2.ld == v.ld && e.2.hostSlot == k)))
  match slot with
  | none => s
  | some k =>
    if v.place = 1 && !v.fetching && s.obj Obj.TRN_CTX_IDLE_US 0 * 1000 ≤ s.now - v.lastUse && (s.ld v.ld).busMaster then
      let x := s.fresh 1536
      let i := x.2.newId
      let a := s.objField Obj.TRN_CTX_HOST v.ld 0 8 + 256 * k
      let bs := queueBytes v ++ toBytes 192 x.1
      let s := i.2.setQueue q { v with place := 2, hostSlot := k }
      ({ s with host := { s.host with hostMem := memSplice s.host.hostMem (hostAddr v.ld a) bs } }).emit
        (.hostWrite i.1 v.ld a bs)
    else s

/-! ## Doorbells (R251, R368) -/

/-- A queue doorbell is for a READY queue of the LD, and its index leaves no more than the ring's size in use. -/
def queueDoorbell (o q index : Nat) (s : State) : State :=
  let v := s.queue q
  let s := s.bump Obj.HST_DOORBELLS o
  if v.state = 1 && (v.typ = 0 || v.typ = 1) && v.ld = o && (index % 2 ^ 32 + 2 ^ 32 - v.head) % 2 ^ 32 ≤ v.size then
    let s := s.setQueue q { v with tail := index % 2 ^ 32 }
    if v.place = 0 then judgeHead (deliverMissed 512 q s) q else startFetch s q
  else s.bump Obj.HST_DB_REFUSED o

/-- The consumer index of a CQ; completions held while it was full are written. -/
def cqDoorbell (o q index : Nat) (s : State) : State :=
  let v := s.queue q
  let s := s.bump Obj.HST_DOORBELLS o
  if v.state = 1 && v.typ = 2 && v.ld = o && (v.tail + 2 ^ 32 - index % 2 ^ 32) % 2 ^ 32 ≤ v.size then
    cqRelease (v.held.length + 1) q (s.setQueue q { v with head := index % 2 ^ 32 })
  else s.bump Obj.HST_DB_REFUSED o

/-! ## TRN_QMODIFY (R252) -/

/-- The LD an access acts for: 16 for the privileged view. -/
def State.issuer (s : State) (via : Via) : Option Nat :=
  if s.isPriv via then some 16 else viaLd via

/-- The issuer may modify the queue: it is in RESET, or of the issuer's LD, or the issuer is privileged. -/
def mayModify (s : State) (o q : Nat) : Bool := (s.queue q).state = 0 || (s.queue q).ld = o || o = 16

/-- Fields of a modify to READY are valid. -/
def qmodValid (m : QModify) (s : State) (o : Nat) : Bool :=
  let ringBytes := 2 ^ m.logSize * (if m.typ = 2 then 32 else 64)
  m.typ < 4 && m.cls < 4 && m.ring % 64 = 0
    && (m.typ = 3 || (6 ≤ m.logSize && m.logSize ≤ 16 && m.ring + ringBytes ≤ s.winSize o))
    && (m.keyId = 0 || (s.keyInstalled m.keyId && s.slotServes (bitsOf m.keyId 0 10) m.pallet.val))
    && (2 ≤ m.typ || ((s.queue m.cqn).ready 2 && (s.queue m.cqn).ld = o))

/-- Modify to READY. -/
def modifyReady (via : Via) (q : Nat) (m : QModify) (s : State) : State :=
  let o := (s.issuer via).getD 16
  s.objWrite via (s.issuer via).isSome (fun s =>
    if (s.queue q).state ≠ 0 || !mayModify s o q || !s.ownsPallet o m.pallet.val then (s, .accessDenied, [])
    else if m.keyId ≠ 0 && s.keyInstalled m.keyId && s.slotRetired (bitsOf m.keyId 0 10) then (s, .keyRetired, [])
    else if !qmodValid m s o then (s, .transportError, [])
    else
      let old := s.queue q
      let v : Queue := { Queue.reset with
        state := 1, typ := m.typ, relaxed := m.relaxed, pallet := m.pallet.val, ld := o, cls := m.cls, keyId := m.keyId,
        cqn := m.cqn, logSize := m.logSize, ring := m.ring, lastUse := s.now, errStatus := old.errStatus,
        pcount := old.pcount, tErr := old.tErr }
      (evictFor (s.setQueue q v) q, .ok, []))

/-- Completions that a CQ holds take effect with no record: the CQ takes records no longer. -/
def dropHeld (s : State) (cqn : Nat) : State :=
  let hs := (s.queue cqn).held
  hs.foldl (fun s h => flushedOut (s.onQueue h.1 (fun v =>
    { v with outst := v.outst - 1, count := (v.count + 1) % 2 ^ 32 })) h.1)
    (s.onQueue cqn (fun v => { v with held := [], heldSince := none }))

/-- Modify to RESET: from READY with nothing outstanding, or from ERROR. Nothing else of the context changes (R252). -/
def modifyReset (via : Via) (q : Nat) (m : QModify) (s : State) : State :=
  let o := (s.issuer via).getD 16
  s.objWrite via (s.issuer via).isSome (fun s =>
    let v := s.queue q
    if mayModify s o q && s.ownsPallet o m.pallet.val && ((v.state = 1 && v.outst = 0) || v.state = 3) then
      ((dropHeld s q).onQueue q (fun v => { v with state := 0 }), .ok, [])
    else (s, .accessDenied, []))

/-- Modify to ERROR: as an error event, with ERR_STATUS FLUSHED. -/
def modifyError (via : Via) (q : Nat) (m : QModify) (s : State) : State :=
  let o := (s.issuer via).getD 16
  s.objWrite via (s.issuer via).isSome (fun s =>
    if mayModify s o q && s.ownsPallet o m.pallet.val && (s.queue q).state = 1 then (queueError s q none .flushed, .ok, [])
    else (s, .accessDenied, []))

/-! ## Meanings -/

def execSend (port : PortNo) (pkt : Pkt) (t : Nat) (s : State) : Outcome := .next (recvSend port 0x01 pkt (s.at t))
def execSendImm (port : PortNo) (pkt : Pkt) (t : Nat) (s : State) : Outcome := .next (recvSend port 0x02 pkt (s.at t))
def execWrite (port : PortNo) (pkt : Pkt) (t : Nat) (s : State) : Outcome := .next (recvWrite port pkt (s.at t))
def execWriteImm (port : PortNo) (pkt : Pkt) (t : Nat) (s : State) : Outcome := .next (recvSend port 0x04 pkt (s.at t))
def execReadReq (port : PortNo) (pkt : Pkt) (t : Nat) (s : State) : Outcome := .next (recvReadReq port pkt (s.at t))
def execReadResp (port : PortNo) (pkt : Pkt) (t : Nat) (s : State) : Outcome := .next (recvReadResp port pkt (s.at t))
def execFlushAck (port : PortNo) (pkt : Pkt) (t : Nat) (s : State) : Outcome :=
  .next (gateAnswer (s.at t) port 9 pkt (flushAckAct pkt))
def execContextFetchDone (q : QueueNo) (t : Nat) (s : State) : Outcome := .next (fetchDone q (s.at t))
def execContextIdleMove (q : QueueNo) (t : Nat) (s : State) : Outcome := .next (contextIdle q (s.at t))
def execQueueDoorbell (o : OwnerNo) (q : QueueNo) (index t : Nat) (s : State) : Outcome :=
  .next (queueDoorbell o q index (s.at t))
def execCqDoorbell (o : OwnerNo) (q : QueueNo) (index t : Nat) (s : State) : Outcome :=
  .next (cqDoorbell o q index (s.at t))
def execWqeSend (q : QueueNo) (w : Wqe) (t : Nat) (s : State) : Outcome := .next (runEntry 0x01 q w (s.at t))
def execWqeSendImm (q : QueueNo) (w : Wqe) (t : Nat) (s : State) : Outcome := .next (runEntry 0x02 q w (s.at t))
def execWqeWrite (q : QueueNo) (w : Wqe) (t : Nat) (s : State) : Outcome := .next (runEntry 0x03 q w (s.at t))
def execWqeWriteImm (q : QueueNo) (w : Wqe) (t : Nat) (s : State) : Outcome := .next (runEntry 0x04 q w (s.at t))
def execWqeRead (q : QueueNo) (w : Wqe) (t : Nat) (s : State) : Outcome := .next (runEntry 0x05 q w (s.at t))
def execWaitCq (q : QueueNo) (w : Wqe) (t : Nat) (s : State) : Outcome := .next (runWaitCq q w (s.at t))
def execWaitCqSatisfied (q : QueueNo) (t : Nat) (s : State) : Outcome := .next (waitSatisfied q (s.at t))
def execNop (q : QueueNo) (w : Wqe) (t : Nat) (s : State) : Outcome := .next (runNop q w (s.at t))
def execQmodifyReady (via : Via) (q : QueueNo) (m : QModify) (t : Nat) (s : State) : Outcome :=
  .next (modifyReady via q m (s.at t))
def execQmodifyReset (via : Via) (q : QueueNo) (m : QModify) (s : State) : Outcome := .next (modifyReset via q m s)
def execQmodifyError (via : Via) (q : QueueNo) (m : QModify) (t : Nat) (s : State) : Outcome :=
  .next (modifyError via q m (s.at t))
def execRegister (o : OwnerNo) (r : RingNo) (tag : Nat) (p : PalletNo) (access keyId va length t : Nat) (s : State) :
    Outcome := .next (register o r tag p access keyId va length (s.at t))
def execRevoke (o : OwnerNo) (r : RingNo) (tag rkey t : Nat) (s : State) : Outcome := .next (revoke o r tag rkey (s.at t))
def execRevokeDrained (idx : Fin 65536) (t : Nat) (s : State) : Outcome := .next (revokeDrained idx (s.at t))
def execRegistrationFree (idx : Fin 65536) (t : Nat) (s : State) : Outcome := .next (registrationFree idx (s.at t))

end Sys2Proof.Machine
end

