-- ==== Sys2Proof/Machine/ReqOps.lean ====
section
/-! DEFINITION. Operations over requests and running steps that several families share (chapters 05, 06, 11, 13): slots and
handles, spans, spill slots, freeing a request, answers to attention calls, result records, and collective aborts. -/

namespace Sys2Proof.Machine

/-! ## Requests -/

def State.request? (s : State) (slot : Nat) : Option Request := NMap.get? s.req.requests slot

def State.setRequest (s : State) (slot : Nat) (r : Request) : State :=
  { s with req := { s.req with requests := NMap.ins s.req.requests slot r } }

/-- What a resident request has before anything is known of it. -/
def ReqLocal.zero : ReqLocal :=
  { lmax := 0, load := { b := 0, m := 0, g := 0, share := 0 }, owner := 0, spill := [], shared := 0, release := none,
    reserve := none, regroup := none, update := none, cancel := none, refresh := none, refreshDue := false,
    wholeShards := [], committed := [], kept := [], deadMembers := [], parked := false, selection := [], uncorr := false, halted := [], fallbacks := 0, written := 0 }

def State.reqLocal (s : State) (slot : Nat) : ReqLocal := (NMap.get? s.req.locals slot).getD ReqLocal.zero

def State.setLocal (s : State) (slot : Nat) (v : ReqLocal) : State :=
  { s with req := { s.req with locals := NMap.ins s.req.locals slot v } }

def State.onRequest (s : State) (slot : Nat) (f : Request → Request) : State := match s.request? slot with
  | some r => s.setRequest slot (f r)
  | none => s

def State.onLocal (s : State) (slot : Nat) (f : ReqLocal → ReqLocal) : State := s.setLocal slot (f (s.reqLocal slot))

/-- The slot of a handle (R131). -/
def slotOf (handle : Nat) : Nat := handle / 4096

/-- The resident request a handle names, slot and generation. -/
def State.byHandle (s : State) (handle : Nat) : Option (Nat × Request) := match s.request? (slotOf handle) with
  | some r => if r.handle = handle then some (slotOf handle, r) else none
  | none => none

/-- The resident request of a RID. -/
def State.byRid (s : State) (rid : Nat) : Option (Nat × Request) := List.find? (fun e => e.2.rid == rid) s.req.requests

/-! ## Handles (R131 to R133) -/

/-- The slot to issue next: free and past its quarantine, free longest; slots never used come first, in ascending order. -/
def pickSlot (s : State) : Option Nat :=
  let ready := fun (k : Nat) => match NMap.get? s.req.hslots k with
    | none => true
    | some h => match h.freedAt with
      | none => false
      | some a => a + s.obj Obj.RQS_QUARANTINE 0 ≤ s.now
  let max := s.obj Obj.RQS_SLOTS_MAX 0
  match leastBelow (max + 1) (fun k => 1 ≤ k && (NMap.get? s.req.hslots k).isNone) with
  | some k => some k
  | none => (s.req.hslots.foldl (fun (a : Option (Nat × Nat)) e =>
      if 1 ≤ e.1 && e.1 ≤ max && ready e.1 then
        match a with
        | none => some (e.1, e.2.freedAt.getD 0)
        | some b => if e.2.freedAt.getD 0 < b.2 then some (e.1, e.2.freedAt.getD 0) else a
      else a) none).map (·.1)

/-- Issues a slot: its handle takes the generation + 1, with 0xFFF followed by 0x001. -/
def issueSlot (s : State) (k : Nat) : Nat × State :=
  let g := match NMap.get? s.req.hslots k with
    | some h => if h.gen = 0xFFF then 1 else h.gen + 1
    | none => 1
  (k * 4096 + g, { s with req := { s.req with hslots := NMap.ins s.req.hslots k { gen := g, freedAt := none } } })

/-- Stamps a freed slot for its quarantine (R132). -/
def freeSlot (s : State) (k : Nat) : State := match NMap.get? s.req.hslots k with
  | some h => { s with req := { s.req with hslots := NMap.ins s.req.hslots k { h with freedAt := some s.now } } }
  | none => s

/-! ## Spans (R162 to R164) -/

/-- The lowest free span of a pallet. -/
def pickSpan (s : State) (p : Nat) : Option Nat :=
  (leastBelow (s.spans p) (fun k => !(s.req.requests.any (fun e => e.2.pallet == p && e.2.vbase == s.spanStart p k)))).map
    (s.spanStart p)

/-! ## The reservation (R303) -/

/-- Spill slots reserved in frames, and the count tables. -/
def countFrames (blocks : List Block) : Nat :=
  sumOf (blocks.filter (fun b => 0 < b.window)) (fun b => ceilDiv (roundUp (64 + 4 * b.window + 2 * b.vocab) 64) 8192)

/-- D of R303. -/
def dataPages (s : State) (p : Nat) (g : Geom) (nmax : Nat) : Nat :=
  g.nlayer * g.nkv * nmax + g.dlayer * g.dnkv * (s.obj Obj.DRF_WINDOW_PAGES p + 2)

/-- Frames of a reservation of D data pages. -/
def resFrames (g : Geom) (d spill nmax : Nat) (blocks : List Block) : Nat :=
  d + ceilDiv d 8 + g.nlayer * g.nkv * ceilDiv nmax 1024 + ceilDiv spill 256 + countFrames blocks + 1

/-- n_max of a resident request, from its RES_PAGES (R306). -/
def nmaxOf (s : State) (p : Nat) (g : Geom) (resPages : Nat) : Nat :=
  (resPages - g.dlayer * g.dnkv * (s.obj Obj.DRF_WINDOW_PAGES p + 2)) / max 1 (g.nlayer * g.nkv)

/-- Frames reserved by a request. -/
def reqFrames (s : State) (r : Request) : Nat :=
  resFrames r.geom r.resPages r.resSpill (nmaxOf s r.pallet r.geom r.resPages) r.blocks

/-! ## Spill slots (R70, R76, R491, R499) -/

/-- Spill slots of the shared pool in use on a pallet. -/
def sharedUsed (s : State) (p : Nat) : Nat := sumOf (s.requestsOf p) (fun e => (s.reqLocal e.1).shared)

/-- Spill slots of the shared pool still free on a pallet. -/
def sharedFree (s : State) (p : Nat) : Nat := s.obj Obj.FMT_SPILL_SHARED p - sharedUsed s p

/-- Spill slots of a pallet in use, by index. -/
def spillUsed (s : State) (p : Nat) : List Nat := (s.requestsOf p).flatMap (fun e => (s.reqLocal e.1).spill)

/-- Maps the page that holds an address, if it is not mapped. -/
def ensurePage (s : State) (p va keyslot : Nat) : Option State :=
  if (s.leaf? p va).isSome then some s else s.mapNew p (va / 8192 * 8192) 1 keyslot 0

/-- Maps every page of a range that is not mapped. -/
def ensureRange (s : State) (p va n keyslot : Nat) : Option State :=
  (pagesOf va n).foldl (fun a k => match a with
    | some s => ensurePage s p (k * 8192) keyslot
    | none => none) (some s)

/-- Maps the pages of a request's CTRL, COUNT and INDEX regions that are not mapped, without W: only the device writes them. A parked
request keeps CTRL alone (R204). A page for which no frame is free is left out (log entry 104). -/
def mapRecords (s : State) (slot : Nat) : State := match s.request? slot with
  | none => s
  | some r => (if (s.reqLocal slot).parked then [r.vbase] else recordPages s r).foldl (fun s va =>
      if (s.leaf? r.pallet va).isSome then s
      else match s.takeFrames r.pallet 0 1 with
        | some ([f], s) =>
          s.setLeaf r.pallet va { write := false, tier := .hbm, ld := 0, target := f, keyslot := r.keyslot }
        | _ => s) s

/-- Takes a spill slot for a request: from its reservation, or else from the shared pool; none where neither has one (R76).
The lowest free index of the pallet is taken and its page mapped. -/
def takeSpill (s : State) (slot : Nat) : Option (Nat × State) := match s.request? slot with
  | none => none
  | some r =>
    let l := s.reqLocal slot
    let own := l.spill.length - l.shared < r.resSpill
    let used := spillUsed s r.pallet
    if !own && sharedFree s r.pallet = 0 then none
    else match leastBelow (used.length + 1) (fun i => !used.contains i) with
      | none => none
      | some i => match ensurePage s r.pallet (spillVa i) r.keyslot with
        | none => none
        | some s =>
          some (i, s.setLocal slot { l with spill := i :: l.spill, shared := if own then l.shared else l.shared + 1 })

/-- Frees a spill slot: it returns to the shared pool first (R491). -/
def dropSpill (s : State) (slot i : Nat) : State :=
  s.onLocal slot (fun l => if l.spill.contains i then
    { l with spill := l.spill.filter (fun k => k ≠ i), shared := l.shared - 1 } else l)

/-! ## Freeing pages and requests (R132, R151, R308) -/

/-- Unmaps pages that a request frees: while a refresh of its copy reads them, their frames stay until it commits (R151). -/
def unmapPages (s : State) (slot p first count : Nat) : State :=
  if (s.reqLocal slot).refresh.isNone then s.unmapRange p first count
  else
    let gone := s.mem.leaves.filter (fun e => p * 2 ^ 35 + first ≤ e.1 && e.1 < p * 2 ^ 35 + first + count)
    let s := gone.foldl (fun s e =>
      let s := s.invalidateLeaf p e.1
      { s with mem := { s.mem with leaves := NMap.del s.mem.leaves e.1 } }) s
    s.onLocal slot (fun l => { l with
      kept := l.kept ++ gone.filterMap (fun e => if e.2.tier == .hbm then some e.2.target else none) })

/-- Frees the frames that a refresh has kept. -/
def freeKept (s : State) (slot : Nat) : State :=
  (s.reqLocal slot).kept.foldl State.freeFrame (s.onLocal slot (fun l => { l with kept := [] }))

/-- Unmaps a request's span, returns its spill slots and load, and stamps its slot. -/
def freeRequest (s : State) (slot : Nat) : State := match s.request? slot with
  | none => s
  | some r =>
    let s := (freeKept s slot).unmapRange r.pallet (r.vbase / 8192) (s.spanSize r.pallet / 8192)
    let s := { s with req := { s.req with
      requests := NMap.del s.req.requests slot, locals := NMap.del s.req.locals slot,
      incs := s.req.incs.filter (fun m => m.handle ≠ r.handle) } }
    freeSlot s slot

/-! ## The running step -/

/-- The entry of a pallet's running step that names a request's slot. -/
def State.entryOf (s : State) (p slot : Nat) : Option (Nat × EntryRun) := match (s.pallet p).run with
  | none => none
  | some run => match run.entries.findIdx? (fun e => e.slot == some slot) with
    | some i => (run.entries[i]?).map (fun e => (i, e))
    | none => none

/-- A step of the pallet that names the slot is running. -/
def State.inStep (s : State) (p slot : Nat) : Bool := (s.entryOf p slot).isSome

def State.onRun (s : State) (p : Nat) (f : StepRun → StepRun) : State :=
  s.onPallet p (fun q => { q with run := q.run.map f })

/-- Changes one entry of the running step. -/
def State.onEntryRun (s : State) (p i : Nat) (f : EntryRun → EntryRun) : State :=
  s.onRun p (fun r => { r with entries := match r.entries[i]? with
    | some e => r.entries.set i (f e)
    | none => r.entries })

/-- The epoch a pallet's packets carry: that of its running step, or the current one (R276). -/
def State.stepEpoch (s : State) (p : Nat) : Nat := match (s.pallet p).run with
  | some r => r.epoch
  | none => s.curEpoch

/-- Arrivals that the device sends to a step's counter itself (R313, R493); the tag is the step's. -/
def deviceArrivals (s : State) (k tag n : Nat) : State :=
  if n = 0 then s else s.emit (.arrive k n tag)

/-! ## Home registers (R134, R136) -/

/-- The 32 bytes of a home register (R134). -/
def HomeReg.bytes (h : HomeReg) : List Byte :=
  pack [(h.handle, 4), (h.homeMod, 2), (0, 2), (h.homeSeq, 4), (h.copyVer, 4), (h.cstep, 4), (0, 4), (h.tHome, 8)]

/-- The home register that a rack memory load at a region and offset reads here. -/
def State.homeAt (s : State) (region addr : Nat) : Option HomeReg :=
  if region = Config.homeRegion then (List.find? (fun e => Config.homeOffset e.1 == addr) s.req.homes).map (·.2) else none

/-! ## Attention answers -/

/-- The 64-byte answer header (R91). T_HDR is stamped when the packet starts to leave (`transmit`). -/
def answerHeader (c : CallRun) (st : Status) (flags omega widen pages tHdr : Nat) : List Byte :=
  padTo 64 (pack [(c.call.handle, 4), (c.call.step, 4), (c.call.layer % 256, 1), (statusCode st, 1), (c.call.part, 1),
    (flags, 1), (omega, 2), (widen, 2), (pages, 4), (0, 4), (c.tArr, 8), (tHdr, 8)])

/-- Time since a call's arrival during which the partner held the answer's class paused (R93): class 4 of the call's port. -/
def State.heldNs (s : State) (c : CallRun) : Nat := s.pausedNs c.port 4 - c.paused0

/-- An answer is held under PFC: its class has been paused since the call arrived, or is paused now. -/
def State.heldUnderPfc (s : State) (c : CallRun) : Bool := 0 < s.heldNs c || s.paused c.port 4

/-- The pallet in which an answer to a call counts: its request's, or its service queue's where the handle names none. -/
def State.answerPallet (s : State) (c : CallRun) : Nat := match s.byHandle c.call.handle with
  | some (_, r) => r.pallet
  | none => c.pallet

/-- Sends an ATT_ANSWER to the calling accelerator's queue (R240). A DECODE answer held under PFC is counted (R93). -/
def sendAnswer (s : State) (c : CallRun) (payload : List Byte) : State :=
  let s := if !c.call.bulk && s.heldUnderPfc c then s.bump Obj.ATT_PAUSED (s.answerPallet c) else s
  sendMsg s (fun _ _ s => s) .answer 0x11 4
    { Pkt.zero with
      epoch := s.stepEpoch c.pallet, dstMod := c.srcMod, keyId := c.keyId, dq := c.sq, sq := c.svq } 0 payload

/-- Answers a call with a status and no output. -/
def refuseCall (s : State) (c : CallRun) (st : Status) : State :=
  if c.answered then s else sendAnswer s c (answerHeader c st 0 0 0 0 s.now)

/-- Answers the calls that satisfy a test, held or running, and forgets them. -/
def endCallsIf (s : State) (mine : CallRun → Bool) (st : Status) : State :=
  let s' := (s.req.calls.filter mine).foldl (fun s c => refuseCall s c st) s
  { s' with req := { s'.req with calls := s'.req.calls.filter (fun c => !mine c) } }

/-- Answers every call of a request. -/
def endCalls (s : State) (handle : Nat) (st : Status) : State := endCallsIf s (fun c => c.call.handle == handle) st

/-- Answers the calls of one step of a request: those held for its next step stay (R89). -/
def endStepCalls (s : State) (handle step : Nat) (st : Status) : State :=
  endCallsIf s (fun c => c.call.handle == handle && c.call.step == step) st

/-! ## Result records (R126, R127) -/

/-- A request entry of a result record. -/
def resultEntry (handle step : Nat) (st : Status) (frames : List (List Nat)) (nstream : Nat) (stopped sampled nostep : Bool)
    (nnodes accepted ctxlen tDone : Nat) : List Byte :=
  let body := pack [(handle, 4), (step, 4),
    (statusCode st + frames.length * 2 ^ 8 + nstream * 2 ^ 13 + b2n stopped * 2 ^ 18 + b2n sampled * 2 ^ 19
      + b2n nostep * 2 ^ 20, 4),
    (nnodes + accepted * 2 ^ 6, 4), (ctxlen, 4), (0, 4), (tDone, 8)]
    ++ frames.flatMap (fun f => f.flatMap (fun tok => toBytes 4 tok))
  padTo (roundUp body.length 8) body

/-- A whole record. -/
def resultRecord (batch refused tStart tEnd : Nat) (entries : List (List Byte)) : List Byte :=
  let len := 64 + sumOf entries List.length
  recordHeader batch entries.length refused len tStart tEnd ++ entries.flatten

/-- Posts a record to the RESULT ring that a STEP ring names, and ends the STEP ring's entry. -/
def postResult (s : State) (o r : Nat) (bs : List Byte) : State :=
  entryEnded (postRecord s o (s.ring o r).target (s.ring o r).pallet bs) o r

/-- Posts the record of a step that has run, unless its LD was reset while it ran (R379). -/
def postRun (s : State) (run : StepRun) (bs : List Byte) : State :=
  if run.discarded then s else postResult s run.o run.r bs

/-! ## Stalls (R178, R179)

A cause is its code less 1: 5 is STATE_IN_MOVE, 3 HOST_LATE, 2 REMOTE_LATE. A wait that the state holds is counted when STALL_THRESHOLD
names it, at a call's deadline, and at its end, whatever ends it; it counts as one brick's (log entry 129). -/

/-- A trace sample of a stall that begins or ends; where the wait names no brick, the sample's is a free value. -/
def stallSample (s : State) (p cause : Nat) (ends : Bool) (brick : Option Nat) : State :=
  let f := match brick with
    | some b => (b, s)
    | none => s.fresh 11
  traceSample f.2 4 p (f.1 % 1200 + (cause + 1) * 2 ^ 11 + b2n ends * 2 ^ 14)

/-- A wait that began at an instant, of which some nanoseconds are counted already: beyond MEM_STALL_NS it is a stall of the cause,
with one event, and its nanoseconds up to now are added. What is counted then. -/
def stallWait (s : State) (p cause since counted : Nat) : Nat × State :=
  let ns := s.now - since
  if ns ≤ s.obj Obj.MEM_STALL_NS p then (counted, s)
  else
    let s := if counted = 0 then stallSample (s.bump (Obj.MEM_STALL_EVENTS + cause) p) p cause false none else s
    (ns, s.bumpBy (Obj.MEM_STALL_NS_SUM + cause) p (ns - counted))

/-- The wait is over. -/
def stallOver (s : State) (p cause since counted : Nat) : State :=
  let r := stallWait s p cause since counted
  if r.1 = 0 then r.2 else stallSample r.2 p cause true none

/-- The hold of entry i of a running step ends (R13, R140). -/
def endHold (s : State) (p i : Nat) : State := match (s.pallet p).run with
  | none => s
  | some run => match run.entries[i]? with
    | none => s
    | some e => if e.held.isNone then s
      else (stallOver s p 5 e.heldAt e.stalled).onEntryRun p i (fun e => { e with held := none, stalled := 0 })

/-- Gather reads end. -/
def endGathers (s : State) (gone : GatherRead → Bool) : State :=
  let s := (s.rmf.gathers.filter gone).foldl (fun s g => stallOver s g.pallet 2 g.since g.stalled) s
  { s with rmf := { s.rmf with gathers := s.rmf.gathers.filter (fun g => !gone g) } }

/-- An access to host memory is over: where it read a page, the wait of the page's token ends. -/
def Dma.endWait (d : Dma) (s : State) : State := match d.purpose with
  | .page p _ => stallOver s p 3 d.since d.stalled
  | _ => s

/-- Accesses to host memory are over. -/
def endDmas (s : State) (gone : Dma → Bool) : State :=
  let s := (s.host.dmas.filter gone).foldl (fun s d => d.endWait s) s
  { s with host := { s.host with dmas := s.host.dmas.filter (fun d => !gone d) } }

/-- Counts the hold of an entry that names a request, so far. -/
def stallHold (s : State) (p handle i : Nat) : State := match (s.pallet p).run with
  | none => s
  | some run => match run.entries[i]? with
    | none => s
    | some e =>
      if e.d.handle ≠ handle || e.held.isNone then s
      else
        let r := stallWait s p 5 e.heldAt e.stalled
        r.2.onEntryRun p i (fun e => { e with stalled := r.1 })

/-- Counts the waits that hold up a request so far: its entry's hold, and the reads of its pages in host memory. -/
def stallRequest (s : State) (p handle : Nat) : State :=
  let n := match (s.pallet p).run with
    | none => 0
    | some run => run.entries.length
  let s : State := (List.range n).foldl (fun s i => stallHold s p handle i) s
  (s.host.dmas.filter (fun d => d.purpose == .page p handle)).foldl (fun s d =>
    let r := stallWait s p 3 d.since d.stalled
    { r.2 with host := { r.2.host with dmas := mapIf r.2.host.dmas (fun x => x.id == d.id) (fun x => { x with stalled := r.1 }) } }) s

/-- Counts the waits for a window's data so far. -/
def stallGathers (s : State) (p : Nat) : State :=
  (s.rmf.gathers.filter (fun g => g.pallet == p)).foldl (fun s g =>
    let r := stallWait s p 2 g.since g.stalled
    { r.2 with rmf := { r.2.rmf with
      gathers := mapIf r.2.rmf.gathers (fun x => x.tag == g.tag) (fun x => { x with stalled := r.1 }) } }) s

/-! ## Collective groups (R282, R283, R422) -/

/-- A fault in the step of a request's group is known here (R282). -/
def State.abortedStep (s : State) (rid step : Nat) : Bool := s.rmf.aborted.any (fun a => a.2.1 == rid && a.2.2.1 == step)

/-- A COLL_ABORT payload (R282). -/
def abortBytes (a : CollAbort) : List Byte :=
  pack [(a.gid, 2), (statusCode a.reason, 1), (0, 1), (a.step, 4), (a.rid, 8), (a.tDetect, 8), (a.origin, 2), (0, 6)]

/-- Sends a COLL_ABORT to one module, on two different ports where two are UP. -/
def sendAbort (s : State) (a : CollAbort) (dst : Nat) : State :=
  let s := sendMsg s (fun _ _ s => s) (.abort a.gid a.step dst) 0x30 6
    { Pkt.zero with epoch := s.curEpoch, dstMod := dst } 0 (abortBytes a)
  match (s.flowFor dst 6).bind (fun i => (s.flow? i)) with
  | none => s
  | some f => match f.unacked.reverse with
    | [] => s
    | h :: _ =>
      let ports := (s.portsOf s.curEpoch dst).getD 0
      match (List.range 12).find? (fun k => bitOf ports k && k ≠ f.port && (s.port k).isUp) with
      | some k => emitPkt s k 0x30 h.pkt
      | none => s

/-- The count rule that a descriptor's target follows (R312): BASE, PER_REQ, PER_TOKEN. -/
def descRule (d : StepDesc) (m : Manifest) : Nat × Nat × Nat :=
  m.counts.getD (if d.kind = 2 then 1 else 0) (0, 0, 0)

/-- The arrivals that the work of an entry not put on the claim ring would have sent (R312, R493): all of them where the work was
held. How much of other work had been put is a free value (log entry 72). -/
def unputArrivals (s : State) (run : StepRun) (e : EntryRun) (m : Manifest) : Nat × State :=
  let c := descRule run.desc m
  let all := c.2.1 + c.2.2 * e.d.ntok
  if e.held.isSome then (all, s)
  else
    let f := s.fresh 32
    (f.1 % (all + 1), f.2)

/-- Adds a status to an entry of a running step. Its work ends at once: the device sends the arrivals of the work not put to the
step's counter (R493). -/
def endEntryRun (s : State) (p i : Nat) (st : Status) : State := match (s.pallet p).run, (s.pallet p).loaded with
  | some run, some l => match run.entries[i]? with
    | none => s
    | some e =>
      let n := if e.ended then (0, s) else unputArrivals s run e l.manifest
      deviceArrivals ((endHold n.2 p i).onEntryRun p i (fun e => { e with statuses := st :: e.statuses, ended := true }))
        run.counter run.tag n.1
  | _, _ => s

/-- A member detects a fault in a group's step (R282): once for a GID, RID and STEP, it tells every other member and ACCEL,
answers the request's calls with TARGET_DEAD, and ends its entry. -/
def collDetect (s : State) (rid step : Nat) (reason : Status) (tDetect origin : Nat) : State :=
  let s := s.searched 1
  match s.groupOf s.curEpoch rid with
  | none => s
  | some g =>
    if s.rmf.aborted.any (fun a => a.1 == g.key && a.2.1 == rid && a.2.2.1 == step) then s
    else
      let a : CollAbort := { gid := g.key, reason := reason, step := step, rid := rid, tDetect := tDetect, origin := origin }
      let s := { s with rmf := { s.rmf with aborted := (g.key, rid, step, tDetect) :: s.rmf.aborted } }
      let others := (g.members ++ [g.accel]).filter (fun m => m ≠ s.moduleNum && m ≠ 0xFFFF)
      let s := others.foldl (fun s m => sendAbort s a m) s
      let s := (s.bump Obj.RMF_COLL_ABORTS 0).raise 0x42
        [(g.key, 2), (statusCode reason, 1), (0, 1), (step, 4), (origin, 2)]
      match s.byRid rid with
      | none => s
      | some (slot, r) =>
        let s := endStepCalls s r.handle step .targetDead
        match s.entryOf r.pallet slot with
        | some (i, e) => if e.d.step = step then endEntryRun s r.pallet i .targetDead else s
        | none => s

/-- Entry i of a running step would end with a status other than OK or FORMAT_FALLBACK: for the request of a collective group
this is a fault in the group's step (R282). An entry with NOSTEP set is no entry of the group's step. -/
def entryFault (s : State) (p i : Nat) (st : Status) : State :=
  match (s.pallet p).run with
  | none => s
  | some run => match run.entries[i]? with
    | none => s
    | some e => match e.slot.bind s.request? with
      | some r => if e.nostep then s else collDetect s r.rid e.d.step st s.now s.moduleNum
      | none => s

/-- Ends the work of an entry of a running step with a status (R493). -/
def failEntry (s : State) (p i : Nat) (st : Status) : State := entryFault (endEntryRun s p i st) p i st

/-- An entry of a running step carries a further status, and its work goes on. -/
def markEntry (s : State) (p i : Nat) (st : Status) : State :=
  entryFault (s.onEntryRun p i (fun e => { e with statuses := e.statuses ++ [st] })) p i st

end Sys2Proof.Machine
end

