-- ==== Sys2Proof/Machine/Load.lean ====
section
/-! DEFINITION. The memory reservation and the step-time load of a request (R303 to R307), and the step boundary's part of an
accepted reserve. -/

namespace Sys2Proof.Machine

/-- HDIM of a code (R86): 32, 64, 96, 128. -/
def hdimOf (code : Nat) : Nat := 32 * (code + 1)

/-- Bytes of the element area of a page, by PFMT: MXFP4 and MXINT4 8,192, K3 6,144, K2 4,096 (R82). -/
def elemArea (pfmt : Nat) : Nat := if pfmt = 2 then 6144 else if pfmt = 3 then 4096 else 8192

/-- n_r of R304. -/
def loadPages (s : State) (p lmax : Nat) : Nat :=
  let n := ceilDiv lmax 64
  if n ≤ s.obj Obj.ATT_DENSE_LIMIT p then n
  else s.obj Obj.ATT_SINK_PAGES p + s.obj Obj.ATT_RECENT_PAGES p + s.obj Obj.ATT_SEL_PAGES p

/-- The pallet that drafts for a pallet: none where DRF_PALLET is 0xFF, or names a pallet with no loaded DRAFT image, one whose
image is still being loaded, or a halted one (R108, R304). -/
def draftPallet (s : State) (p : Nat) : Option Nat :=
  let d := s.obj Obj.DRF_PALLET p
  if d < 16 && (s.pallet d).kind = 3 && (s.pallet d).state ≠ .halted && (s.pallet d).state ≠ .loading then some d else none

/-- B_r, M_r and G_r of a request on a pallet with a loaded image, and its share in parts per million (R304, R305). -/
def loadFigures (s : State) (p pfmt : Nat) (g : Geom) (lmax : Nat) : LoadFig :=
  match (s.pallet p).loaded with
  | none => { b := 0, m := 0, g := 0, share := 0 }
  | some im =>
    if s.role = 3 then { b := 0, m := 0, g := 0, share := 0 }
    else
      let n := loadPages s p lmax
      let nodes := if im.manifest.kind = 1 then s.obj Obj.DRF_NODES p else 64
      let b := g.nlayer * g.nkv * n * (elemArea pfmt + 512)
      let m := 2 * g.nlayer * im.manifest.nqh * nodes * 64 * n * hdimOf g.hdimc
      let d := match draftPallet s p with
        | some d => (match (s.pallet d).loaded with
          | some di => di.manifest.macPerNode * s.obj Obj.DRF_NODES p
          | none => 0)
        | none => 0
      let t := s.obj Obj.SCH_STEP_BUDGET_NS p
      let f := s.obj Obj.SCH_PLAN_MHZ p
      let pm := s.obj Obj.SCH_HBM_SHARE_PM p
      let byB := if pm = 0 then 0 else ceilDiv (b * 1000 * 1000000) (pm * 20480 * t)
      let byM := ceilDiv (m * 1000 * 1000000) ((s.rect p).size * 2048 * f * t)
      { b := b, m := m, g := d, share := max byB byM }

/-- The load charged on a pallet by its requests other than one. -/
def chargedLoad (s : State) (p : Nat) (skip : Option Nat) (f : LoadFig → Nat) : Nat :=
  sumOf ((s.requestsOf p).filter (fun e => skip ≠ some e.1)) (fun e => f (s.reqLocal e.1).load)

/-- The draft load of the requests, other than one, of every pallet that a draft pallet drafts for. -/
def chargedDraft (s : State) (d : Nat) (skip : Option Nat) : Nat :=
  sumOf (s.req.requests.filter (fun e => skip ≠ some e.1 && s.obj Obj.DRF_PALLET e.2.pallet == d))
    (fun e => (s.reqLocal e.1).load.g)

/-- Check 8 of R302: the three sums with a new load figure. -/
def loadFits (s : State) (p : Nat) (l : LoadFig) (skip : Option Nat) : Bool :=
  let t := s.obj Obj.SCH_STEP_BUDGET_NS p
  let f := s.obj Obj.SCH_PLAN_MHZ p
  let pm := s.obj Obj.SCH_HBM_SHARE_PM p
  let lim := s.obj Obj.SCH_LOAD_LIMIT_PM p
  let okB := pm = 0 || (chargedLoad s p skip (·.b) + l.b) * 1000000 ≤ lim * pm * 20480 * t
  let okM := (chargedLoad s p skip (·.m) + l.m) * 1000000 ≤ lim * ((s.rect p).size * 2048 * f * t)
  let okG := match draftPallet s p with
    | none => true
    | some d => (chargedDraft s d skip + l.g) * 1000000 ≤ lim * ((s.rect d).size * 8192 * f * t)
  okB && okM && okG

/-- Frames of a reservation for LMAX on a pallet, with RES_PAGES and RES_SPILL (R303). -/
def reservation (s : State) (p : Nat) (g : Geom) (lmax : Nat) (blocks : List Block) : Nat × Nat × Nat :=
  let n := ceilDiv lmax 64
  let d := dataPages s p g n
  let spill := d * s.obj Obj.FMT_SPILL_PER_PAGE p
  (resFrames g d spill n blocks, d, spill)

/-- Frames reserved by a resident request, or by its accepted reserve where that is larger. -/
def heldFrames (s : State) (slot : Nat) (r : Request) : Nat :=
  match (s.reqLocal slot).reserve with
  | none => reqFrames s r
  | some lmax => max (reqFrames s r) (reservation s r.pallet r.geom lmax r.blocks).1

/-- Frames of the IMAGE region of a pallet: the image pages mapped in HBM (R303). -/
def imageFrames (s : State) (p : Nat) : Nat :=
  countIf s.mem.leaves (fun e => p * 2 ^ 35 ≤ e.1 && e.1 < p * 2 ^ 35 + 0x100000000000 / 8192 && e.2.tier == .hbm)

/-- Frames of the save areas of a pallet (R303). -/
def saveFrames (s : State) (p : Nat) : Nat :=
  sumOf (s.pallet p).saves (fun e => ceilDiv (64 + e.2.ncol * e.2.ncourse * 2359296) 8192)

/-- Frames reserved by the requests of a pallet (SCH_FRAMES_RESERVED). -/
def framesReserved (s : State) (p : Nat) (skip : Option Nat) : Nat :=
  sumOf ((s.requestsOf p).filter (fun e => skip ≠ some e.1)) (fun e => heldFrames s e.1 e.2)

/-- Check 7 of R302. -/
def memFits (s : State) (p frames : Nat) (skip : Option Nat) : Bool :=
  framesReserved s p skip + frames + imageFrames s p + saveFrames s p ≤ s.obj Obj.MEM_HBM_QUOTA p

/-- The head slots of a geometry fit in half a span (R164). -/
def spanHolds (s : State) (p : Nat) (g : Geom) : Bool := headSlots g * s.pagesPerHead p * 8192 ≤ s.spanSize p / 2

/-- The statuses of checks 7 and 8, with the counter each one counts in (R302, R496). -/
def judgeReservation (s : State) (p frames : Nat) (l : LoadFig) (skip : Option Nat) : Option (Status × Nat) :=
  if !memFits s p frames skip then some (.admitDenied, Obj.SCH_DENIED_MEM)
  else if s.role ≠ 3 && !loadFits s p l skip then some (.admitDenied, Obj.SCH_DENIED_TIME)
  else none

/-- SCH_LOAD_PPM of a pallet (R305). -/
def loadPpm (s : State) (p : Nat) : Nat := sumOf (s.requestsOf p) (fun e => (s.reqLocal e.1).load.share)

/-- An accepted reserve takes effect (R307). Spill slots above the new reservation count as the shared pool's. -/
def applyReserve (s : State) (slot : Nat) : State :=
  match s.request? slot, (s.reqLocal slot).reserve with
  | some r, some lmax =>
    let v := reservation s r.pallet r.geom lmax r.blocks
    let fig := loadFigures s r.pallet r.pfmt r.geom lmax
    let s := s.setRequest slot { r with resPages := v.2.1, resSpill := v.2.2 }
    s.onLocal slot (fun l => { l with lmax := lmax, load := fig, reserve := none, shared := l.spill.length - v.2.2 })
  | _, _ => s

end Sys2Proof.Machine
end

