-- ==== Sys2Proof/Machine/Home.lean ====
section
/-! DEFINITION. Handover and copy messages as they leave (R137, R138), home registers (R134), and copy groups (R154). -/

namespace Sys2Proof.Machine

/-! ## Messages -/

/-- The 32-byte header (R137). TYPE 1 OFFER, 2 PULL, 3 PLACED, 4 RELEASE, 5 COPY_WRITE, 6 COPY_COMMIT. -/
def hoHeader (typ : Nat) (st : Status) (xid rid src dst srcMod dstMod homeSeq : Nat) : List Byte :=
  pack [(typ, 1), (statusCode st, 1), (0, 2), (xid, 4), (rid, 8), (src, 4), (dst, 4), (srcMod, 2), (dstMod, 2), (homeSeq, 4)]

/-- Sends a STATE message, class 1 (R240), under a tenant's key slot. -/
def sendState (s : State) (purpose : MsgFor) (dst keyslot : Nat) (payload : List Byte) : State :=
  sendMsg s (fun _ _ s => s) purpose 0x18 1
    { Pkt.zero with epoch := s.curEpoch, dstMod := dst, keyId := s.keyIdOf keyslot } 0 payload

/-! ## Home registers (R134) -/

/-- The home register of a RID. -/
def State.home? (s : State) (rid : Nat) : Option HomeReg := NMap.get? s.req.homes rid

def State.setHome (s : State) (rid : Nat) (h : HomeReg) : State :=
  { s with req := { s.req with homes := NMap.ins s.req.homes rid h } }

/-- No backup is named: its acknowledgement is not waited for. -/
def HomeReg.alone (s : State) (h : HomeReg) : Bool :=
  !h.primary || h.backup = 0xFFFF || h.backup = s.moduleNum || s.dead h.backup || (s.portsOf s.curEpoch h.backup).isNone

/-- The primary forwards an update to the backup. -/
def sendMirror (s : State) (rid : Nat) : State := match s.home? rid with
  | none => s
  | some h =>
    if !h.primary || h.alone s then s
    else sendState s (.homeMirror rid) h.backup 0 (toBytes 8 rid ++ h.bytes)

/-! ## Copy groups (R154) -/

/-- The positions at which two groups differ. -/
def groupDiff (a b : List Nat) : List Nat := (List.range 6).filter (fun i => a.getD i 0 ≠ b.getD i 0)

/-- A change a group may make: one position from 1 to 5, or an exchange of positions 0 and 1. -/
def groupChangeOk (a b : List Nat) : Bool :=
  match groupDiff a b with
  | [] => true
  | [i] => i ≠ 0
  | [0, 1] => a.getD 0 0 == b.getD 1 0 && a.getD 1 0 == b.getD 0 0
  | _ => false

/-- Rewrites a request's group: the next refresh writes the whole shard of every member that changed. A register held on
this module follows its positions; one held elsewhere learns them at the next COPY_COMMIT (`committedHome`). -/
def setGroup (s : State) (slot : Nat) (g : List Nat) : State := match s.request? slot with
  | none => s
  | some r =>
    let changed := groupDiff r.copyGroup g
    let s := s.setRequest slot { r with copyGroup := g }
    let s := s.onLocal slot (fun l => { l with
      wholeShards := l.wholeShards ++ changed.filter (fun i => !l.wholeShards.contains i),
      deadMembers := l.deadMembers.filter (fun i => !changed.contains i) })
    match s.home? r.rid with
    | none => s
    | some h =>
      let me := s.moduleNum
      let primary := g.getD 0 0 == me
      let s := s.setHome r.rid { h with primary := primary, backup := g.getD 1 0, peer := g.getD 0 0 }
      if primary && changed.contains 1 then sendMirror s r.rid else s

/-- An accepted regroup that waited for the step boundary. -/
def applyRegroup (s : State) (slot : Nat) : State := match (s.reqLocal slot).regroup with
  | none => s
  | some (g, src) => complete (setGroup (s.onLocal slot (fun l => { l with regroup := none })) slot g) src 0 .ok 0

/-- What takes effect on the requests of a pallet at its step boundary: accepted reserves and regroups. -/
def boundaryRequests (s : State) (p : Nat) : State :=
  (s.requestsOf p).foldl (fun s e => applyRegroup (applyReserve s e.1) e.1) s

end Sys2Proof.Machine
end

