-- ==== Sys2Proof/Machine/Fault.lean ====
section
/-! DEFINITION. Pallet faults (R22, R409, R410), what a halt does to a running step (R417), and the HALT packet. -/

namespace Sys2Proof.Machine

/-- Where a fault arose: the brick, where it names one, the micro-core with the pc of its instruction, MCAUSE and TVAL. -/
structure FaultAt where
  brick : Option Nat
  core : Option Nat
  pc : Word
  mcause : Nat
  tval : Nat
  deriving DecidableEq, Repr

/-- A fault that names no brick or micro-core. -/
def FaultAt.nowhere : FaultAt := { brick := none, core := none, pc := 0, mcause := 0, tval := 0 }

/-- The bytes of a pallet-fault record (R409). -/
def FaultRec.bytes (f : FaultRec) : List Byte :=
  pack [(f.brick + b2n f.brickV * 2 ^ 11 + f.core * 2 ^ 16 + b2n f.coreV * 2 ^ 24, 4), (f.pc.toNat, 4),
    (f.cause + f.mcause * 2 ^ 8 + f.stepTag * 2 ^ 16, 4), (f.tval, 4), (f.tFault, 8), (f.fseq, 4), (0, 4)]

/-- The status of a halted step's entries by the fault's cause (R417). -/
def causeStatus (cause : Nat) : Status :=
  if cause = 4 then .uncorrectable else if cause = 6 then .targetDead else if cause = 7 then .keyRetired else .flushed

/-- A micro-core stops: its wait ends (R51). -/
def Core.halt (c : Core) : Core := { c with waiting := none, bulk := [], acks := [], arrives := [] }

/-- Halts the bricks of a pallet (R22): waits end, and its flits and passing tokens are discarded whole (R420). -/
def haltBricks (s : State) (p : Nat) : State :=
  let g := s.rect p
  let a := s.array
  { s with array := { a with
    bricks := a.bricks.map (fun (e : Nat × Brick) => if g.has e.1 then
      (e.1, { e.2 with
        passing := [], requests := [], qqueue := [], cores := e.2.cores.map (fun c => (c.1, c.2.halt)) }) else e),
    flying := a.flying.filter (fun e => !g.has e.1) } }

/-- The transport queues of a pallet complete their outstanding entries FLUSHED, in submission order (R22, R260). -/
def flushQueues (s : State) (p : Nat) : State :=
  (s.trn.queues.filter (fun e => e.2.pallet == p && e.2.state == 1 && e.2.typ ≠ 3)).foldl
    (fun s e => queueError s e.1 none .flushed) s

/-- The entry of a step's result record. The NSTREAM of a handle that names no request is a free value (log entry 70). -/
def recordEntry (s : State) (e : EntryRun) (step : Nat) (st : Status) (nostep : Bool) (frames : List (List Nat)) (stopped : Bool) :
    List Byte × State :=
  match e.slot.bind s.request? with
  | some r =>
    (resultEntry e.d.handle step st frames r.nstream stopped (e.blocks.any (fun b => b.active && b.sampled)) nostep
      (match e.tree with
        | some t => t.parent.length
        | none => 0) e.accepted r.ctxlen e.tDone, s)
  | none =>
    let f := s.fresh 4
    (resultEntry e.d.handle step st frames (f.1 + 1) stopped false nostep 0 0 0 e.tDone, f.2)

/-- The STEP of an entry's result: the step of the entry; of a REPLAY entry, its first carried step (R157). -/
def recordStep (d : StepDesc) (e : StepEntry) : Nat :=
  match d.kind, d.replay with
  | 3, c :: _ => c.step
  | _, _ => e.step

/-- An entry of a step before anything has been judged of it. -/
def EntryRun.start (s : State) (d : StepEntry) : EntryRun :=
  let x := s.byHandle d.handle
  { d := d, slot := x.map (·.1), statuses := [], nostep := false, ended := false, held := none, heldAt := 0,
    stalled := 0, tDone := 0,
    blocks := (x.map (fun e => e.2.blocks)).getD [], counts := (x.map (fun e => e.2.counts)).getD [], tree := none, sentAt := 0,
    logits := none, path := [], emitted := [], accepted := 0, stopped := false, fresh := [] }

/-- The record of a descriptor refused as a whole (R311): REFUSED is set, and every entry carries the status and NOSTEP. -/
def refusedRecord (s : State) (d : StepDesc) (st : Status) : List Byte × State :=
  let es := d.entries.foldl (fun (acc : List (List Byte) × State) e =>
    let x := recordEntry acc.2 (EntryRun.start acc.2 e) e.step st true [] false
    (acc.1 ++ [x.1], x.2)) ([], s)
  (resultRecord d.batch 1 s.now s.now es.1, es.2)

/-- Counts an entry's status (R496). -/
def countStatus (s : State) (p : Nat) (st : Status) : State :=
  if st = .deadlineMissed then s.bump Obj.SCH_DEADLINE_MISSED p
  else if st = .cancelledDropped then s.bump Obj.SCH_CANCELLED p
  else s

/-- An entry that consumes its number: NEXT_STEP advances (R106), and a cancel of that step is spent. -/
def consumeStep (s : State) (slot : Nat) : State :=
  let s := s.onRequest slot (fun r => { r with nextStep := r.nextStep + 1, tLast := s.now })
  match s.request? slot with
  | some r => s.onLocal slot (fun l => { l with
    cancel := match l.cancel with
      | some k => if k < r.nextStep then none else some k
      | none => none })
  | none => s

/-- An entry whose step a halt ended: its number is consumed, later calls for the step are dropped, and a refresh of the coded
copy falls due where NEXT_STEP becomes a multiple of 64 (R150). -/
def haltEntry (s : State) (slot : Nat) (e : EntryRun) : State :=
  if e.nostep then s
  else
    let s := consumeStep s slot
    let due := match s.request? slot with
      | some r => r.nextStep % 64 == 0
      | none => false
    s.onLocal slot (fun l => { l with halted := e.d.step :: l.halted, refreshDue := l.refreshDue || due })

/-- The work of every entry of a pallet's step has ended: nothing later adds arrivals for it. -/
def State.endWork (s : State) (p : Nat) : State :=
  let n := match (s.pallet p).run with
    | some run => run.entries.length
    | none => 0
  ((List.range n).foldl (fun s i => endHold s p i) s).onPallet p (fun q => { q with run := q.run.map (fun run => { run with
    entries := run.entries.map (fun e => { e with ended := true }) }) })

/-- The step that a halt interrupts (R417): collective groups are told, which ends their calls with TARGET_DEAD; every other call
of a request of the pallet is answered FLUSHED; the record is written, and one step number of each request is consumed. -/
def haltStep (s : State) (p : Nat) (st : Status) : State := match (s.pallet p).run with
  | none => s
  | some run =>
    let s := run.entries.foldl (fun s e => match e.slot.bind s.request? with
      | none => s
      | some r => if e.nostep then s else collDetect s r.rid e.d.step st s.now s.moduleNum) (s.endWork p)
    let s := (s.requestsOf p).foldl (fun s x => endCalls s x.2.handle .flushed) s
    match (s.pallet p).run with
    | none => s
    | some run =>
      let r := run.entries.foldl (fun (acc : List (List Byte) × State) e =>
        let stE := firstStatus (st :: e.statuses)
        let x := recordEntry (countStatus acc.2 p stE) e (recordStep run.desc e.d) stE e.nostep [] false
        (acc.1 ++ [x.1], x.2)) ([], s)
      let s := postRun r.2 run (resultRecord run.desc.batch 0 run.tStart r.2.now r.1)
      let s := run.entries.foldl (fun s e => match e.slot with
        | some k => haltEntry s k e
        | none => s) s
      let s := cntStepEnd s p 4
      let s := s.onPallet p (fun q => { q with run := none, busy := (run.tStart, s.now) :: q.busy })
      boundaryRequests s p

/-- Halts a pallet: its bricks stop, its queue entries and its step complete, and it stays HALTED until it is loaded again
(R22, R319). An EMPTY pallet stays EMPTY. -/
def haltPallet (s : State) (p : Nat) (st : Status) : State :=
  let s := haltBricks s p
  let s := flushQueues s p
  let q := s.pallet p
  let s := if q.state = .empty then s else s.setPallet p { q with state := .halted, change := none, retest := none }
  haltStep s p st

/-- A pallet fault (R22): counted, recorded where it is the first since LOADING (R410), raised as an event, and the pallet
halts. -/
def palletFault (s : State) (p cause : Nat) (f : FaultAt) : State :=
  let s := s.bump Obj.ERR_PALLET_FAULTS p
  let fseq := s.obj Obj.ERR_PALLET_FAULTS p
  let q := s.pallet p
  let tag := match q.run with
    | some r => r.tag
    | none => 0
  let first := (s.rect p).brick 0
  let rec0 : FaultRec :=
    { brick := f.brick.getD first, brickV := f.brick.isSome, core := f.core.getD 0, coreV := f.core.isSome, pc := f.pc,
      cause := cause, mcause := f.mcause, stepTag := tag, tval := f.tval, tFault := s.now, fseq := fseq }
  let s := if q.faulted then s else s.setPallet p { q with fault := some rec0, faulted := true }
  let s := s.raise 0x01 [(p, 1), (cause, 1), (rec0.brick, 2), (fseq, 4), (tag, 2)]
  haltPallet (s.emit (.halt p)) p (causeStatus cause)

/-- A fault of a brick's micro-core or engine: it faults the brick's pallet. A brick outside every pallet runs nothing, and
nothing records its fault. -/
def brickFault (s : State) (b cause : Nat) (f : FaultAt) : State := match s.palletOf b with
  | some p => palletFault s p cause f
  | none => s

/-- HALT (R27): every brick of the pallet stops (R22), and a step it ran ends as under R417. -/
def execHalt (p : PalletNo) (s : State) : Outcome := .next (haltPallet s p .flushed)

end Sys2Proof.Machine
end

