-- ==== Sys2Proof/Machine/BrickOps.lean ====
section
/-! DEFINITION. What bricks do outside their micro-cores (chapter 02): the micro-core's address map and the engine blocks' slots,
mortar requests and answers, the claim ring (R38 to R40), and arrival counters (R42 to R44). -/

namespace Sys2Proof.Machine

/-! ## Engine-ring control blocks: words of the slots (R73, R271) -/

def Brick.qslot (k : Brick) (n : Nat) : QSlot := NMap.get QSlot.reset k.qslots n

def Brick.setQslot (k : Brick) (n : Nat) (q : QSlot) : Brick := { k with qslots := NMap.put QSlot.reset k.qslots n q }

/-- A word of a quantiser slot (R73); GO reads 0. -/
def QSlot.word (q : QSlot) (off : Nat) : Nat :=
  match off with
  | 0x00 => q.src
  | 0x04 => q.nblk % 1024 + q.srctype * 2 ^ 10 + q.fmt * 2 ^ 12 + q.outmax * 2 ^ 15 + q.blk0 * 2 ^ 18
  | 0x08 => q.elem
  | 0x0C => q.scale
  | 0x10 => q.outl
  | 0x14 => q.outcap + q.spillcap * 2 ^ 16
  | 0x18 => q.spill0
  | 0x1C => q.stg
  | 0x20 => q.reqslot
  | 0x28 => q.done + b2n q.busy * 2 ^ 10 + b2n q.complete * 2 ^ 11 + b2n q.spillFull * 2 ^ 12
  | 0x2C => q.fallbacks + q.outliers * 2 ^ 16
  | _ => 0

/-- Writes the RW fields of a word of a quantiser slot; a write while BUSY is ignored (R74). -/
def QSlot.setWord (q : QSlot) (off v : Nat) : QSlot :=
  if q.busy then q
  else match off with
    | 0x00 => { q with src := v }
    | 0x04 =>
      { q with nblk := bitsOf v 0 10, srctype := bitsOf v 10 2, fmt := bitsOf v 12 3, outmax := bitsOf v 15 3,
               blk0 := bitsOf v 18 9 }
    | 0x08 => { q with elem := v }
    | 0x0C => { q with scale := v }
    | 0x10 => { q with outl := v }
    | 0x14 => { q with outcap := bitsOf v 0 16, spillcap := bitsOf v 16 16 }
    | 0x18 => { q with spill0 := v }
    | 0x1C => { q with stg := v }
    | 0x20 => { q with reqslot := bitsOf v 0 20 }
    | _ => q

/-- A rack command slot as it is at reset. -/
def RackSlot.reset : RackSlot :=
  { op := 0, cmd := { aop := 0, w64 := false, region := 0, offset := 0, laddr := 0, len := 0, opnd1 := 0, opnd2 := 0,
                      arrId := 0, arrTag := 0 },
    busy := false, complete := false, status := 0, result := 0, dst := 0, tag := 0, epoch := 0, missing := 0, core := 0,
    pallet := 0 }

def State.rackSlot (s : State) (b n : Nat) : RackSlot := NMap.get RackSlot.reset s.rmf.rack (b * 16 + n)

def State.setRackSlot (s : State) (b n : Nat) (r : RackSlot) : State :=
  { s with rmf := { s.rmf with rack := NMap.put RackSlot.reset s.rmf.rack (b * 16 + n) r } }

/-- A word of a rack command slot (R271); GO reads 0. -/
def RackSlot.word (r : RackSlot) (off : Nat) : Nat :=
  match off with
  | 0x00 => r.op + r.cmd.aop * 2 ^ 8 + b2n r.cmd.w64 * 2 ^ 12
  | 0x04 => r.cmd.region
  | 0x08 => bitsOf r.cmd.offset 0 32
  | 0x0C => bitsOf r.cmd.offset 32 16
  | 0x10 => r.cmd.laddr
  | 0x14 => r.cmd.len
  | 0x18 => bitsOf r.cmd.opnd1 0 32
  | 0x1C => bitsOf r.cmd.opnd1 32 32
  | 0x20 => bitsOf r.cmd.opnd2 0 32
  | 0x24 => bitsOf r.cmd.opnd2 32 32
  | 0x28 => r.cmd.arrId
  | 0x2C => r.cmd.arrTag
  | 0x34 => r.status + b2n r.busy * 2 ^ 8 + b2n r.complete * 2 ^ 9
  | 0x38 => bitsOf r.result 0 32
  | 0x3C => bitsOf r.result 32 32
  | _ => 0

/-- Writes the RW fields of a word of a rack command slot; a write while BUSY is ignored (R271). -/
def RackSlot.setWord (r : RackSlot) (off v : Nat) : RackSlot :=
  if r.busy then r
  else match off with
    | 0x00 => { r with op := bitsOf v 0 8, cmd := { r.cmd with aop := bitsOf v 8 4, w64 := bitOf v 12 } }
    | 0x04 => { r with cmd := { r.cmd with region := v } }
    | 0x08 => { r with cmd := { r.cmd with offset := setBits r.cmd.offset 0 32 v } }
    | 0x0C => { r with cmd := { r.cmd with offset := setBits r.cmd.offset 32 16 v } }
    | 0x10 => { r with cmd := { r.cmd with laddr := v } }
    | 0x14 => { r with cmd := { r.cmd with len := v } }
    | 0x18 => { r with cmd := { r.cmd with opnd1 := setBits r.cmd.opnd1 0 32 v } }
    | 0x1C => { r with cmd := { r.cmd with opnd1 := setBits r.cmd.opnd1 32 32 v } }
    | 0x20 => { r with cmd := { r.cmd with opnd2 := setBits r.cmd.opnd2 0 32 v } }
    | 0x24 => { r with cmd := { r.cmd with opnd2 := setBits r.cmd.opnd2 32 32 v } }
    | 0x28 => { r with cmd := { r.cmd with arrId := bitsOf v 0 17 } }
    | 0x2C => { r with cmd := { r.cmd with arrTag := bitsOf v 0 16 } }
    | _ => r

/-- The word of the engine blocks at a word address: a rack slot, a quantiser slot, or none, where no chapter lays a register
out. -/
def engineWord (s : State) (b a : Nat) : Option Nat :=
  if 0x02001000 ≤ a && a < 0x02001400 then some ((s.rackSlot b ((a - 0x02001000) / 64)).word (a % 64))
  else if 0x02003000 ≤ a && a < 0x02003200 then some (((s.brick b).qslot ((a - 0x02003000) / 64)).word (a % 64))
  else none

/-! ## The micro-core's map -/

/-- Exception codes: 1 fetch access fault, 2 illegal instruction, 3 breakpoint, 4 and 5 load misaligned and access fault,
6 and 7 store misaligned and access fault, 11 ECALL from machine mode. -/
abbrev MCause := Nat

inductive Region where
  | store | acc | engine | none
  deriving DecidableEq, Repr

/-- The part of the map that an access of `n` bytes lies in. -/
def localRegion (a n : Nat) : Region :=
  if a + n ≤ 0x200000 then .store
  else if 0x01000000 ≤ a && a + n ≤ 0x01040000 then .acc
  else if 0x02000000 ≤ a && a + n ≤ 0x02010000 then .engine
  else .none

/-- The exception of an access, none where it is permitted: alignment first, then the map. -/
def accessFault (a n : Nat) (writing : Bool) : Option MCause :=
  if a % n ≠ 0 then some (if writing then 6 else 4)
  else match localRegion a n with
    | .store => none
    | .acc => if n = 4 then none else some (if writing then 7 else 5)
    | .engine => none
    | .none => some (if writing then 7 else 5)

/-- A load of 1, 2 or 4 bytes that raises no exception; an engine word that no chapter lays out is a free value. -/
def localLoad (s : State) (b a n : Nat) : Nat × State :=
  match localRegion a n with
  | .store => (memNat (s.brick b).store a n, s)
  | .acc => (memNat (s.brick b).acc (a - 0x01000000) n, s)
  | .engine => (match engineWord s b (a / 4 * 4) with
    | some w => (bitsOf w (8 * (a % 4)) (8 * n), s)
    | none => s.fresh (8 * n))
  | .none => (0, s)

/-- Bytes of the brick store. -/
def Brick.bytes (k : Brick) (a n : Nat) : List Byte := memRead k.store a n

/-- The 4 KiB sectors that [a, a + n) touches. -/
def sectorsOf (a n : Nat) : List Nat :=
  if n = 0 then [] else (List.range ((a + n - 1) / 4096 - a / 4096 + 1)).map (fun k => a / 4096 + k)

/-- Writes the brick store and marks the sectors dirty (R174). A sector's write-back begins when its bit is set, so a write to
a dirty sector lands during it (log entry 122). -/
def Brick.write (k : Brick) (a : Nat) (bs : List Byte) : Brick :=
  let ss := sectorsOf a bs.length
  { k with
    store := memWrite k.store a bs,
    dirty := k.dirty ++ ss.filter (fun x => !k.dirty.contains x),
    again := k.again ++ ss.filter (fun x => k.dirty.contains x && !k.again.contains x) }

/-- A store to the brick store or the accumulator file. -/
def memStore (s : State) (b a n v : Nat) : State :=
  match localRegion a n with
  | .store => s.onBrick b (fun k => k.write a (toBytes n v))
  | .acc => s.onBrick b (fun k => { k with acc := memWrite k.acc (a - 0x01000000) (toBytes n v) })
  | _ => s

/-! ## Mortar requests (R27, R29) -/

/-- The bytes a request reads at its target, none where the range does not exist there. -/
def mortarRead (s : State) (tgt : MortarTarget) (addr len : Nat) : Option (List Byte) :=
  match tgt with
  | .brick b => match localRegion addr len with
    | .store => some (memRead (s.brick b).store addr len)
    | .acc => some (memRead (s.brick b).acc (addr - 0x01000000) len)
    | _ => none
  | .hbm i =>
    if addr + len ≤ frameCount * 8192 && addr / 8192 % 8 = i && (addr + len - 1) / 8192 % 8 = i then
      some ((List.range len).map (fun k => s.hbmByte (addr + k)))
    else none

/-- Writes at a request's target; none where the range does not exist there. -/
def mortarWrite (s : State) (tgt : MortarTarget) (addr : Nat) (data : List Byte) : Option State :=
  match tgt with
  | .brick b => match localRegion addr data.length with
    | .store => some (s.onBrick b (fun k => k.write addr data))
    | .acc => some (s.onBrick b (fun k => { k with acc := memWrite k.acc (addr - 0x01000000) data }))
    | _ => none
  | .hbm i =>
    if addr + data.length ≤ frameCount * 8192 && addr / 8192 % 8 = i
        && (data.isEmpty || (addr + data.length - 1) / 8192 % 8 = i) then
      some { s with mem := { s.mem with hbm := memWrite s.mem.hbm addr data } }
    else none

/-- A node identifier of the mortar's table: bricks, HBM controllers, ports, and the other edge blocks (R23). -/
def validNode (n : Nat) : Bool :=
  n < 1200 || (0x800 ≤ n && n ≤ 0x807) || (0x810 ≤ n && n ≤ 0x81B) || (0x820 ≤ n && n ≤ 0x828)

/-- The node of a request's target. -/
def targetNode : MortarTarget → Nat
  | .brick b => b.val
  | .hbm i => 0x800 + i.val

/-- A flit with an uncorrectable word: MORTAR_WORD, and the pallet that PALLET names faults, or every loaded pallet where the
header is bad (R418). -/
def flitWord (s : State) (p node src : Nat) (headerBad : Bool) : State :=
  let s := s.raise 0x03 [(node, 2), (src, 2), (b2n headerBad, 1)]
  let ps := if headerBad then (List.range 16).filter (fun q => (s.pallet q).state ≠ .empty) else [p]
  ps.foldl (fun s q => palletFault s q 4 FaultAt.nowhere) s

/-- The same, counted with the uncorrectable words. -/
def flitUncorr (s : State) (p node src : Nat) (headerBad : Bool) : State :=
  flitWord ((s.bump Obj.MEM_ECC_MORTAR_UNCORR 0).bump Obj.ERR_UNCORR_WORDS 0) p node src headerBad

/-- A flit arrives at a node: one with a reserved SRC is handled as one with a reserved TYPE, an uncorrectable header word
(R23, R27), and has no other effect. -/
def mortarIn (node src p : Nat) (f : State → State) (s : State) : State :=
  if validNode src then f s else flitUncorr s p node src true

/-- RD: up to 248 bytes are answered; a request the target cannot serve is answered ERR (log entry 17). -/
def mortarRd (tgt : MortarTarget) (h : MortarHdr) (addr len : Nat) (s : State) : State :=
  if len = 0 || 248 < len then s.emit (.mortarErr h.src h.tag .accessDenied)
  else match mortarRead s tgt addr len with
    | some d => s.emit (.rdData h.src h.tag d)
    | none => s.emit (.mortarErr h.src h.tag .accessDenied)

def execRd (tgt : MortarTarget) (h : MortarHdr) (addr len : Nat) (s : State) : Outcome :=
  .next (mortarIn (targetNode tgt) h.src h.pallet (mortarRd tgt h addr len) s)

/-- WR: the data is written without acknowledgement. -/
def mortarWr (tgt : MortarTarget) (h : MortarHdr) (addr : Nat) (data : List Byte) (s : State) : State :=
  match mortarWrite s tgt addr (data.take 240) with
  | some s => s
  | none => s.emit (.mortarErr h.src h.tag .accessDenied)

def execWr (tgt : MortarTarget) (h : MortarHdr) (addr : Nat) (data : List Byte) (s : State) : Outcome :=
  .next (mortarIn (targetNode tgt) h.src h.pallet (mortarWr tgt h addr data) s)

/-- WR_ACK: the data is written and WR_DONE answers. -/
def mortarWrAck (tgt : MortarTarget) (h : MortarHdr) (addr : Nat) (data : List Byte) (s : State) : State :=
  match mortarWrite s tgt addr (data.take 240) with
  | some s => s.emit (.wrDone h.src h.tag)
  | none => s.emit (.mortarErr h.src h.tag .accessDenied)

def execWrAck (tgt : MortarTarget) (h : MortarHdr) (addr : Nat) (data : List Byte) (s : State) : Outcome :=
  .next (mortarIn (targetNode tgt) h.src h.pallet (mortarWrAck tgt h addr data) s)

/-- The request of a tag has its answer: it is outstanding no more, and no ARRIVE waits for it (R30). -/
def Brick.answered (k : Brick) (tag : Nat) : Brick :=
  { k with
    requests := k.requests.filter (fun r => r.tag ≠ tag),
    cores := k.cores.map (fun c => (c.1, { c.2 with
      acks := c.2.acks.filter (fun x => x ≠ tag),
      arrives := c.2.arrives.map (fun (a : HeldArrive) => { a with acks := a.acks.filter (fun x => x ≠ tag) }) })) }

/-- RD_DATA: the data of the RD with the tag arrives. -/
def execRdData (b : BrickNo) (h : MortarHdr) (data : List Byte) (s : State) : Outcome :=
  .next (mortarIn b h.src h.pallet (fun s =>
    s.onBrick b (fun k => { k.answered h.tag with answers := (h.tag, data) :: k.answers })) s)

/-- WR_DONE: the WR_ACK with the tag is acknowledged. -/
def execWrDone (b : BrickNo) (h : MortarHdr) (s : State) : Outcome :=
  .next (mortarIn b h.src h.pallet (fun s => s.onBrick b (fun k => k.answered h.tag)) s)

/-- ERR: the request with the tag ends with a status. -/
def execErr (b : BrickNo) (h : MortarHdr) (status : Status) (s : State) : Outcome :=
  .next (mortarIn b h.src h.pallet (fun s =>
    s.onBrick b (fun k => { k.answered h.tag with errors := (h.tag, status) :: k.errors })) s)

/-! ## Credits (R28, R49) -/

/-- Maximum of a credit counter. -/
def creditMax (k : Nat) : Nat :=
  if k ≤ 3 then 8 else if k = 4 then 16 else if k = 6 then 8 else if k = 9 then 4 else if k = 10 then 16
  else if k = 11 then 64 else Config.engineCredits k

/-- Value of a credit counter of a brick: free rack slots, free quantiser slots, free token-queue entries, or the maximum less
those in use. -/
def credits (s : State) (b k : Nat) : Nat :=
  if k = 4 then countIf (List.range 16) (fun n => !(s.rackSlot b n).busy)
  else if k = 6 then countIf (List.range 8) (fun n => !((s.brick b).qslot n).busy)
  else if k = 11 then 64 - (s.brick b).tokens.length
  else creditMax k - NMap.get 0 (s.brick b).used k

/-! ## The claim ring (R38 to R40) -/

/-- Credit counter of an engine bit of a token: 0 matrix array, 1 hod, 2 gather, 3 quantiser, 4 row-statistics, 5 selector,
6 codec. -/
def engineCounter (i : Nat) : Nat := if i = 0 then 10 else i + 3

/-- The locality score. -/
def tokenScore (s : State) (p b : Nat) (tok : Token) : Nat :=
  if tok.page = 0 then 0
  else if (s.brick b).prefetched.any (fun q => q.1 == leafKey p tok.page) then 3
  else match s.leaf? p tok.page with
    | some l => if l.tier == .hbm && stackOf l.target = homeStack b then 2 else 1
    | none => 1

/-- The claim threshold of a score. -/
def claimThreshold (s : State) (p score : Nat) : Nat :=
  if score = 3 then s.obj Obj.BRK_CLAIM_T3 p else if score = 2 then s.obj Obj.BRK_CLAIM_T2 p
  else if score = 1 then s.obj Obj.BRK_CLAIM_T1 p else s.obj Obj.BRK_CLAIM_T0 p

/-- What a brick does with an arriving token. -/
inductive Claim where
  | take | forced | pass
  deriving DecidableEq, Repr

/-- The rule of R38. -/
def claim (s : State) (p b : Nat) (tok : Token) : Claim :=
  let depth := (s.brick b).tokens.length
  if 64 ≤ depth then .pass
  else if (s.rect p).size ≤ tok.passes then .forced
  else if (List.range 7).any (fun i => bitOf tok.engines i && credits s b (engineCounter i) = 0) then .pass
  else if depth < claimThreshold s p (tokenScore s p b tok) then .take
  else .pass

/-- Sends a token from a brick to a brick: one token injection credit is used. -/
def sendToken (s : State) (src dst : Nat) (tok : Token) : State :=
  let tok := { tok with src := src }
  let s := s.onBrick src (fun k => { k with used := NMap.put 0 k.used 2 (NMap.get 0 k.used 2 + 1) })
  ({ s with array := { s.array with flying := s.array.flying ++ [(dst, tok)] } }).emit (.token dst tok)

/-- Trace payload of a token decision (R442, source 2). -/
def tokenTrace (p b : Nat) (pass : Bool) (tok : Token) : Nat :=
  b + b2n pass * 2 ^ 11 + tok.kind % 256 * 2 ^ 12 + tok.tag % 2 ^ 16 * 2 ^ 20 + p * 2 ^ 36

/-- A token that arrives from a brick is the oldest on its way from that brick to this one: the mortar neither drops nor
reorders (R29). A token from an edge block is none of the claim ring's. -/
def tokenInOrder (s : State) (b : Nat) (tok : Token) : Bool :=
  1200 ≤ tok.src || s.array.flying.find? (fun e => e.1 == b && e.2.src == tok.src) == some (b, tok)

/-- The token that arrives leaves the mortar: the brick takes it or passes it on; a passed token waits for a credit (R40). A
halted pallet discards it, and a brick outside every pallet is sent none (R38). -/
def tokenClaim (b : Nat) (tok : Token) (s : State) : State :=
  let s := { s with array := { s.array with flying := s.array.flying.erase (b, tok) } }
  match s.palletOf b with
  | none => s
  | some p =>
    if !(s.pallet p).live then s
    else match claim s p b tok with
      | .pass =>
        let s := traceSample (tally s (some p) 0x05 1) 2 p (tokenTrace p b true tok)
        let tok := { tok with passes := min (tok.passes + 1) 65535 }
        if (s.brick b).passing.isEmpty && 0 < credits s b 2 then sendToken s b ((s.rect p).next b) tok
        else s.onBrick b (fun k => { k with passing := k.passing ++ [tok] })
      | c =>
        let s := traceSample (tally s (some p) 0x04 1) 2 p (tokenTrace p b false tok)
        let s := if c = .forced then tally s (some p) 0x06 1 else s
        s.onBrick b (fun k => { k with tokens := k.tokens ++ [tok] })

/-- TOKEN (R39). A token that the mortar cannot deliver, out of its order or sent by no brick, has no effect (R29, log entry
108). -/
def tokenArrive (b : Nat) (tok : Token) (s : State) : State := if tokenInOrder s b tok then tokenClaim b tok s else s

def execToken (b : BrickNo) (tok : Token) (s : State) : Outcome :=
  .next (mortarIn b tok.src ((s.palletOf b).getD 0) (tokenArrive b tok) s)

/-- A token credit of a brick returns (R40): the oldest waiting token is passed on. -/
def tokenCredit (b : Nat) (s : State) : State :=
  let s := s.onBrick b (fun k => { k with used := NMap.put 0 k.used 2 (NMap.get 0 k.used 2 - 1) })
  match (s.brick b).passing, s.palletOf b with
  | tok :: rest, some p =>
    if 0 < credits s b 2 then sendToken (s.onBrick b (fun k => { k with passing := rest })) b ((s.rect p).next b) tok else s
  | _, _ => s

def execTokenCreditReturn (b : BrickNo) (s : State) : Outcome := .next (tokenCredit b s)

/-- No token of a step remains in a queue, waiting to pass, or on the claim ring (R41). -/
def noTokens (s : State) (p tag : Nat) : Bool :=
  let g := s.rect p
  s.array.bricks.all (fun e => !g.has e.1 || (e.2.tokens ++ e.2.passing).all (fun t => t.tag ≠ tag))
    && s.array.flying.all (fun e => !g.has e.1 || e.2.tag ≠ tag)

/-! ## Arrival counters (R42 to R44) -/

/-- The fault of a counter: cause 8, with the counter ID in TVAL (R409). -/
def counterFault (s : State) (k : Nat) : State :=
  brickFault s (k / 64) 8 { brick := some (k / 64), core := none, pc := 0, mcause := 0, tval := k }

/-- ARM. -/
def counterArm (k tag target : Nat) (s : State) : State :=
  let c := s.counter k
  if c.state ≠ .idle || target = 0 then counterFault s k
  else s.setCounter k { state := .armed, count := 0, target := target, tag := tag }

def execArm (k : CounterId) (tag target t : Nat) (s : State) : Outcome := .next (counterArm k tag target (s.at t))

/-- An arrival that is discarded (R407). -/
def staleArrival (s : State) (k : Nat) : State := match s.palletOf (k / 64) with
  | some p => s.bump Obj.BRK_ARR_STALE p
  | none => s.bump Obj.ERR_UNCLAIMED_ARRIVALS 0

/-- A counter becomes DONE: STEP_DONE goes to the management cores, and the step whose counter it is notes the instant. -/
def counterDone (s : State) (k tag : Nat) : State := match s.palletOf (k / 64) with
  | none => s
  | some p =>
    let s := s.emit (.stepDone p tag)
    s.onRun p (fun r => if r.counter = k && r.tag = tag then { r with doneAt := some s.now } else r)

/-- ARRIVE. -/
def counterArrive (k tag n : Nat) (s : State) : State :=
  let c := s.counter k
  if (s.palletOf (k / 64)).isNone then staleArrival s k
  else match c.state with
    | .idle => staleArrival s k
    | .armed =>
      if c.tag ≠ tag then staleArrival s k
      else if c.count + n < c.target then s.setCounter k { c with count := c.count + n }
      else if c.count + n = c.target then counterDone (s.setCounter k { c with count := c.target, state := .done }) k tag
      else counterFault s k
    | .done => if c.tag ≠ tag then staleArrival s k else counterFault s k

def execArrive (k : CounterId) (tag n t : Nat) (s : State) : Outcome := .next (counterArrive k tag n (s.at t))

/-- RELEASE: a DONE counter is IDLE again; in another state it has no row in R42 and changes nothing. -/
def counterRelease (k : Nat) (s : State) : State :=
  let c := s.counter k
  if c.state = .done then s.setCounter k { c with state := .idle } else s

def execCounterRelease (k : CounterId) (s : State) : Outcome := .next (counterRelease k s)

/-- The step counter of a pallet's step number (R44); a step tag is its low 16 bits, so it names the same counter. -/
def stepCounter (s : State) (p : Nat) (l : Loaded) (seq : Nat) : Nat := (s.rect p).brick (l.entries.getD 0 0) * 64 + seq % 32

/-- The counter of the step with a tag is released, if it is DONE under that tag. -/
def releaseTagged (s : State) (p tag : Nat) : State := match (s.pallet p).loaded with
  | none => s
  | some l =>
    let k := stepCounter s p l tag
    if (s.counter k).tag = tag then counterRelease k s else s

/-- STEP_DONE reaches the management cores (R44). The RELEASE follows at the step boundary; where the boundary has passed, it
is sent at once. -/
def stepDone (p tag : Nat) (s : State) : State :=
  match (s.pallet p).run with
  | some r => if r.tag = tag then s.onRun p (fun r => { r with doneSeen := true }) else releaseTagged s p tag
  | none => releaseTagged s p tag

def execStepDone (p : PalletNo) (tag t : Nat) (s : State) : Outcome := .next (stepDone p tag (s.at t))

end Sys2Proof.Machine
end

