-- ==== Sys2Proof/Machine/Quant.lean ====
section
/-! DEFINITION. The quantiser: encoding under a pallet's limits (R65 to R68, R78) and its commands (R73 to R77). -/

namespace Sys2Proof.Machine

/-! ## Encoding under a pallet's limits (R65 to R68, R77 to R79) -/

/-- The limits in force for a pallet's blocks: those of its running step, since they are staged with the step boundary as safe
point (R78). -/
def State.qlimits (s : State) (p : Nat) : QLimits :=
  { mxfp4 := s.obj Obj.FMT_ERR_BOUND_MXFP4 p, mxint4 := s.obj Obj.FMT_ERR_BOUND_MXINT4 p, k3 := s.obj Obj.FMT_ERR_BOUND_K3 p,
    k2 := s.obj Obj.FMT_ERR_BOUND_K2 p, mxfp6 := s.obj Obj.FMT_ERR_BOUND_MXFP6 p, outMax := s.obj Obj.FMT_OUTLIERS_MAX p }

/-- The bound code of a target format (R66, R78). -/
def boundOf (l : QLimits) (fmt : Nat) : Nat := match fmt with
  | 0 => l.mxfp4
  | 1 => l.mxint4
  | 2 => l.k3
  | 3 => l.k2
  | 4 => l.mxfp6
  | _ => 272

/-- What a block's encoding adds to the FMT_ counters. -/
structure QCounts where
  blocks : Nat
  fallbacks : Nat
  outliers : Nat
  full : Nat
  clamps : Nat
  /-- What R59 replaces where stored blocks are decoded to be encoded again. -/
  nans : Nat
  deriving DecidableEq, Repr

def QCounts.zero : QCounts := { blocks := 0, fallbacks := 0, outliers := 0, full := 0, clamps := 0, nans := 0 }

/-- Adds counts to a pallet's FMT_ counters (R77). -/
def chargePallet (s : State) (p : Nat) (c : QCounts) : State :=
  let s := (s.bumpBy Obj.FMT_BLOCKS_WRITTEN p c.blocks).bumpBy Obj.FMT_FALLBACK_BLOCKS p c.fallbacks
  let s := (s.bumpBy Obj.FMT_OUTLIERS_WRITTEN p c.outliers).bumpBy Obj.FMT_OUTLIER_FULL p c.full
  (s.bumpBy Obj.FMT_RANGE_CLAMP p c.clamps).bumpBy Obj.FMT_NAN_INPUT p c.nans

/-- Adds counts to a request (R77, R79). -/
def chargeRequest (s : State) (slot : Nat) (c : QCounts) : State :=
  if (s.request? slot).isNone then s
  else s.onLocal slot (fun l => { l with fallbacks := l.fallbacks + c.fallbacks, written := l.written + c.blocks })

/-- Prepares and encodes 32 FP32 elements under a pallet's limits, with what it counts. -/
def quantise (l : QLimits) (fmt outmax free : Nat) (x : List Nat) : QBlock × QCounts :=
  let prep := x.map prepare
  let x := prep.map (·.1)
  let m := min outmax l.outMax
  let bound := boundOf l fmt
  let b := quantBlock fmt bound m free x
  let full := b.fallback && free < m && !(quantBlock fmt bound m m x).fallback
  (b, { blocks := 1, fallbacks := b2n b.fallback, outliers := b.outl.length, full := b2n full,
        clamps := countIf prep (·.2), nans := 0 })

/-! ## Quantiser commands (R73 to R77) -/

/-- The command's fields are in range and aligned, and what it reads and writes lies in the brick (R73, R74). -/
def qslotValid (q : QSlot) : Bool :=
  let elem := if q.srctype = 0 then 4 else 2
  1 ≤ q.nblk && q.nblk ≤ 512 && q.srctype ≤ 2 && q.fmt ≤ 5 && q.outmax ≤ 4 && q.blk0 + q.nblk ≤ 512
    && q.src % 64 = 0 && q.elem % 64 = 0 && q.outl % 4 = 0 && q.stg % 64 = 0
    && (match localRegion q.src (32 * q.nblk * elem) with
      | .store => q.srctype ≠ 0
      | .acc => q.srctype = 0
      | _ => false)
    && q.elem + (q.blk0 + q.nblk) * areaSize q.fmt ≤ 0x200000 && q.scale + q.blk0 + q.nblk ≤ 0x200000
    && q.outl + 4 * min q.outcap (q.nblk * q.outmax) ≤ 0x200000 && q.stg + 32 * min q.spillcap q.nblk ≤ 0x200000

/-- QUANTISER_GO: the slot's command is queued with the limits of the step that issues it (R78); a slot that is BUSY ignores the write, and an illegal command is an access
fault (R74). -/
def quantiserGo (b c slot : Nat) (s : State) : State :=
  let k := s.brick b
  let q := k.qslot slot
  if q.busy then s
  else if !qslotValid q then
    brickFault s b 2 { brick := some b, core := some c, pc := (k.core c).pc, mcause := 0, tval := 0 }
  else
    s.setBrick b { (k.setQslot slot { q with
        busy := true, complete := false, spillFull := false, done := 0, fallbacks := 0, outliers := 0 }) with
      qqueue := k.qqueue ++ [{ slot := slot, core := c, pc := (k.core c).pc.toNat,
                               limits := s.qlimits ((s.palletOf b).getD 0) }] }

def execQuantiserGo (b : BrickNo) (c : CoreNo) (slot : Fin 8) (t : Nat) (s : State) : Outcome :=
  .next (quantiserGo b c slot (s.at t))

/-- The 32 source elements of block j, as FP32 patterns. -/
def sourceBlock (k : Brick) (q : QSlot) (j : Nat) : List Nat :=
  let n := if q.srctype = 0 then 4 else 2
  (List.range 32).map (fun i =>
    let a := q.src + (32 * j + i) * n
    let v := if a < 0x200000 then memNat k.store a n else memNat k.acc (a - 0x01000000) n
    if q.srctype = 0 then v else if q.srctype = 1 then widen fp16 v else widen bf16 v)

/-- Runs the blocks of a command from j on: it stops before a block that needs a spill slot and finds none (R75). That block's
clamped elements and its full outlier list count when the command reissued for it runs, not before (DESIGN CHOICE, log entry
114). -/
def runBlocks (l : QLimits) : Nat → Nat → Brick × QSlot × QCounts → Brick × QSlot × QCounts
  | 0, _, x => x
  | n + 1, j, (k, q, cnt) =>
    let r := quantise l q.fmt q.outmax (q.outcap - q.outliers) (sourceBlock k q j)
    let b := r.1
    if b.fallback && q.spillcap ≤ q.fallbacks then (k, { q with spillFull := true }, cnt)
    else
      let block := q.blk0 + j
      let k := k.write (q.elem + block * areaSize q.fmt) (blockArea q.fmt b (q.spill0 + q.fallbacks))
      let k := k.write (q.scale + block) (toBytes 1 (blockScale b))
      let k := if b.fallback then k.write (q.stg + 32 * q.fallbacks) (packCodes 5 b.codes) else k
      let k := k.write (q.outl + 4 * q.outliers) (b.outl.flatMap (fun o => toBytes 4 (outlierWord block o)))
      let q := { q with
        done := q.done + 1, fallbacks := q.fallbacks + b2n b.fallback, outliers := q.outliers + b.outl.length }
      let cnt : QCounts :=
        { blocks := cnt.blocks + r.2.blocks, fallbacks := cnt.fallbacks + r.2.fallbacks,
          outliers := cnt.outliers + r.2.outliers, full := cnt.full + r.2.full, clamps := cnt.clamps + r.2.clamps,
          nans := cnt.nans + r.2.nans }
      runBlocks l n (j + 1) (k, q, cnt)

/-- QUANTISER_DONE: the oldest queued command runs to its end, and its counts are charged (R77). -/
def quantiserDone (b : Nat) (s : State) : State :=
  let k := s.brick b
  match k.qqueue, s.palletOf b with
  | m :: rest, some p =>
    let q := k.qslot m.slot
    let x := runBlocks m.limits q.nblk 0 ({ k with qqueue := rest }, q, QCounts.zero)
    let s := s.setBrick b (x.1.setQslot m.slot { x.2.1 with busy := false, complete := true })
    chargeRequest (chargePallet s p x.2.2) q.reqslot x.2.2
  | _, _ => s

def execQuantiserDone (b : BrickNo) (t : Nat) (s : State) : Outcome := .next (quantiserDone b (s.at t))

end Sys2Proof.Machine
end

