-- ==== Sys2Proof/Machine/Compose.lean ====
section
/-! DEFINITION. Rack memory and composition (chapter 11): the composition map and its epochs (R268 to R270, R291 to R293), rack
commands and their packets (R271 to R274, R280), and COLL_ABORT (R282, R422). -/

namespace Sys2Proof.Machine

/-! ## The map -/

/-- The fields of a staged record lie in the ranges of R268. -/
def mapValid (m : MapRecord) : Bool :=
  if m.kind = 1 then m.key < 65536 && (m.remove || (0 < m.ports && m.ports < 4096))
  else if m.kind = 2 then m.remove || (m.base % 64 = 0 && m.length % 4096 = 0)
  else m.kind = 3 && m.key < 65536 && (m.remove || (2 ≤ m.members.length && m.members.length ≤ 16 && m.split ≤ 1))

def CompEntry.names (e : CompEntry) (kind key : Nat) : Bool := e.record.kind == kind && e.record.key == key

/-- The slot of the current epoch. -/
def State.curSlot (s : State) : Option Nat := s.epochSlot s.curEpoch

/-- The entry is in force under the current epoch. -/
def State.inForce (s : State) (e : CompEntry) : Bool := match s.curSlot with
  | some c => bitOf e.emask c
  | none => false

/-- RMF_MAP_STAGE (R269, R291): a record takes the lowest free position of its table, a REMOVE none; either marks the current
entry with its KIND and KEY DROP, and takes the place of what was staged for them. One update (R290). -/
def mapStage (m : MapRecord) (s : State) : State :=
  let s := s.bump Obj.ASC_UPDATES 0
  let es := (s.rmf.entries.filter (fun e => !(e.2.staged && e.2.names m.kind m.key))).map (fun (e : Nat × CompEntry) =>
    if s.inForce e.2 && e.2.names m.kind m.key then (e.1, { e.2 with drop := true }) else e)
  if m.remove then { s with rmf := { s.rmf with entries := es } }
  else match leastBelow (1024 * s.tableBlocks 0) (fun i => (NMap.get? es i).isNone) with
    | some i =>
      let e : CompEntry := { record := m, emask := 0, staged := true, drop := false }
      { s with rmf := { s.rmf with entries := NMap.ins es i e } }
    | none => { s with rmf := { s.rmf with entries := es, overflow := true } }

def rmfMapStage (via : Via) (m : MapRecord) (s : State) : State :=
  s.objWrite via (s.isPriv via) (fun s => if mapValid m then (mapStage m s, .ok, []) else (s, .transportError, []))

def execRmfMapStage (via : Via) (m : MapRecord) (s : State) : Outcome := .next (rmfMapStage via m s)

/-- The records of the map that a commit would make current. -/
def newMap (s : State) : List MapRecord :=
  (s.rmf.entries.filter (fun e => e.2.staged || (s.inForce e.2 && !e.2.drop))).map (·.2.record)

/-- A module that a record names has a MODULE record in a map. -/
def namesModules (map : List MapRecord) (m : MapRecord) : Bool :=
  let known := fun (n : Nat) => map.any (fun r => r.kind = 1 && r.key = n)
  if m.kind = 2 then m.writer = 0xFFFE || m.writer = 0xFFFF || known m.writer
  else if m.kind = 3 then m.members.all known
  else true

/-- The conditions of R270 under which a commit of an epoch is accepted. -/
def commitOk (s : State) (epoch : Nat) : Bool :=
  let map := newMap s
  s.moduleNum ≠ 0xFFFF && newerEpoch epoch s.curEpoch && epoch ≠ 0 && s.rmf.epochs.length < 4 && map.length ≤ 16384
    && !s.rmf.overflow && map.all (namesModules map)

/-- The update of an accepted commit (R290, R292). -/
def mapCommit (epoch : Nat) (s : State) : State :=
  let slot := (leastBelow 4 (fun i => s.rmf.epochs.all (fun e => e.slot ≠ i))).getD 0
  let es := s.rmf.entries.map (fun (e : Nat × CompEntry) =>
    (e.1, { e.2 with
      emask := setBit e.2.emask slot (e.2.staged || (s.inForce e.2 && !e.2.drop)), staged := false, drop := false }))
  let ep : Epoch := { number := epoch, slot := slot }
  (({ s with rmf := { s.rmf with entries := es, epochs := s.rmf.epochs ++ [ep] } }).setObj Obj.RMF_EPOCH 0 epoch).bump
    Obj.ASC_UPDATES 0

/-- RMF_MAP_COMMIT (R270). -/
def rmfMapCommit (via : Via) (epoch : Nat) (s : State) : State :=
  s.objWrite via (s.isPriv via) (fun s =>
    if commitOk s epoch then (mapCommit epoch s, .ok, []) else (s.bump Obj.RMF_MAP_REFUSED 0, .accessDenied, []))

def execRmfMapCommit (via : Via) (epoch : Nat) (s : State) : Outcome := .next (rmfMapCommit via epoch s)

/-- RMF_MAP_DISCARD (R269, R291): one update (R290). -/
def mapDiscard (s : State) : State :=
  let es := (s.rmf.entries.filter (fun e => !e.2.staged)).map (fun (e : Nat × CompEntry) =>
    (e.1, { e.2 with drop := false }))
  ({ s with rmf := { s.rmf with entries := es, overflow := false } }).bump Obj.ASC_UPDATES 0

def rmfMapDiscard (via : Via) (s : State) : State := s.objWrite via (s.isPriv via) (fun s => (mapDiscard s, .ok, []))

def execRmfMapDiscard (via : Via) (s : State) : Outcome := .next (rmfMapDiscard via s)

/-- The in-flight count of an epoch (R278): steps running under it, operations begun under it, and accepted packets whose
placement waits. -/
def inFlight (s : State) (e : Nat) : Nat :=
  countIf s.pallets (fun p => match p.2.run with
    | some r => r.epoch == e
    | none => false)
  + sumOf s.trn.queues (fun q => countIf q.2.entries (fun x => x.epoch == e && x.ended.isNone))
  + countIf s.rmf.rack (fun r => r.2.busy && r.2.epoch == e)
  + countIf s.rmf.gathers (fun g => g.epoch == e)
  + sumOf s.trn.flows (fun f => countIf (f.2.part ++ f.2.unacked ++ f.2.queued) (fun h => h.pkt.epoch == e))
  + sumOf s.trn.waiting (fun w => countIf w.2.2.2 (fun h => h.pkt.epoch == e))
  + countIf s.trn.missed (fun x => x.2.2.1.epoch == e)

/-- EPOCH_PURGE (R278, R293): the oldest held epoch, where it is not the current one and nothing is in flight under it. -/
def epochPurge (s : State) : State := match s.rmf.epochs with
  | e :: next :: rest =>
    if inFlight s e.number ≠ 0 then s
    else
      let es := (s.rmf.entries.map (fun (x : Nat × CompEntry) =>
        (x.1, { x.2 with emask := setBit x.2.emask e.slot false }))).filter (fun x => x.2.staged || x.2.emask ≠ 0)
      (({ s with rmf := { s.rmf with entries := es, epochs := next :: rest } }).bump Obj.ASC_UPDATES 0).bump
        Obj.RMF_PURGES 0
  | _ => s

def execEpochPurge (s : State) : Outcome := .next (epochPurge s)

/-- RMF_DEAD written 0 (R281). -/
def rmfDeadClear (via : Via) (m : Nat) (s : State) : State :=
  s.objWrite via (s.isPriv via) (fun s => (s.setObj Obj.RMF_DEAD m 0, .ok, []))

def execRmfDeadClear (via : Via) (m : Nat) (s : State) : Outcome := .next (rmfDeadClear via m s)

/-! ## Rack commands at the brick (R271, R272, R274) -/

/-- The fields of a command lie in their ranges; otherwise GO is an access fault. -/
def rackValid (op : Nat) (c : RackCmd) : Bool :=
  let range := fun (al lo hi : Nat) =>
    c.laddr % al = 0 && c.len % al = 0 && lo ≤ c.len && c.len ≤ hi && c.laddr + c.len ≤ 0x200000
  (c.arrId < 76800 || c.arrId = 0x1FFFF)
    && (if op = 1 || op = 2 then range 8 8 4096
        else if op = 4 || op = 5 then range 64 64 262144
        else op = 3 && c.aop ≤ 6)

/-- The alignment of OFFSET: that of LEN, or of the atomic's word. -/
def rackAlign (op : Nat) (c : RackCmd) : Nat :=
  if op = 3 then (if c.w64 then 8 else 4) else if op = 1 || op = 2 then 8 else 64

/-- The object that counts a command. -/
def rackCounter (op : Nat) : Nat :=
  if op = 1 then Obj.RMF_LOADS else if op = 2 then Obj.RMF_STORES else if op = 3 then Obj.RMF_ATOMICS
  else if op = 4 then Obj.RMF_PUTS else Obj.RMF_GETS

/-- A micro-core's ARRIVE waits for its earlier WR_ACKs and bulk moves (R30); with none outstanding it leaves at once. -/
def coreArrive (s : State) (b c k n tag : Nat) : State :=
  let v := s.core b c
  if v.acks.isEmpty && v.bulk.isEmpty && v.arrives.isEmpty then s.emit (.arrive k n tag)
  else
    let a : HeldArrive := { k := k, n := n, tag := tag, acks := v.acks, moves := v.bulk.map (·.id) }
    s.onCore b c (fun v => { v with arrives := v.arrives ++ [a] })

/-- A command ends with a status; its local ARRIVE follows, but for PUT, whose ARRIVE is HOME's. -/
def rackEnd (s : State) (b n : Nat) (st : Status) : State :=
  let r := s.rackSlot b n
  let s := s.setRackSlot b n { r with busy := false, complete := true, status := statusCode st }
  if r.op = 4 || r.cmd.arrId = 0x1FFFF then s else coreArrive s b r.core r.cmd.arrId 1 r.cmd.arrTag

/-- What the end of a rack command's message does to the command. An ACK completes STORE and PUT; a route again under a new
epoch rebinds the command to it (R279). -/
def rackFin (b n tag : Nat) (res : Option Status) (s : State) : State :=
  let r := s.rackSlot b n
  if !r.busy || r.tag ≠ tag then s
  else match res with
    | none => if r.op = 2 || r.op = 4 then rackEnd s b n .ok else s
    | some .epochStale => s.setRackSlot b n { r with
        epoch := s.curEpoch, dst := ((s.record? s.curEpoch 2 r.cmd.region).map (·.home)).getD r.dst }
    | some st => rackEnd s b n st

/-- What the end of a message does, for the messages of rack commands; others end elsewhere. -/
def rackFinOf : Fin' := fun m r s => match m with
  | .rack b n tag => rackFin b n tag r s
  | _ => s

/-- The KEYID of a pallet's packets: that of the slot its image is loaded under, 0 for none (R352). -/
def palletKeyId (s : State) (p : Nat) : Nat := match (s.pallet p).loaded with
  | some l => if l.keyslot = 0 then 0 else s.keyIdOf l.keyslot
  | none => 0

/-- Sends the packets of a command to its HOME: REGION ID in RKEY, offset in ADDR, ARR_TAG in DQ, ARR_ID in IMM. -/
def rackSend (s : State) (op b n home epoch tag p : Nat) (c : RackCmd) : State :=
  let proto : Pkt := { Pkt.zero with
    epoch := epoch, dstMod := home, keyId := palletKeyId s p, dq := c.arrTag, addr := c.offset, rkey := c.region, tag := tag,
    imm := c.arrId, birth := s.now }
  let purpose := MsgFor.rack b n tag
  let data := (s.brick b).bytes c.laddr c.len
  let words := toBytes 8 c.opnd1 ++ (if c.aop = 2 then toBytes 8 c.opnd2 else [])
  if op = 1 then sendMsg s rackFinOf purpose 0x20 3 { proto with aux := c.len } c.offset []
  else if op = 2 then sendMsg s rackFinOf purpose 0x22 3 proto c.offset data
  else if op = 3 then
    sendPkts s rackFinOf purpose 0x23 3 home epoch
      [{ proto with first := true, last := true, aux := c.aop + b2n c.w64 * 16, data := words }]
  else if op = 4 then sendMsg s rackFinOf purpose 0x28 2 proto c.offset data
  else sendMsg s rackFinOf purpose 0x29 2 { proto with aux := c.len } c.offset []

/-- GO of a rack command slot (R271, R272, R276). -/
def rackGo (op b core n : Nat) (c : RackCmd) (s : State) : State :=
  if (s.rackSlot b n).busy then s
  else if !rackValid op c then
    brickFault s b 2 { brick := some b, core := some core, pc := (s.core b core).pc, mcause := 0, tval := 0 }
  else
    let p := (s.palletOf b).getD 0
    let epoch := s.stepEpoch p
    let t := newTag s
    let s := (t.2.bump (rackCounter op) 0).searched 1
    let home := (s.record? epoch 2 c.region).map (·.home)
    let s := s.setRackSlot b n { s.rackSlot b n with
      op := op, cmd := c, busy := true, complete := false, dst := home.getD 0, tag := t.1, epoch := epoch, core := core, pallet := p,
      missing := if op = 1 || op = 5 then c.len else 0 }
    match home with
    | none => rackEnd s b n .accessDenied
    | some h =>
      if c.offset % rackAlign op c ≠ 0 then rackEnd s b n .accessDenied
      else rackSend s op b n h epoch t.1 p c

def execLoad (b : BrickNo) (c : CoreNo) (slot : Fin 16) (cmd : RackCmd) (t : Nat) (s : State) : Outcome :=
  .next (rackGo 1 b c slot cmd (s.at t))
def execStore (b : BrickNo) (c : CoreNo) (slot : Fin 16) (cmd : RackCmd) (t : Nat) (s : State) : Outcome :=
  .next (rackGo 2 b c slot cmd (s.at t))
def execAtomic (b : BrickNo) (c : CoreNo) (slot : Fin 16) (cmd : RackCmd) (t : Nat) (s : State) : Outcome :=
  .next (rackGo 3 b c slot cmd (s.at t))
def execPut (b : BrickNo) (c : CoreNo) (slot : Fin 16) (cmd : RackCmd) (t : Nat) (s : State) : Outcome :=
  .next (rackGo 4 b c slot cmd (s.at t))
def execGet (b : BrickNo) (c : CoreNo) (slot : Fin 16) (cmd : RackCmd) (t : Nat) (s : State) : Outcome :=
  .next (rackGo 5 b c slot cmd (s.at t))

/-! ## Rack packets at HOME (R273, R274, R280) -/

/-- An older held epoch gives the region another WRITER on this HOME (R280). -/
def olderWriter (s : State) (e : Nat) (g : MapRecord) : Bool :=
  (s.rmf.epochs.takeWhile (fun x => x.number ≠ e)).any (fun x => match s.record? x.number 2 g.key with
    | some r => r.home == s.moduleNum && r.writer ≠ g.writer
    | none => false)

/-- The uses of a rack packet. -/
def rackUse (op : Nat) : RegUse := if op = 0x23 then .atomic else if op = 0x22 || op = 0x28 then .write else .read

/-- The checks of R273 after the epoch check, with the hold of R280. -/
def homeCheck (op region len : Nat) (p : Pkt) (s : State) : Verdict × State :=
  let s := s.searched 0
  match s.record? p.epoch 2 region with
  | none => (.refuse .epochStale, s)
  | some g =>
    let va := g.base + p.addr
    let writing := op = 0x22 || op = 0x23 || op = 0x28
    if g.home ≠ s.moduleNum then (.refuse .epochStale, s)
    else match regJudge s g.rkey p.keyId va len (rackUse op) with
      | (some st, s) => (.refuse st, s)
      | (none, s) =>
        let pal := (s.reg (bitsOf g.rkey 0 16)).pallet
        if writing && g.writer ≠ 0xFFFF && p.srcMod ≠ g.writer then (.refuse .accessDenied, s.bump Obj.RMF_WRITER_REFUSED 0)
        else if op = 0x23 && !s.vInHbm pal va len then (.refuse .accessDenied, s)
        else match reach s pal va len writing with
          | (some st, s) => (.refuse st, s)
          | (none, s) => if writing && olderWriter s p.epoch g then (.notReady, s) else (.accept, s)

/-- Pallet and device virtual address of a rack packet's range. -/
def rackPlace (s : State) (region : Nat) (p : Pkt) : Nat × Nat := match s.record? p.epoch 2 region with
  | some g => ((s.reg (bitsOf g.rkey 0 16)).pallet, g.base + p.addr)
  | none => (0, 0)

/-- Answers a rack packet with data, in a message of its own. -/
def rackReply (s : State) (op cls : Nat) (p : Pkt) (data : List Byte) : State :=
  sendMsg s (fun _ _ s => s) .response op cls
    { Pkt.zero with
      epoch := p.epoch, dstMod := p.srcMod, keyId := p.keyId, sq := p.dq, dq := p.dq, imm := p.imm, tag := p.tag, birth := s.now }
    0 data

/-- RM_LOAD and RM_GET_REQ at HOME. -/
def recvRmRead (op resp cls port region : Nat) (p : Pkt) (s : State) : State :=
  gatePkt s port op p (homeCheck op region p.aux p) (fun s =>
    let a := rackPlace s region p
    rackReply s resp cls p (s.vRead a.1 a.2 p.aux))

/-- RM_STORE at HOME. -/
def recvRmStore (port region : Nat) (p : Pkt) (s : State) : State :=
  gateMsg s port 0x22 p.data.length p (homeCheck 0x22 region p.data.length p) (fun s =>
    let a := rackPlace s region p
    s.vWrite a.1 a.2 p.data)

/-- RM_PUT at HOME: after the last packet is placed and its range flushed, HOME sends the ARRIVE (R175, R274). -/
def recvRmPut (port region : Nat) (p : Pkt) (s : State) : State :=
  gateMsg s port 0x28 p.data.length p (homeCheck 0x28 region p.data.length p) (fun s =>
    let a := rackPlace s region p
    let s := s.vWrite a.1 a.2 p.data
    if p.last && bitsOf p.imm 0 17 ≠ 0x1FFFF then
      addFlush s { what := .putArrive (bitsOf p.imm 0 17) (bitsOf p.dq 0 16), pallet := a.1, va := a.2, len := p.data.length }
    else s)

/-- The word that an atomic leaves: `aop` as in R271, on words of `w` bits. -/
def atomicResult (aop w old a b : Nat) : Nat :=
  let a := a % 2 ^ w
  if aop = 0 then (old + a) % 2 ^ w
  else if aop = 1 then a
  else if aop = 2 then (if old = a then b % 2 ^ w else old)
  else if aop = 3 then max old a
  else if aop = 4 then min old a
  else if aop = 5 then old ||| a
  else old &&& a

/-- RM_ATOMIC at HOME: one read-modify-write, answered with the prior value. W64 is bit 4 of AUX. -/
def recvRmAtomic (aop port region : Nat) (p : Pkt) (s : State) : State :=
  let n := if bitOf p.aux 4 then 8 else 4
  gatePkt s port 0x23 p (homeCheck 0x23 region n p) (fun s =>
    let a := rackPlace s region p
    let old := s.vNat a.1 a.2 n
    let v := atomicResult aop (8 * n) old (ofBytes (p.data.take 8)) (ofBytes ((p.data.drop 8).take 8))
    rackReply (s.vWrite a.1 a.2 (toBytes n v)) 0x24 3 p (toBytes 8 old))

/-- RM_LOAD of a home register (R136): its holder answers with the register's bytes. -/
def recvRmLoad (port region : Nat) (p : Pkt) (s : State) : State := match s.homeAt region p.addr with
  | some h => gatePkt s port 0x20 p (fun s => (.accept, s)) (fun s => rackReply s 0x21 3 p (h.bytes.take p.aux))
  | none => recvRmRead 0x20 0x21 3 port region p s

def execRmLoad (port : PortNo) (pkt : Pkt) (region t : Nat) (s : State) : Outcome :=
  .next (recvRmLoad port region pkt (s.at t))
def execRmGetReq (port : PortNo) (pkt : Pkt) (region t : Nat) (s : State) : Outcome :=
  .next (recvRmRead 0x29 0x2A 2 port region pkt (s.at t))
def execRmStore (port : PortNo) (pkt : Pkt) (region t : Nat) (s : State) : Outcome :=
  .next (recvRmStore port region pkt (s.at t))
def execRmPut (port : PortNo) (pkt : Pkt) (region t : Nat) (s : State) : Outcome :=
  .next (recvRmPut port region pkt (s.at t))
def execFetchAdd (port : PortNo) (pkt : Pkt) (region t : Nat) (s : State) : Outcome :=
  .next (recvRmAtomic 0 port region pkt (s.at t))
def execSwap (port : PortNo) (pkt : Pkt) (region t : Nat) (s : State) : Outcome :=
  .next (recvRmAtomic 1 port region pkt (s.at t))
def execCas (port : PortNo) (pkt : Pkt) (region t : Nat) (s : State) : Outcome :=
  .next (recvRmAtomic 2 port region pkt (s.at t))
def execFetchMaxu (port : PortNo) (pkt : Pkt) (region t : Nat) (s : State) : Outcome :=
  .next (recvRmAtomic 3 port region pkt (s.at t))
def execFetchMinu (port : PortNo) (pkt : Pkt) (region t : Nat) (s : State) : Outcome :=
  .next (recvRmAtomic 4 port region pkt (s.at t))
def execFetchOr (port : PortNo) (pkt : Pkt) (region t : Nat) (s : State) : Outcome :=
  .next (recvRmAtomic 5 port region pkt (s.at t))
def execFetchAnd (port : PortNo) (pkt : Pkt) (region t : Nat) (s : State) : Outcome :=
  .next (recvRmAtomic 6 port region pkt (s.at t))

/-! ## Rack answers at the requester (R274) -/

/-- The busy command of an answer: brick, slot and record. -/
def rackOf (s : State) (ops : List Nat) (p : Pkt) : Option (Nat × Nat × RackSlot) :=
  (List.find? (fun e => e.2.busy && ops.contains e.2.op && e.2.tag == p.tag && e.2.dst == p.srcMod) s.rmf.rack).map
    (fun e => (e.1 / 16, e.1 % 16, e.2))

/-- The data of a gather read has come, all or in part (R275). -/
def gatherData (s : State) (p : Pkt) : State :=
  let mine := fun (g : GatherRead) => g.tag == p.tag && g.dst == p.srcMod
  let gs := mapIf s.rmf.gathers mine (fun g => { g with missing := g.missing - p.data.length })
  endGathers { s with rmf := { s.rmf with gathers := gs } } (fun g => g.missing == 0)

/-- RM_LOAD_RESP and RM_GET_RESP: the data goes to the brick store; the last of it completes the command. -/
def recvRmData (op port : Nat) (p : Pkt) (s : State) : State :=
  gateMsg s port op p.data.length p (fun s => (.accept, s)) (fun s => match rackOf s [if op = 0x21 then 1 else 5] p with
    | none => if op = 0x21 then gatherData s p else s
    | some (b, n, r) =>
      if r.cmd.len < p.addr + p.data.length then s
      else
        let s := s.onBrick b (fun k => k.write (r.cmd.laddr + p.addr) p.data)
        let left := r.missing - p.data.length
        let s := s.setRackSlot b n { r with missing := left }
        if left = 0 then rackEnd s b n .ok else s)

/-- RM_ATOMIC_RESP writes RESULT and completes the command. -/
def recvRmResult (port : Nat) (p : Pkt) (s : State) : State :=
  gatePkt s port 0x24 p (fun s => (.accept, s)) (fun s => match rackOf s [3] p with
    | none => s
    | some (b, n, r) => rackEnd (s.setRackSlot b n { r with result := ofBytes (p.data.take 8) }) b n .ok)

def execRmGetResp (port : PortNo) (pkt : Pkt) (t : Nat) (s : State) : Outcome := .next (recvRmData 0x2A port pkt (s.at t))
def execRmAtomicResp (port : PortNo) (pkt : Pkt) (t : Nat) (s : State) : Outcome := .next (recvRmResult port pkt (s.at t))

/-! ## Collective groups (R282, R283, R422) -/

/-- The calls and the entry of an aborted step of a request end with TARGET_DEAD (R282). -/
def abortStep (s : State) (rid step : Nat) : State := match s.byRid rid with
  | none => s
  | some (slot, r) =>
    let s := endStepCalls s r.handle step .targetDead
    match s.entryOf r.pallet slot with
    | some (i, e) => if e.d.step = step then endEntryRun s r.pallet i .targetDead else s
    | none => s

/-- COLL_ABORT at a member. A step already aborted is not aborted again (R283). A module whose map has no such group ends its
part and forwards nothing. -/
def recvAbort (port : Nat) (p : Pkt) (a : CollAbort) (s : State) : State :=
  gatePkt s port 0x30 p (fun s => (.accept, s)) (fun s =>
    if s.rmf.aborted.any (fun x => x.2.1 == a.rid && x.2.2.1 == a.step) then s
    else match s.groupOf s.curEpoch a.rid with
      | some _ => collDetect s a.rid a.step a.reason a.tDetect a.origin
      | none =>
        let s := { s with rmf := { s.rmf with aborted := (a.gid, a.rid, a.step, a.tDetect) :: s.rmf.aborted } }
        abortStep ((s.searched 1).bump Obj.RMF_COLL_ABORTS 0) a.rid a.step)

def execCollAbort (port : PortNo) (pkt : Pkt) (a : CollAbort) (t : Nat) (s : State) : Outcome :=
  .next (recvAbort port pkt a (s.at t))

/-- COLL_ABORT_UNREACHABLE (R422): the origin's abort is not acknowledged 50 µs after T_DETECT. -/
def abortUnreachable (gid step member : Nat) (s : State) : State :=
  let mine := fun (h : Held) =>
    h.purpose == .abort gid step member && ofBytes ((h.pkt.data.drop 24).take 2) == s.moduleNum
      && ofBytes ((h.pkt.data.drop 16).take 8) + 50000 ≤ s.now
  match List.find? (fun e => (e.2.unacked ++ e.2.queued).any mine) s.trn.flows with
  | some e => s.raise 0x30 [(member, 2), (e.1, 2), (e.2.cls, 1)]
  | none => s

def execCollAbortUnreachable (gid step member t : Nat) (s : State) : Outcome :=
  .next (abortUnreachable gid step member (s.at t))

end Sys2Proof.Machine
end

