-- ==== Sys2Proof/Machine/Memory.lean ====
section
/-! DEFINITION. Memory tiers (chapter 07): placement commands and their leaf switches (R171 to R173), scratch write-back and the
gather engine's TLB and prefetch (R169, R174, R176), stalls (R178), and what a checked word does (R185, R186, R363, R418). -/

namespace Sys2Proof.Machine

/-! ## Placement (R171 to R173) -/

/-- The fields of a placement command lie in their ranges. -/
def placeValid (c : PlaceCmd) : Bool :=
  1 ≤ c.npages && c.npages ≤ 2 ^ 24 && c.va % 8192 = 0 && c.va + c.npages * 8192 ≤ 2 ^ 48

/-- The pages of a command, by their addresses. -/
def placePages (c : PlaceCmd) : List Nat := (List.range c.npages).map (fun i => c.va + i * 8192)

/-- A page belongs to a request that is not RESIDENT. -/
def pageMoving (s : State) (p va : Nat) : Bool :=
  (s.requestsOf p).any (fun e => e.2.vbase ≤ va && va < e.2.vbase + s.spanSize p && e.2.life ≠ .resident)

/-- PLACE_HBM leaves a page where it is: in HBM, in an allowed stack. -/
def placedAlready (s : State) (p mask va : Nat) : Bool := match s.leaf? p va with
  | some l => l.tier == .hbm && (mask = 0 || bitOf mask (stackOf l.target))
  | none => true

/-- An accepted PLACE_HBM that has not made its switches moves the page. -/
def promised (s : State) (p va : Nat) : Bool :=
  s.mem.placements.any (fun x => x.cmd.pallet.val == p && !x.switched && (NMap.get? x.frames va).isSome)

/-- Pages that PLACE_HBM brings into HBM beside those that accepted commands bring. -/
def newInHbm (s : State) (p : Nat) (pages : List Nat) : Nat :=
  countIf pages (fun va => match s.leaf? p va with
    | some l => l.tier ≠ .hbm && !promised s p va
    | none => false)

/-- Frames that count against MEM_HBM_QUOTA: those the pallet holds, and those that accepted PLACE_HBM commands will have given it.
A page on its way from one frame to another counts once. -/
def quotaFrames (s : State) (p : Nat) : Nat :=
  s.framesOf p - sumOf (s.mem.placements.filter (fun x => x.cmd.pallet.val == p && !x.switched)) (fun x =>
    countIf x.frames (fun e => match s.leaf? p e.1 with
      | some l => l.tier == .hbm
      | none => false))

/-- The pages of a command that PLACE_HBM moves. -/
def movedPages (s : State) (c : PlaceCmd) : List Nat :=
  (placePages c).filter (fun va => !placedAlready s c.pallet c.stackMask va)

/-- The refusal of a placement command (R172), none where it is accepted. `op` 1 is PLACE_HBM, 2 PLACE_HOST, 3 FLUSH. A PLACE_HBM within
the quota for which the allowed stacks have no free frame is refused as one beyond it (DESIGN CHOICE, log entry 128). -/
def placeRefusal (s : State) (issuer : Nat) (op : Nat) (c : PlaceCmd) : Option Status :=
  if !placeValid c then some .transportError
  else if op = 2 && c.hostPa % 8192 ≠ 0 then some .transportError
  else if !s.ownsPallet issuer c.pallet then some .accessDenied
  else
    let pages := placePages c
    if !pages.all (fun va => (s.leaf? c.pallet va).isSome) then some .accessDenied
    else if op = 2 && pages.any (fun va => vRegion va == .image || vRegion va == .spill) then some .accessDenied
    else if pages.any (pageMoving s c.pallet) then some .accessDenied
    else if op = 1 && s.obj Obj.MEM_HBM_QUOTA c.pallet < quotaFrames s c.pallet + newInHbm s c.pallet pages then some .admitDenied
    else if op = 1 && (s.takeFrames c.pallet c.stackMask (movedPages s c).length).isNone then some .admitDenied
    else none

/-- Switches the leaf of a page to its new location: the bytes go with it, the old frame is freed, and its copies are dropped (R170). -/
def switchLeaf (s : State) (p va : Nat) (l : Leaf) : State := match s.leaf? p va with
  | none => s
  | some old =>
    let data := s.vRead p va 8192
    let s := s.invalidateLeaf p (leafKey p va)
    let s := if old.tier == .hbm then s.freeFrame old.target else s
    (s.setLeaf p va { l with write := old.write, keyslot := old.keyslot }).pageWrite p va data

/-- The leaf of a page of a PLACE_HOST at its new location. -/
def hostLeaf (c : PlaceCmd) (va : Nat) : Leaf :=
  { write := false, tier := .host, ld := c.ld, target := (c.hostPa + (va - c.va)) / 8192 % 2 ^ 39, keyslot := 0 }

/-- The page is at its place in host memory. -/
def atHost (s : State) (c : PlaceCmd) (va : Nat) : Bool := match s.leaf? c.pallet va with
  | some l => l.tier == .host && l.ld == c.ld && l.target == (hostLeaf c va).target
  | none => true

/-- The copy of a page in host memory is identical to the page. -/
def hostCopied (s : State) (c : PlaceCmd) (va : Nat) : Bool :=
  memSeq s.host.hostMem (hostAddr c.ld (hostLeaf c va).hostPa) 8192 == s.vRead c.pallet va 8192

/-- Pages go to host memory by CXL.io writes, which one number stands for. -/
def hostCopies (s : State) (x : Placement) (pages : List Nat) : State :=
  let c := x.cmd
  let d : Dma := { id := x.id, ld := c.ld, addr := c.hostPa, since := s.now, purpose := .placement x.id, stalled := 0 }
  pages.foldl (fun s va =>
    let bs := s.vRead c.pallet va 8192
    let a := (hostLeaf c va).hostPa
    ({ s with host := { s.host with hostMem := memSplice s.host.hostMem (hostAddr c.ld a) bs } }).emit
      (.hostWrite x.id c.ld a bs))
    { s with host := { s.host with dmas := s.host.dmas ++ [d] } }

/-- A placement has made its last switch. -/
def setSwitched (s : State) (id : Nat) : State :=
  let xs := mapIf s.mem.placements (fun y => y.id == id) (fun y => { y with switched := true })
  { s with mem := { s.mem with placements := xs } }

/-- A placement ends: frames it took and has not used are free again. -/
def dropPlacement (s : State) (x : Placement) : State :=
  let s := { s with mem := { s.mem with placements := s.mem.placements.filter (fun y => y.id ≠ x.id) } }
  if x.switched then s else x.frames.foldl (fun s e => s.freeFrame e.2) s

/-- Makes the switches of a placement. A page in host memory that has been written since it was copied is copied again, and switched
later (R173); a host that can no longer be written fails the placement (R378). -/
def switchPlacement (s : State) (x : Placement) : State :=
  let p := x.cmd.pallet.val
  if x.op = 1 then
    setSwitched (x.frames.foldl (fun s e => match s.leaf? p e.1 with
      | some l => switchLeaf s p e.1 { l with tier := .hbm, ld := 0, target := e.2 }
      | none => s.freeFrame e.2) s) x.id
  else
    let left := (placePages x.cmd).filter (fun va => !atHost s x.cmd va)
    let again := left.filter (fun va => !hostCopied s x.cmd va)
    let s := (left.filter (hostCopied s x.cmd)).foldl (fun s va => switchLeaf s p va (hostLeaf x.cmd va)) s
    if again.isEmpty then setSwitched s x.id
    else if (s.ld x.cmd.ld).busMaster then hostCopies s x again
    else complete (dropPlacement (dmaFail s x.cmd.ld x.cmd.hostPa) x) x.source 0x07 .targetDead x.cmd.tag

/-- The copies of a placement to host memory have not all completed (R378). -/
def State.copying (s : State) (x : Placement) : Bool := s.host.dmas.any (fun d => d.purpose == .placement x.id)

/-- At a step boundary of a pallet, every placement whose pages are copied makes its switches (R173). -/
def switchAll (s : State) (p : Nat) : State :=
  (s.mem.placements.filter (fun x => x.cmd.pallet.val == p && !x.switched && !s.copying x)).foldl switchPlacement s

/-- Starts a placement, or a flush, that has passed its checks. A host whose function is no bus master fails it (R378). -/
def startPlacement (s : State) (op : Nat) (c : PlaceCmd) (src : Source) : State :=
  if op = 2 && !(s.ld c.ld).busMaster then complete (dmaFail s c.ld c.hostPa) src 0x07 .targetDead c.tag
  else if op = 3 then addFlush s { what := .command src c.tag, pallet := c.pallet, va := c.va, len := c.npages * 8192 }
  else
    let n := s.newId
    let s := n.2
    let moved := if op = 1 then movedPages s c else []
    let taken := (s.takeFrames c.pallet c.stackMask moved.length).getD ([], s)
    let s := if op = 1 then taken.2 else s
    let x : Placement := { id := n.1, op := op, cmd := c, source := src, frames := moved.zip taken.1, switched := false }
    let s := { s with mem := { s.mem with placements := s.mem.placements ++ [x] } }
    if op = 2 then hostCopies s x ((placePages c).filter (fun va => !atHost s c va)) else s

/-- A placement command from a host ring or the rack fabric manager. TAG returns in VALUE, and as the tag of a ring's
completion. -/
def place (s : State) (issuer op : Nat) (c : PlaceCmd) (src : Source) : State :=
  match placeRefusal s issuer op c with
  | some st => complete s src 0x07 st c.tag
  | none => startPlacement s op c src

/-- A placement command of a CMD ring. -/
def placeEntry (o r op : Nat) (c : PlaceCmd) (s : State) : State :=
  onEntry s o r (fun s => place s o op c (.ring o r c.tag))

def execPlaceHbm (o : OwnerNo) (r : RingNo) (cmd : PlaceCmd) (t : Nat) (s : State) : Outcome :=
  .next (placeEntry o r 1 cmd (s.at t))
def execPlaceHost (o : OwnerNo) (r : RingNo) (cmd : PlaceCmd) (t : Nat) (s : State) : Outcome :=
  .next (placeEntry o r 2 cmd (s.at t))
def execFlush (o : OwnerNo) (r : RingNo) (cmd : PlaceCmd) (t : Nat) (s : State) : Outcome :=
  .next (placeEntry o r 3 cmd (s.at t))

/-- PLACEMENT_DONE (R173): once the switches are made, which needs a step boundary or a pallet that runs no step (R170), the
command completes. -/
def placementDone (id : Nat) (s : State) : State := match s.mem.placements.find? (fun x => x.id == id) with
  | none => s
  | some x =>
    if (!x.switched && (s.pallet x.cmd.pallet).run.isSome) || s.copying x then s
    else
      let s := if x.switched then s else switchPlacement s x
      match s.mem.placements.find? (fun x => x.id == id) with
      | some x => if x.switched then complete (dropPlacement s x) x.source 0x07 .ok x.cmd.tag else s
      | none => s

def execPlacementDone (id t : Nat) (s : State) : Outcome := .next (placementDone id (s.at t))

/-! ## Write-back, TLB and prefetch (R169, R174, R176) -/

/-- WRITEBACK_COMPLETE: the sector's data stands in HBM and its dirty bit clears; where a write landed during the write-back the
bit stays set, and the sector is written back again. -/
def writebackComplete (b sector va : Nat) (s : State) : State :=
  let k := s.brick b
  if !k.dirty.contains sector then s
  else
    let p := (s.palletOf b).getD 0
    let s := if k.again.contains sector then s.setBrick b { k with again := k.again.filter (fun x => x ≠ sector) }
      else
        let s := s.setBrick b { k with dirty := k.dirty.filter (fun x => x ≠ sector) }
        if vRegion va = .scratch && va % 4096 = 0 && s.vWritable p va 4096 then
          s.pageWrite p va (memSeq k.store (sector * 4096) 4096)
        else s
    if (s.palletOf b).isSome then s.bump Obj.MEM_WRITEBACK_SECTORS p else s

def execWritebackComplete (b : BrickNo) (x : SectorAt) (s : State) : Outcome := .next (writebackComplete b x.sector x.va s)

/-! ## Flushes (R175) -/

/-- No brick of a pallet holds a dirty sector: its write-backs are complete. -/
def scratchClean (s : State) (p : Nat) : Bool := (s.rect p).bricks.all (fun b => (s.brick b).dirty.isEmpty)

/-- A range touches the SCRATCH region. -/
def inScratch (va len : Nat) : Bool := va < 0x400000000000 && 0x200000000000 < va + len

/-- The status of a flush: pages of the HOST tier whose host can no longer be written fail it (R378). -/
def flushStatus (s : State) (f : FlushRec) : Status :=
  if (s.vHostLds f.pallet f.va f.len).all (fun k => (s.ld k).busMaster) then .ok else .targetDead

/-- A flush is complete: what the range holds of scratch has been written back. -/
def flushReady (s : State) (f : FlushRec) : Bool := !inScratch f.va f.len || scratchClean s f.pallet

/-- A leaf entry goes to the front of a TLB of 1,024 entries in 128 sets of 8 ways; its set's least recently used entry
leaves. -/
def tlbInsert (tlb : List Nat) (key : Nat) : List Nat :=
  let t := tlb.filter (fun k => k ≠ key)
  let set := t.filter (fun k => k % 128 == key % 128)
  let t := if set.length < 8 then t else match set.getLast? with
    | some old => t.filter (fun k => k ≠ old)
    | none => t
  key :: t

/-- What the end of a gather read's message does to the read (R279, R281): a route again under a new epoch rebinds it, any other
status ends it. An ACK leaves it to its data. -/
def gatherFin (tag : Nat) (res : Option Status) (s : State) : State := match res with
  | none => s
  | some .epochStale =>
    let e := s.curEpoch
    let rebind := fun (g : GatherRead) =>
      { g with epoch := e, dst := ((s.record? e 2 g.region).map (·.home)).getD g.dst }
    { s with rmf := { s.rmf with gathers := mapIf s.rmf.gathers (fun g => g.tag == tag) rebind } }
  | some _ => endGathers s (fun g => g.tag == tag)

def gatherFinOf : Fin' := fun m r s => match m with
  | .gather tag => gatherFin tag r s
  | _ => s

/-- The gather read of a REMOTE page (R275): RM_LOAD packets for its two halves go to the HOME of the window's region. -/
def windowRead (s : State) (p : Nat) (l : Leaf) : State := match List.find? (fun e => e.1 == l.target % 2 ^ 12) (s.windows p) with
  | none => s
  | some (_, w) =>
    let s := s.searched 1
    match s.record? (s.stepEpoch p) 2 w.region with
    | none => s
    | some g =>
      let t := newTag s
      let off := (w.page0 + l.target / 2 ^ 12) * 8192
      let pkt := fun (a : Nat) =>
        { Pkt.zero with
          epoch := s.stepEpoch p, dstMod := g.home, keyId := palletKeyId s p, addr := a, rkey := w.region, tag := t.1,
          imm := 0x1FFFF, birth := s.now, first := true, last := true, aux := 4096 }
      let r : GatherRead :=
        { tag := t.1, region := w.region, dst := g.home, pallet := p, epoch := s.stepEpoch p, missing := 8192, since := s.now,
          stalled := 0 }
      let s' := { t.2 with rmf := { t.2.rmf with gathers := t.2.rmf.gathers ++ [r] } }
      sendPkts s' gatherFinOf (.gather t.1) 0x20 3 g.home (s.stepEpoch p) [pkt off, pkt (off + 4096)]

/-- A request carries TARGET_DEAD in its entry of the running step: a page of it failed (R378, R493). -/
def pageFailed (s : State) (p handle : Nat) : State := match s.byHandle handle with
  | none => s
  | some (slot, _) => match s.entryOf p slot with
    | some (i, e) => if e.nostep && e.ended then s else failEntry s p i .targetDead
    | none => s

/-- The read of a HOST page by a CXL.io access (R378). -/
def hostPageRead (s : State) (p va : Nat) (l : Leaf) : State :=
  let handle := match (s.requestsOf p).find? (fun e => e.2.vbase ≤ va && va < e.2.vbase + s.spanSize p) with
    | some e => e.2.handle
    | none => 0
  if (s.ld l.ld).busMaster then
    let n := s.newId
    let s := n.2
    let d : Dma := { id := n.1, ld := l.ld, addr := l.hostPa, since := s.now, purpose := .page p handle, stalled := 0 }
    ({ s with host := { s.host with dmas := s.host.dmas ++ [d] } }).emit (.hostRead n.1 l.ld l.hostPa 8192)
  else pageFailed (dmaFail s l.ld l.hostPa) p handle

/-- A level-1 entry goes to the front of a walk cache of 64; the least recently used leaves. -/
def walkInsert (walks : List Nat) (key : Nat) : List Nat := (key :: walks.filter (fun k => k ≠ key)).take 64

/-- TRANSLATION_WALK_DONE: the walk reads the four levels, the walk cache takes the level-1 entry and the TLB the leaf; an address that
is not mapped is an access fault (R162). -/
def walkDone (b p va : Nat) (s : State) : State :=
  let s := (s.bump Obj.MEM_WALKS p).bump Obj.MEM_TLB_MISSES p
  match s.walk p va with
  | some l =>
    let s := s.onBrick b (fun k => { k with
      tlb := tlbInsert k.tlb (leafKey p va), walks := walkInsert k.walks (walkKey (leafKey p va)) })
    if l.tier == .remote then windowRead s p l else if l.tier == .host then hostPageRead s p va l else s
  | none => brickFault s b 3 { FaultAt.nowhere with brick := some b, tval := va % 2 ^ 32 }

def execTranslationWalkDone (b : BrickNo) (p : PalletNo) (va t : Nat) (s : State) : Outcome :=
  .next (walkDone b p va (s.at t))

/-- The brick that a page is prefetched into (R176). -/
def prefetchBrick (s : State) (p frame : Nat) : Option Nat :=
  let bs := (s.rect p).bricks.filter (fun b => homeStack b == stackOf frame)
  if bs.isEmpty then none else bs[frame % bs.length]?

/-- PREFETCH: the page becomes the brick's most recently used; beyond MEM_PREFETCH_KIB the least recently used leaves. -/
def prefetchPage (p va : Nat) (s : State) : State := match s.leaf? p va with
  | none => s
  | some l =>
    let room := s.obj Obj.MEM_PREFETCH_KIB p / 8
    if l.tier ≠ .hbm || room = 0 then s
    else match prefetchBrick s p l.target with
      | none => s
      | some b =>
        let key := leafKey p va
        let held := (s.brick b).prefetched
        let used := held.any (fun q => q.1 == key && q.2)
        let list := (key, used) :: held.filter (fun q => q.1 ≠ key)
        let wasted := countIf (list.drop room) (fun q => !q.2)
        (s.onBrick b (fun k => { k with prefetched := list.take room })).bumpBy Obj.MEM_PREFETCH_WASTED p wasted

def execPrefetch (p : PalletNo) (va t : Nat) (s : State) : Outcome := .next (prefetchPage p va (s.at t))

/-- MEM_PREFETCH_KIB has a new value: what the bricks of the pallet hold beyond it leaves, least recently used first (R176). -/
def trimPrefetch (s : State) (p : Nat) : State :=
  let room := s.obj Obj.MEM_PREFETCH_KIB p / 8
  (s.rect p).bricks.foldl (fun s b =>
    let held := (s.brick b).prefetched
    if held.length ≤ room then s
    else (s.onBrick b (fun k => { k with prefetched := held.take room })).bumpBy Obj.MEM_PREFETCH_WASTED p
      (countIf (held.drop room) (fun q => !q.2))) s

/-- A page is read for a call: its prefetched copy, if any, is used. -/
def usePrefetched (s : State) (p va : Nat) : State :=
  let key := leafKey p va
  s.array.bricks.foldl (fun s e =>
    if (s.rect p).has e.1 && e.2.prefetched.any (fun q => q.1 == key && !q.2) then
      (s.onBrick e.1 (fun k => { k with
        prefetched := (key, true) :: k.prefetched.filter (fun q => q.1 ≠ key) })).bump Obj.MEM_PREFETCH_USED p
    else s) s

/-! ## Stalls (R178) -/

/-- The first cause that applies to the wait of a token at a brick for a page (R178), by its code less 1: the request is held; the
page's key is not in the controllers; the brick's TLB does not hold the leaf, so a walk is in progress; else a read is
outstanding, by the page's tier. -/
def stallCause (s : State) (b p va : Nat) : Nat :=
  let owner := (s.requestsOf p).find? (fun e => e.2.vbase ≤ va && va < e.2.vbase + s.spanSize p)
  let held := match owner.bind (fun e => s.entryOf p e.1) with
    | some (_, e) => e.held.isSome
    | none => false
  if held then 5
  else match s.leaf? p va with
    | none => 1
    | some l =>
      if !s.keysReady l.keyslot then 4
      else if !(s.brick b).tlb.contains (leafKey p va) then 1
      else match l.tier with
        | .hbm => 0
        | .host => 3
        | .remote => 2

/-- STALL_THRESHOLD: the wait of a token at a brick for a page has lasted `wait` nanoseconds, the last `ns` of them under the cause
that now applies. Beyond MEM_STALL_NS it is one event of the cause, and its brick-nanoseconds. A wait that the state holds is
counted by its own instant. -/
def stallThreshold (b p va wait ns : Nat) (s : State) : State :=
  let cause := stallCause s b p va
  let owner := (s.requestsOf p).find? (fun e => e.2.vbase ≤ va && va < e.2.vbase + s.spanSize p)
  let handle := (owner.map (·.2.handle)).getD 0
  if cause = 5 || (cause = 3 && s.host.dmas.any (fun d => d.purpose == .page p handle)) then stallRequest s p handle
  else if cause = 2 && s.rmf.gathers.any (fun g => g.pallet == p) then stallGathers s p
  else if wait ≤ s.obj Obj.MEM_STALL_NS p then s
  else
    let s := (s.bump (Obj.MEM_STALL_EVENTS + cause) p).bumpBy (Obj.MEM_STALL_NS_SUM + cause) p ns
    stallSample s p cause false (some b)

def execStallThreshold (p : PalletNo) (w : StallWait) (t : Nat) (s : State) : Outcome :=
  .next (stallThreshold w.b p w.va w.wait w.ns (s.at t))

/-! ## Checked words (R185, R186, R363, R418) -/

/-- A range of HDM addresses holds a line. -/
def holdsLine (base len addr : Nat) : Bool := base < addr / 64 * 64 + 64 && addr / 64 * 64 < base + len

/-- The transport queues whose ring a line of an owner's window lies in. -/
def queuesAt (s : State) (o addr : Nat) : List Nat :=
  (s.trn.queues.filter (fun e => e.2.ld == o && e.2.state == 1 && e.2.typ ≠ 3
    && holdsLine e.2.ring (e.2.size * 64) addr)).map (·.1)

/-- Bytes of a host ring's area. -/
def Ring.area (v : Ring) : Nat := if v.kind = 3 then v.size * 32 else if v.kind = 4 then v.size + 64 else v.size * 64

/-- The body of the entry at HEAD of a ring lies on a line: the entry names it by address. -/
def bodyAt (s : State) (o : Nat) (v : Ring) (addr : Nat) : Bool :=
  let a := v.entryAddr v.head
  v.active && v.head ≠ v.visible && !bitOf (s.winNat o (a + 1) 1) 0
    && holdsLine (s.winNat o (a + 16) 8) (s.winNat o (a + 8) 4) addr

/-- The command at HEAD of a CMD ring, or every entry of the descriptor at HEAD of a STEP ring, completes with UNCORRECTABLE. -/
def bodyLost (s : State) (o r : Nat) : State :=
  let v := s.ring o r
  let a := v.entryAddr v.head
  let s := s.setRing o r { v with head := (v.head + 1) % 2 ^ 32, taken := v.taken + 1 }
  if v.kind = 1 then complete s (.ring o r (s.winNat o (a + 4) 4)) (s.winNat o a 1) .uncorrectable 0
  else match NMap.get [] s.asc.descs (o * 64 + r) with
    | [] => entryEnded s o r
    | d :: ds =>
      let s := { s with asc := { s.asc with descs := NMap.put [] s.asc.descs (o * 64 + r) ds } }
      let x := refusedRecord s d .uncorrectable
      postResult x.2 o r x.1

/-- Both copies of a line of a window are uncorrectable (R363). -/
def mirrorLost (s : State) (o addr : Nat) (device : Bool) : State :=
  let line := addr / 64 * 64
  let s := s.bump Obj.HST_MIRROR_UNCORR o
  let s := if o = 16 then s
    else s.onLd o (fun d =>
      { d with
        status := d.status ||| 1#3, aerInternal := true, logHandle := d.logHandle + 1,
        logs := NMap.put [] d.logs 2 (NMap.get [] d.logs 2 ++ [(d.logHandle + 1, line, b2n device)]) })
  let s := s.raise 0x13 [(o, 1), (0, 7), (line, 8)]
  let s := postEvent s o 0x83 .uncorrectable line 0
  let s := (queuesAt s o addr).foldl (fun s q => queueError s q none .uncorrectable) s
  (List.range 64).foldl (fun s r =>
    let v := s.ring o r
    if v.active && holdsLine v.base v.area addr then ringError s o r .uncorrectable
    else if (v.kind = 1 || v.kind = 2) && bodyAt s o v addr then bodyLost s o r
    else s) s

/-- The class a word's place is counted in: 0 HBM, 1 brick, 2 mortar. -/
def eccClass : WordPlace → Nat
  | .requestState _ _ | .palletImage _ _ | .queueContext _ | .hostStructure _ _ => 0
  | .brickStore _ _ | .accumulator _ _ | .instrBuffer _ => 1
  | .mortarFlit _ => 2

/-- A word of a request's state is uncorrectable: its entries carry UNCORRECTABLE from the running step on. -/
def requestWord (s : State) (slot region : Nat) : State := match s.request? slot with
  | none => s
  | some r =>
    let s := s.raise 0x10 [(r.rid, 8), (r.handle, 4), (region, 1)]
    let s := s.onLocal slot (fun l => { l with uncorr := true })
    match s.entryOf r.pallet slot with
    | some (i, e) => if e.nostep && e.ended then s else markEntry s r.pallet i .uncorrectable
    | none => s

/-- What an uncorrectable word does, by its place (R185). -/
def uncorrectable (s : State) (place : WordPlace) : State :=
  let s := (s.bump (match eccClass place with
    | 0 => Obj.MEM_ECC_HBM_UNCORR
    | 1 => Obj.MEM_ECC_BRICK_UNCORR
    | _ => Obj.MEM_ECC_MORTAR_UNCORR) 0).bump Obj.ERR_UNCORR_WORDS 0
  match place with
  | .requestState slot region => requestWord s slot region
  | .palletImage p frame => palletFault (s.raise 0x11 [(p, 1), (0, 3), (frame, 4)]) p 4 FaultAt.nowhere
  | .queueContext q => queueError (s.raise 0x12 [(q, 4)]) q none .uncorrectable
  | .hostStructure o addr => mirrorLost s o addr true
  | .brickStore b _ => brickFault s b 4 { FaultAt.nowhere with brick := some b }
  | .accumulator b _ => brickFault s b 4 { FaultAt.nowhere with brick := some b }
  | .instrBuffer b => brickFault s b 4 { FaultAt.nowhere with brick := some b }
  | .mortarFlit p =>
    let a := s.fresh 12
    let b := a.2.fresh 12
    flitWord b.2 p a.1 b.1 false

/-- The line that holds an HBM address is rewritten with a corrected ciphertext word, under its tweak. Regions whose bytes follow from
other state hold the corrected word already. -/
def rewriteLine (s : State) (a word : Nat) : State := match s.frameLeaf (a / 8192) with
  | none => s
  | some (key, _) =>
    if (s.recordAt (key / 2 ^ 35) (key % 2 ^ 35 * 8192 + a % 8192)).isSome then s
    else { s with mem := { s.mem with hbm := memSplice s.mem.hbm (a / 64 * 64) (s.lineWith a word) } }

/-- A stored word is rewritten corrected, at its address in its place (R185): an HBM physical address, or a byte of the brick store or
of the accumulator file. No write to it is queued, since every write of the model is done at once. -/
def rewriteWord (s : State) (place : WordPlace) (addr word : Nat) : State := match place with
  | .requestState _ _ => rewriteLine s addr word
  | .palletImage _ _ => rewriteLine s addr word
  | .brickStore b a => s.onBrick b (fun k => { k with store := memSplice k.store (a / 8 * 8) (toBytes 8 word) })
  | .accumulator b a => s.onBrick b (fun k => { k with acc := memSplice k.acc (a / 8 * 8) (toBytes 8 word) })
  | _ => s

/-- A protected word is read: corrected words are counted and rewritten, uncorrectable ones handled. The word, where there is one. -/
def checkedWord (place : WordPlace) (addr data check : Nat) (s : State) : Option Nat × State := match eccDecode data check with
  | .good => (some data, s)
  | .corrected w => (some w, rewriteWord (s.bump (match eccClass place with
      | 0 => Obj.MEM_ECC_HBM_CORR
      | 1 => Obj.MEM_ECC_BRICK_CORR
      | _ => Obj.MEM_ECC_MORTAR_CORR) 0) place addr w)
  | .uncorrectable => (none, uncorrectable s place)

/-- The word that a read delivers: a word of a page is decrypted after its check (R181). -/
def plainWord (s : State) (place : WordPlace) (addr word : Nat) : Nat :=
  if (match place with
    | .requestState _ _ => true
    | .palletImage _ _ => true
    | _ => false) then ofBytes (((s.lineWith addr word).drop (addr % 64 / 8 * 8)).take 8)
  else word

/-- PROTECTED_READ: a word that passes, or is corrected, is delivered; an uncorrectable one never is. -/
def protectedRead (place : WordPlace) (addr data check : Nat) (s : State) : State :=
  let r := checkedWord place addr data check s
  match r.1 with
  | some w => r.2.emit (.word place addr (plainWord r.2 place addr w))
  | none => r.2

def execProtectedRead (place : WordPlace) (addr : Nat) (word : BitVec 64 × BitVec 16) (t : Nat) (s : State) : Outcome :=
  .next (protectedRead place addr word.1.toNat word.2.toNat (s.at t))

/-! ## Scrubs (R186) -/

/-- The place a scrub checks next of `len` places, in ascending order; a pass begins no sooner than a period after the pass before it
began, and until then there is none. -/
def scrubNext (s : State) (key len period : Nat) : Option (Nat × State) :=
  let x := (NMap.get? s.mem.scrubs key).getD (0, 0)
  if x.1 = 0 && (NMap.get? s.mem.scrubs key).isSome && s.now < x.2 + period then none
  else
    let began := if x.1 = 0 then s.now else x.2
    some (x.1, { s with mem := { s.mem with scrubs := NMap.ins s.mem.scrubs key ((x.1 + 1) % len, began) } })

/-- The physical address of line n of a stack: 128 lines to a frame. -/
def stackLine (stack n : Nat) : Nat := (n / 128 * 8 + stack) * 8192 + n % 128 * 64

/-- HBM_SCRUB: the stack's next line is read, checked word by word, and rewritten. -/
def hbmScrub (stack : Nat) (words : List (Nat × Nat)) (place : WordPlace) (s : State) : State :=
  match scrubNext s stack 805306368 (s.obj Obj.MEM_SCRUB_PERIOD 0 * 1000000000) with
  | none => s
  | some (n, s) => words.zipIdx.foldl (fun s e => (checkedWord place (stackLine stack n + 8 * e.2) e.1.1 e.1.2 s).2) s

def execHbmScrub (stack : Fin 8) (data : List (BitVec 64)) (check : List (BitVec 16)) (place : WordPlace) (t : Nat) (s : State) :
    Outcome :=
  .next (hbmScrub stack ((data.zip check).map (fun w => (w.1.toNat, w.2.toNat))) place (s.at t))

/-- The place of word n of a brick: 2 MiB of brick store, then 256 KiB of accumulator file. -/
def brickWord (b : BrickNo) (n : Nat) : WordPlace :=
  if n < 262144 then .brickStore b (8 * n) else .accumulator b (8 * (n - 262144))

/-- A place of a brick's memories. -/
def brickPlace (b : BrickNo) (acc : Bool) (addr : Nat) : WordPlace := if acc then .accumulator b addr else .brickStore b addr

/-- BRICK_SCRUB: the brick's next word is read, checked and rewritten; the scrub takes no word out of its turn. -/
def brickScrub (b : BrickNo) (data check : Nat) (acc : Bool) (addr : Nat) (s : State) : State :=
  match scrubNext s (8 + b) 294912 (s.obj Obj.MEM_BRICK_SCRUB_MS 0 * 1000000) with
  | none => s
  | some (n, u) => if brickPlace b acc addr = brickWord b n then (checkedWord (brickWord b n) 0 data check u).2 else s

def execBrickScrub (b : BrickNo) (data : BitVec 64) (check : BitVec 16) (acc : Bool) (addr t : Nat) (s : State) : Outcome :=
  .next (brickScrub b data.toNat check.toNat acc addr (s.at t))

/-- FLIT_UNCORRECTABLE (R23, R418): counted with the uncorrectable words. -/
def execFlitUncorrectable (p : PalletNo) (node src : Nat) (headerBad : Bool) (t : Nat) (s : State) : Outcome :=
  .next (flitUncorr (s.at t) p node src headerBad)

end Sys2Proof.Machine
end

