-- ==== Sys2Proof/Machine/Codec.lean ====
section
/-! DEFINITION. State compression (R190 to R200): the tables of a stream, canonical codes, blocks and their index entries, the
stream header, and the checks of a decode. -/

namespace Sys2Proof.Machine

/-- Bytes of a unit, and of its part A (R190). -/
def unitSize : Nat := 9216
def partA : Nat := 8192

/-! ## Building a table (R195) -/

/-- A node of the tree under construction: weight, order key, the byte values below it. -/
abbrev HNode := Nat × Nat × List Nat

/-- Inserts by (weight, key). -/
def hIns (x : HNode) : List HNode → List HNode
  | [] => [x]
  | y :: ys => if x.1 < y.1 || (x.1 = y.1 && x.2.1 < y.2.1) then x :: y :: ys else y :: hIns x ys

/-- Merges the two least nodes until one is left: the depths of the leaves. -/
def hMerge : Nat → Nat → List HNode → Array Nat → Array Nat
  | fuel + 1, key, a :: b :: rest, len =>
    let leaves := a.2.2 ++ b.2.2
    hMerge fuel (key + 1) (hIns (a.1 + b.1, key, leaves) rest) (leaves.foldl (fun l i => l.modify i (· + 1)) len)
  | _, _, _, len => len

/-- Σ 2^(12 − len) over the non-zero lengths. -/
def kraft (len : List Nat) : Nat := sumOf (len.filter (· ≠ 0)) (fun l => 2 ^ (12 - l))

/-- The best index below 256 that satisfies a test, by a strict order. -/
def pickBy (ok : Nat → Bool) (better : Nat → Nat → Bool) : Option Nat :=
  (List.range 256).foldl (fun a x => if !ok x then a else match a with
    | none => some x
    | some y => if better x y then some x else a) none

/-- Lengthens codes while there are too many short ones. -/
def kraftDown (w : Array Nat) : Nat → Array Nat → Array Nat
  | 0, len => len
  | fuel + 1, len =>
    if kraft len.toList ≤ 4096 then len
    else
      let l := fun x => len.getD x 0
      match pickBy (fun x => l x < 12) (fun x y => l y < l x || (l x = l y && w.getD x 0 ≤ w.getD y 0)) with
      | some x => kraftDown w fuel (len.modify x (· + 1))
      | none => len

/-- Shortens codes until the code space is full. -/
def kraftUp (w : Array Nat) : Nat → Array Nat → Array Nat
  | 0, len => len
  | fuel + 1, len =>
    let k := kraft len.toList
    if 4096 ≤ k then len
    else
      let l := fun x => len.getD x 0
      match pickBy (fun x => 2 ^ (12 - l x) ≤ 4096 - k) (fun x y => l y < l x || (l x = l y && w.getD y 0 < w.getD x 0)) with
      | some x => kraftUp w fuel (len.modify x (· - 1))
      | none => len

/-- Code lengths from the byte counts. -/
def buildLens (counts : List Nat) : List Nat :=
  let w := (counts.map (· + 1)).toArray
  let leaves : List HNode := (List.range 256).map (fun x => (w.getD x 1, x, [x]))
  let len := hMerge 255 256 (leaves.foldl (fun l x => hIns x l) []) (Array.replicate 256 0)
  (kraftUp w 4096 (kraftDown w 4096 (len.map (min 12)))).toList

/-- Byte counts of a list of bytes. -/
def byteCounts (bs : List Byte) : List Nat :=
  (bs.foldl (fun a b => Array.modify a b.toNat (· + 1)) (Array.replicate 256 0)).toList

/-- Every byte of a unit is zero. -/
def isZeroUnit (u : List Byte) : Bool := u.all (· == 0)

/-- The sample of R195. -/
def sampleOf (stride : Nat) (units : List (List Byte)) : List (List Byte) :=
  let l := (units.zipIdx.filter (fun e => e.2 % stride = 0 && !isZeroUnit e.1)).map (·.1)
  if l.isEmpty then (units.filter (fun u => !isZeroUnit u)).take 1 else l

/-- The two tables of a stream. -/
def buildTables (stride : Nat) (units : List (List Byte)) : Tables :=
  let l := sampleOf stride units
  [buildLens (byteCounts (l.flatMap (List.take partA))), buildLens (byteCounts (l.flatMap (List.drop partA)))]

/-- A table in the table area (R192). -/
def tableBytes (tid : Nat) (len : List Nat) : List Byte :=
  pack [(tid + 12 * 2 ^ 4 + 256 * 2 ^ 16, 4), (0, 4)]
    ++ (List.range 128).map (fun i => BitVec.ofNat 8 (len.getD (2 * i) 0 + 16 * len.getD (2 * i + 1) 0))

/-- A table as it is read. -/
structure CodeTable where
  tid : Nat
  maxlen : Nat
  nsym : Nat
  lens : List Nat
  deriving DecidableEq, Repr

/-- The table that 136 bytes spell (R192). -/
def tableOf (bs : List Byte) : CodeTable :=
  let w := ofBytes (bs.take 4)
  { tid := bitsOf w 0 4, maxlen := bitsOf w 4 4, nsym := bitsOf w 16 16,
    lens := ((bs.drop 8).take 128).flatMap (fun b => [b.toNat % 16, b.toNat / 16]) }

/-- A decoder accepts a table at a position of the table area (R193). -/
def CodeTable.ok (t : CodeTable) (pos : Nat) : Bool :=
  t.maxlen = 12 && t.nsym = 256 && t.tid = pos && t.lens.all (· ≤ 12) && kraft t.lens = 4096

/-! ## Codes (R194) -/

/-- The first code of a length. -/
def firstCode (len : List Nat) : Nat → Nat
  | 0 => 0
  | l + 1 => (firstCode len l + (if l = 0 then 0 else countIf len (· = l))) * 2

/-- The code of a byte value. -/
def codeOf (len : List Nat) (x : Nat) : Nat :=
  firstCode len (len.getD x 0) + countIf (len.take x) (· = len.getD x 0)

/-- The bits of a code, most significant first. -/
def codeBits : Nat → Nat → List Bool
  | 0, _ => []
  | l + 1, c => bitOf c l :: codeBits l c

/-- The bits of a part. -/
def partBits (len : List Nat) (bs : List Byte) : List Bool :=
  let table := ((List.range 256).map (fun x => codeBits (len.getD x 0) (codeOf len x))).toArray
  bs.flatMap (fun b => table.getD b.toNat [])

/-- Eight bits, the first the most significant, as a byte. -/
def bitsByte (bs : List Bool) : Byte := BitVec.ofNat 8 ((bs ++ List.replicate (8 - bs.length) false).foldl (fun a b => 2 * a + b2n b) 0)

/-- Bits packed into bytes from bit 7 down, the last byte filled with zeros: `n` bounds the bytes. -/
def packBits : Nat → List Bool → List Byte
  | 0, _ => []
  | n + 1, l => if l.isEmpty then [] else bitsByte (l.take 8) :: packBits n (l.drop 8)

/-! ## Blocks (R190, R196, R197) -/

/-- Codes a unit with the tables of its stream. -/
def encodeUnit (t : Tables) (u : List Byte) : Coded :=
  let crc := crc32c u
  if isZeroUnit u then { typ := .zero, ta := 0, tb := 0, lenA := 0, lenB := 0, bytes := [], crc := crc }
  else
    let a := partBits (t.getD 0 []) (u.take partA)
    let b := partBits (t.getD 1 []) (u.drop partA)
    let n := roundUp (ceilDiv a.length 8 + ceilDiv b.length 8) 8
    if n < unitSize then
      { typ := .coded, ta := 0, tb := 1, lenA := a.length, lenB := b.length,
        bytes := padTo n (packBits unitSize a ++ packBits unitSize b), crc := crc }
    else { typ := .raw, ta := 0, tb := 0, lenA := 0, lenB := 0, bytes := u, crc := crc }

/-- A unit kept as it is. -/
def rawBlock (u : List Byte) : Coded :=
  { typ := .raw, ta := 0, tb := 0, lenA := 0, lenB := 0, bytes := u, crc := crc32c u }

/-- The code of a block type. -/
def BlockType.code : BlockType → Nat
  | .zero => 0 | .coded => 1 | .raw => 2 | .reserved => 3

/-- The block type of a code. -/
def blockTypeOf (n : Nat) : BlockType := if n = 0 then .zero else if n = 1 then .coded else if n = 2 then .raw else .reserved

/-- A block's index entry. -/
def entryBytes (offset : Nat) (c : Coded) : List Byte :=
  pack [(offset, 4), (c.typ.code + c.ta * 2 ^ 2 + c.tb * 2 ^ 6 + c.lenA * 2 ^ 10, 4), (c.lenB, 4), (c.crc, 4)]

/-- The offset and the block, less its bytes, that an index entry names. -/
def entryOf (e : List Byte) : Nat × Coded :=
  let w := ofBytes ((e.drop 4).take 4)
  (ofBytes (e.take 4),
    { typ := blockTypeOf (bitsOf w 0 2), ta := bitsOf w 2 4, tb := bitsOf w 6 4, lenA := bitsOf w 10 17,
      lenB := bitsOf (ofBytes ((e.drop 8).take 4)) 0 14, bytes := [], crc := ofBytes ((e.drop 12).take 4) })

/-- The bytes a block takes, by its TYPE and lengths. -/
def Coded.size (c : Coded) : Nat := match c.typ with
  | .zero | .reserved => 0
  | .coded => roundUp (ceilDiv c.lenA 8 + ceilDiv c.lenB 8) 8
  | .raw => unitSize

/-! ## Decoding (R199, R200) -/

/-- Outcomes of the checks of a decode. -/
inductive DecodeRes where
  | ok (bytes : List Byte)
  | damaged (check : CheckFail)
  deriving DecidableEq, Repr

/-- The symbol whose code has `l` bits and the value `c`. -/
def symbolOf (len : List Nat) (l c : Nat) : Option Nat :=
  if c < firstCode len l then none
  else ((List.range 256).filter (fun x => len.getD x 0 = l))[c - firstCode len l]?

/-- Decodes every code of a list of bits: none where the last code is cut short. -/
def decodeBits (len : List Nat) : List Bool → Nat → Nat → List Byte → Option (List Byte)
  | [], l, _, acc => if l = 0 then some acc.reverse else none
  | b :: bs, l, c, acc =>
    let l := l + 1
    let c := 2 * c + b2n b
    match symbolOf len l c with
    | some x => decodeBits len bs 0 0 (BitVec.ofNat 8 x :: acc)
    | none => decodeBits len bs l c acc

/-- The bits of bytes, each from bit 7 down. -/
def bytesBits (bs : List Byte) : List Bool := bs.flatMap (fun b => codeBits 8 b.toNat)

/-- The code check and the length check of a block (R199). -/
def decodeUnit (t : Tables) (c : Coded) : DecodeRes :=
  match c.typ with
  | .zero => if c.lenA = 0 && c.lenB = 0 && c.bytes.isEmpty then .ok (zeros unitSize) else .damaged .len
  | .raw => if c.lenA = 0 && c.lenB = 0 && c.bytes.length = unitSize then .ok c.bytes else .damaged .len
  | .reserved => .damaged .len
  | .coded =>
    let na := ceilDiv c.lenA 8
    let nb := ceilDiv c.lenB 8
    let a := bytesBits (c.bytes.take na)
    let b := bytesBits ((c.bytes.drop na).take nb)
    match t[c.ta]?, t[c.tb]? with
    | some ta, some tb => match decodeBits ta (a.take c.lenA) 0 0 [], decodeBits tb (b.take c.lenB) 0 0 [] with
      | some x, some y =>
        if x.length = partA && y.length = unitSize - partA && (a.drop c.lenA).all (!·) && (b.drop c.lenB).all (!·)
            && c.bytes.length = roundUp (na + nb) 8 && (c.bytes.drop (na + nb)).all (· == 0) && 8192 ≤ c.lenA && c.lenA ≤ 98304
            && 1024 ≤ c.lenB && c.lenB ≤ 12288 then
          .ok (x ++ y)
        else .damaged .len
      | _, _ => .damaged .code
    | _, _ => .damaged .code

/-- A decode in a mode that compares the CRC of the unit, or in one that does not (R200). -/
def checkedUnit (crc : Bool) (t : Tables) (c : Coded) : DecodeRes := match decodeUnit t c with
  | .ok u => if crc && crc32c u ≠ c.crc then .damaged .crc else .ok u
  | x => x

/-- The bytes of a decoded block; a damaged block gives zeros. -/
def decodedUnit (t : Tables) (c : Coded) : List Byte := match decodeUnit t c with
  | .ok b => b
  | _ => zeros unitSize

/-! ## Streams (R191) -/

/-- The stream header and the table area. -/
def streamHeader (nblock rid ver shard dataLen tBuild : Nat) (t : Tables) : List Byte :=
  let tables := t.zipIdx.flatMap (fun e => tableBytes e.2 e.1)
  let h := padTo 60 (pack [(0x4B43 + 1 * 2 ^ 16 + t.length * 2 ^ 24, 4), (nblock, 4), (unitSize, 4), (0, 4), (rid, 8), (ver, 4),
    (shard, 4), (dataLen, 8), (tBuild, 8)])
  h ++ toBytes 4 (crc32c (h ++ tables)) ++ tables

/-- What a read of a stream header and its table area gives: its tables, its block count and T_BUILD, or a stream damaged as a
whole, by its header or by a refused table (R193, R201). -/
inductive StreamRead where
  | good (t : Tables) (nblock tBuild : Nat)
  | badHeader
  | refused
  deriving DecidableEq, Repr

/-- Reads a stream header: MAGIC, VERSION, NTABLE and HCRC are checked, and then its tables. -/
def readStream (bs : List Byte) : StreamRead :=
  let w := ofBytes (bs.take 4)
  let n := bitsOf w 24 5
  let area := (bs.drop 64).take (136 * n)
  if bitsOf w 0 16 ≠ 0x4B43 || bitsOf w 16 8 ≠ 1 || n = 0 || 16 < n || area.length < 136 * n
      || ofBytes ((bs.drop 60).take 4) ≠ crc32c (bs.take 60 ++ area) then .badHeader
  else
    let ts := (List.range n).map (fun i => tableOf (area.drop (136 * i)))
    if ts.zipIdx.all (fun e => e.1.ok e.2) then
      .good (ts.map (·.lens)) (ofBytes ((bs.drop 4).take 4)) (ofBytes ((bs.drop 0x28).take 8))
    else .refused

end Sys2Proof.Machine
end

