-- ==== Sys2Proof/Machine/Paged.lean ====
section
/-! DEFINITION. KV pages (R80 to R85): stored blocks, the side record, the summary of a full page, index entries, and the
rows that a commit appends to a request's pages. -/

namespace Sys2Proof.Machine

/-! ## Pages of a request -/

/-- Stores a page: its element area, its side record and its spill payloads; the pages it lies in are mapped first. None
where no frame is free. -/
def storePage (s : State) (r : Request) (va side : Nat) (g : KvPage) : Option State :=
  match ensurePage s r.pallet va r.keyslot with
  | none => none
  | some s => match ensurePage s r.pallet side r.keyslot with
    | none => none
    | some s =>
      let s := (s.pageWrite r.pallet va g.elems).pageWrite r.pallet side g.side
      some (g.blocks.foldl (fun s b =>
        if b.q.fallback then s.pageWrite r.pallet (spillVa (b.slot.getD 0)) (packCodes 5 b.q.codes) else s) s)

/-- Clears a side record; the page of side records goes with the last of its eight. -/
def clearSide (s : State) (slot p side : Nat) : State :=
  let s := s.pageWrite p side (zeros 1024)
  let first := side / 8192 * 8192
  if (List.range 8).all (fun i => (s.pageRead p (first + 1024 * i) 1024).all (· == 0)) then unmapPages s slot p (side / 8192) 1
  else s

/-- Frees a page of a request: its spill slots return and its element page is unmapped; the side record is cleared, and its
page is unmapped once all eight of its records are free. -/
def dropPage (s : State) (slot : Nat) (r : Request) (va side : Nat) : State :=
  match s.pageAt r.pallet va side with
  | none => s
  | some g =>
    let s := g.blocks.foldl (fun s b => if b.q.fallback then dropSpill s slot (b.slot.getD 0) else s) s
    clearSide (unmapPages s slot r.pallet (va / 8192) 1) slot r.pallet side

/-! ## Appending rows (R67, R76, R81, R84) -/

/-- A page being rewritten: the page, the spill slots its replaced blocks held, and the counts of its encodings. -/
structure Rewrite where
  page : KvPage
  freed : List Nat
  cnt : QCounts
  deriving DecidableEq, Repr

def QCounts.add (a b : QCounts) : QCounts :=
  { blocks := a.blocks + b.blocks, fallbacks := a.fallbacks + b.fallbacks, outliers := a.outliers + b.outliers,
    full := a.full + b.full, clamps := a.clamps + b.clamps, nans := a.nans + b.nans }

/-- Encodes 32 values into block j of a page; the outlier list has room for what the other blocks leave. -/
def Rewrite.block (s : State) (p : Nat) (w : Rewrite) (j : Nat) (x : List Nat) : Rewrite :=
  let old := w.page.blocks.getD j (SBlock.blank 0)
  let blank := w.page.blocks.set j (SBlock.blank 0)
  let room := 64 - sumOf blank (fun b => b.q.outl.length)
  let e := quantise (s.qlimits p) w.page.fmt 4 room x
  { page := { w.page with blocks := w.page.blocks.set j { q := e.1, slot := none } },
    freed := w.freed ++ old.slot.toList, cnt := w.cnt.add e.2 }

/-- Blocks about to be encoded again give up their outlier entries and their spill slots, so that the list's free space (R67)
is what the other blocks leave. -/
def Rewrite.release (w : Rewrite) (gone : Nat → Bool) : Rewrite :=
  { w with
    page := { w.page with
      blocks := w.page.blocks.zipIdx.map (fun e => if gone e.2 then SBlock.blank 0 else e.1) },
    freed := w.freed ++ w.page.blocks.zipIdx.flatMap (fun e => if gone e.2 then e.1.slot.toList else []) }

/-- The bounds of the segments of a page's tokens. -/
def KvPage.segBounds (g : KvPage) : KvPage :=
  let l := g.seg.take g.ntok
  { g with segmin := l.foldl min 255, segmax := l.foldl max 0 }

/-- Appends rows to a page from token t0 on. A partly filled value block is decoded and encoded again with the new values, and a
full page's keys are decoded for its summary: both count what R59 replaces. -/
def appendRows (s : State) (p hdim : Nat) (g : KvPage) (t0 : Nat) (rows : List (List Nat × List Nat × Nat)) : Rewrite :=
  let n := rows.length
  let nb := hdim / 32
  let halves := (List.range 2).filter (fun h => t0 < 32 * h + 32 && 32 * h < t0 + n)
  let w : Rewrite := { page := g, freed := [], cnt := QCounts.zero }
  let w := w.release (fun j => 256 ≤ j && (j - 256) / 2 < hdim && halves.contains ((j - 256) % 2))
  let w := rows.zipIdx.foldl (fun w e =>
    (List.range nb).foldl (fun w b => w.block s p (4 * (t0 + e.2) + b) ((e.1.1.drop (32 * b)).take 32)) w) w
  let w := (List.range hdim).foldl (fun w d => halves.foldl (fun w h =>
    let j := 256 + 2 * d + h
    let old := (g.blocks.getD j (SBlock.blank 0)).decode g.fmt
    w.block s p j ((List.range 32).map (fun i =>
      let t := 32 * h + i
      if t < t0 then old.getD i 0
      else match rows[t - t0]? with
        | some r => r.2.1.getD d 0
        | none => 0))) w) w
  let seg := rows.zipIdx.foldl (fun l e => List.set l (t0 + e.2) e.1.2.2) g.seg
  let page := { w.page with ntok := t0 + n, seg := seg }.segBounds
  let again := sumOf (List.range hdim) (fun d => sumOf halves (fun h =>
    if 32 * h < t0 then ((g.blocks[256 + 2 * d + h]?).map (fun b => b.nans g.fmt)).getD 0 else 0))
  let keys := if (page : KvPage).ntok = 64 then sumOf (page.blocks.take 256) (fun b => b.nans page.fmt) else 0
  { w with
    page := if page.ntok = 64 then page.seal else page, cnt := { w.cnt with nans := w.cnt.nans + again + keys } }

/-- Gives the new fallback blocks of a page their spill slots, those of a list first, and gives back what is left of the list.
None where the pool has no slot (R76). -/
def placeSpillFrom (s : State) (slot : Nat) (page : KvPage) (free : List Nat) : Option (KvPage × List Nat × State) :=
  page.blocks.zipIdx.foldl (fun (acc : Option (KvPage × List Nat × State)) e => match acc with
    | none => none
    | some (g, free, s) =>
      if e.1.q.fallback && e.1.slot.isNone then
        match free with
        | k :: rest => some ({ g with blocks := g.blocks.set e.2 { e.1 with slot := some k } }, rest, s)
        | [] => match takeSpill s slot with
          | some (k, s) => some ({ g with blocks := g.blocks.set e.2 { e.1 with slot := some k } }, [], s)
          | none => none
      else acc) (some (page, free, s))

/-- Returns spill slots. -/
def dropSpills (s : State) (slot : Nat) (ks : List Nat) : State := ks.foldl (fun s k => dropSpill s slot k) s

/-- Gives the new fallback blocks of a rewritten page their spill slots, those its old blocks held first; a slot that is
left over returns. None where the pool has no slot (R76). -/
def placeSpill (s : State) (slot : Nat) (w : Rewrite) : Option (KvPage × State) :=
  (placeSpillFrom s slot w.page w.freed).map (fun r => (r.1, dropSpills r.2.2 slot r.2.1))

/-- A rewritten page needs more spill slots than its old blocks and the pool have (R76). -/
def spillShort (s : State) (slot p : Nat) (w : Rewrite) : Bool :=
  let l := s.reqLocal slot
  let own := match s.request? slot with
    | some r => r.resSpill - (l.spill.length - l.shared)
    | none => 0
  own + sharedFree s p + w.freed.length < countIf w.page.blocks (fun b => b.q.fallback && b.slot.isNone)

end Sys2Proof.Machine
end

