-- ==== Sys2Proof/Machine/AttMath.lean ====
section
/-! DEFINITION. The arithmetic of an attention call for one KV head (R61, R62, R96 to R100, R488 to R492): operands, logits,
bounds, the selection of pages, page partials, the fold, and widening. -/

namespace Sys2Proof.Machine

/-! ## Operands of the matrix array (R59, R61, R62) -/

/-- An operand block: element i is v[i] × m × 2^e; outlier positions hold 0 in v. -/
structure OpBlk where
  v : List Int
  m : Nat
  e : Int
  outl : List (Nat × Nat)
  deriving DecidableEq, Repr

/-- A block of codes against a scale code. -/
def opBlk (fmt scale : Nat) (codes : List Nat) (outl : List (Nat × Nat)) : OpBlk :=
  let sc := scaleVal fmt scale
  { v := codes.map (fun c => (elemVal fmt c).1), m := sc.1, e := elemUnit fmt + sc.2, outl := outl }

/-- A block of a call: a scale code 0xFF decodes the whole block as zero (R59). -/
def callBlk (fmt scale : Nat) (codes : List Nat) : OpBlk :=
  if scale = 0xFF then { v := codes.map (fun _ => 0), m := 0, e := 0, outl := [] } else opBlk fmt scale codes []

/-- What R59 replaces in a block of a call: elements that are NaN or infinite, or the block. -/
def callNan (fmt scale : Nat) (codes : List Nat) : Nat :=
  if scale = 0xFF then 1 else countIf codes (fun c => (elemVal fmt c).2)

/-- A stored block as an operand. The payload of a fallback block under a scale code 0xFF decodes as zero (R59). -/
def SBlock.op (b : SBlock) (fmt : Nat) : OpBlk :=
  let o := if b.dead then callBlk 5 0xFF b.q.codes else opBlk (b.fmt fmt) b.q.scale b.q.codes b.q.outl
  { o with v := o.v.zipIdx.map (fun x => if b.q.outl.any (fun u => u.1 == x.2) then 0 else x.1) }

/-- The blocks of a decoded centroid; its scale codes lie outside a stored tile, so 0xFF decodes a block as zero (R59). -/
def centBlks (codes scales : List Nat) : List OpBlk :=
  (List.range 4).map (fun b => callBlk 0 (scales.getD b 0x7F) ((codes.drop (32 * b)).take 32))

/-- What R59 replaces in the centroid of a summary. -/
def centNans (scales : List Nat) : Nat := countIf scales (fun c => c = 0xFF)

/-- Adds an exact value to an FP32 accumulator, saturating (R63): pattern and saturations so far. -/
def accAdd (acc : Nat × Nat) (v e : Int) : Nat × Nat :=
  let x := exact32 acc.1
  let y := addExact x.1 x.2 v e
  let r := satRound y.1 y.2
  (r.1, acc.2 + b2n r.2)

/-- The term of a block pair is added, then the outlier corrections (R61, R62). `k` alone holds outliers. -/
def pairInto (acc : Nat × Nat) (q k : OpBlk) : Nat × Nat :=
  let sum : Int := (q.v.zip k.v).foldl (fun a e => a + e.1 * e.2) 0
  let t := satRound (sum * q.m * k.m) (q.e + k.e)
  let x := exact32 t.1
  let acc := accAdd (acc.1, acc.2 + b2n t.2) x.1 x.2
  k.outl.foldl (fun acc o =>
    let w := exact32 (widen fp16 o.2)
    accAdd acc (w.1 * q.v.getD o.1 0 * q.m) (w.2 + q.e)) acc

/-- The product of two rows of blocks along the reduction dimension. -/
def rowDot (acc : Nat × Nat) (qs ks : List OpBlk) : Nat × Nat := (qs.zip ks).foldl (fun a e => pairInto a e.1 e.2) acc

/-- The square root of v × 2^e in FP32, rounded toward +∞. -/
def sqrtUp (v : Nat) (e : Int) : Nat :=
  if v = 0 then 0
  else
    let sh : Nat := if e % 2 = 0 then 80 else 81
    let n := v * 2 ^ sh
    let r := isqrt n
    (froundQ fp32 3 false (2 * r + b2n (r * r ≠ n)) 1 ((e - sh) / 2 - 1)).1

/-- ‖q̂‖, rounded toward +∞. -/
def normUp (bs : List OpBlk) : Nat :=
  let s := bs.foldl (fun (a : Int × Int) b =>
    b.v.foldl (fun a x => addExact a.1 a.2 (x * x * (b.m * b.m)) (2 * b.e)) a) (0, 0)
  sqrtUp s.1.toNat s.2

/-! ## Rows and pages of a head -/

/-- A query row of a head: its place in the answer (position × NQH + head), its position and segment, its blocks, its norm. -/
structure QRow where
  r : Nat
  i : Nat
  seg : Nat
  blks : List OpBlk
  norm : Nat
  deriving DecidableEq, Repr

/-- Blocks of HDIM consecutive elements of a call's area, from element n on. -/
def callRow (fmt hdim n : Nat) (elems scales : Array Nat) : List OpBlk :=
  (List.range (hdim / 32)).map (fun b =>
    callBlk fmt (scales.getD (n / 32 + b) 0) ((List.range 32).map (fun i => elems.getD (n + 32 * b + i) 0)))

/-- The query rows that use KV head h (R86). -/
def headRows (c : AttCall) (h : Nat) : List QRow :=
  let hdim := hdimOf c.hdimc
  let ea := c.qElems.toArray
  let sa := c.qScales.toArray
  (List.range c.nq).flatMap (fun i => (List.range c.nqh).filterMap (fun j =>
    if j * c.nkv / c.nqh = h then
      let n := i * c.nqh + j
      let bs := callRow c.qfmt hdim (n * hdim) ea sa
      some { r := n, i := i, seg := c.qseg.getD i 0, blks := bs, norm := normUp bs }
    else none))

/-- The segment comparison (R96). -/
def segOk (mode t q : Nat) : Bool := match mode with
  | 1 => t == q || t == 0
  | 2 => t == q
  | _ => true

/-- No row of the given segments can see a token of a page or range whose segments lie in [lo, hi] (R97). -/
def segMasked (mode lo hi : Nat) (qsegs : List Nat) : Bool :=
  mode ≠ 0 && !qsegs.any (fun q => (lo ≤ q && q ≤ hi) || (mode == 1 && lo == 0))

/-- A page the call attends: its index, the page, and its tokens below both L and the committed length. -/
structure AttPage where
  k : Nat
  g : KvPage
  eff : Nat
  deriving DecidableEq, Repr

/-- The upper bound u(r) of a summary, and its saturations. -/
def upperBound (scale : Nat) (row : QRow) (cent : List OpBlk) (radius : Nat) : Nat × Nat :=
  let d := rowDot (0, 0) row.blks cent
  let t := if row.norm = 0 then 0 else f32mul row.norm radius
  let mu := f32add (f32mul (f32mul 0x37800000 scale) (f32add (d.1 % 2 ^ 31) t)) 0x35800000
  (f32add (f32mul scale (f32add d.1 t)) mu, d.2)

/-! ## Partials (R98, R489, R490, R492) -/

/-- −∞. -/
def negInf : Nat := 0xFF800000

/-- A partial of a row: m, Z and the unnormalised output. -/
structure Partial' where
  m : Nat
  z : Nat
  o : List Nat
  deriving DecidableEq, Repr

/-- The compensated sum (R489). -/
def compSum (ws : List Nat) : Nat :=
  (ws.foldl (fun (a : Nat × Nat) w =>
    let y := f32sub w a.2
    let v := f32add a.1 y
    (v, f32sub (f32sub v a.1) y)) (0, 0)).1

/-- Encodes 32 FP32 values as an MXFP8 E4M3 block: scale code and element codes (R490), saturating (R64). -/
def encodeMx8 (x : List Nat) : Nat × List Nat :=
  let x := x.map finite32
  let a := maxMag x
  if a = 0 then (0x7F, x.map (fun _ => 0))
  else
    let e := ilog32 a - 8
    let v := exact32 a
    let above := fun (e : Int) => 448 * 2 ^ (e - v.2).toNat < v.1.natAbs * 2 ^ (v.2 - e).toNat
    let e := max (-127) (min 127 (if above e then e + 1 else e))
    let sc := (e + 127).toNat
    (sc, x.map (encodeElem 5 sc))

/-- Blocks of 32 of a list, the last filled with +0. -/
def chunks32 : Nat → List Nat → List (List Nat)
  | 0, _ => []
  | n + 1, l => if l.isEmpty then [] else (l.take 32 ++ List.replicate (32 - l.length) 0) :: chunks32 n (l.drop 32)

/-- The softmax of one token: m, Z and the probabilities' blocks, from its scores in token order (none for a token the row
may not see). -/
def softmaxPart (sc : List (Option Nat)) : Nat × Nat × List (Nat × List Nat) :=
  let vis := sc.filterMap id
  match vis with
  | [] => (negInf, 0, [])
  | x :: xs =>
    let m := xs.foldl f32max x
    let w := sc.map (fun o => match o with
      | some v => f32exp (f32sub v m)
      | none => 0)
    (m, compSum ((sc.zip w).filterMap (fun e => e.1.map (fun _ => e.2))), (chunks32 64 w).map encodeMx8)

/-- The partial of a page for a row, and its saturations (R98). -/
def pagePartial (scale segmode hdim : Nat) (a : AttPage) (row : QRow) : Partial' × Nat :=
  let nb := hdim / 32
  let scored := (List.range a.eff).map (fun t =>
    if segOk segmode (a.g.seg.getD t 0) row.seg then
      let d := rowDot (0, 0) row.blks (((a.g.blocks.drop (4 * t)).take nb).map (fun b => b.op a.g.fmt))
      (some (f32mul scale d.1), d.2)
    else (none, 0))
  let x := softmaxPart (scored.map (·.1))
  let sat := sumOf scored (·.2)
  let ps := x.2.2.map (fun e => opBlk 5 e.1 e.2 [])
  let outs := (List.range hdim).map (fun d =>
    rowDot (0, 0) ps ((List.range ps.length).map (fun h =>
      (a.g.blocks.getD (256 + 2 * d + h) (SBlock.blank 0)).op a.g.fmt)))
  ({ m := x.1, z := x.2.1, o := outs.map (·.1) }, sat + sumOf outs (·.2))

/-- What R59 replaces in the blocks of a page that a head decodes: the keys of its tokens, and the value halves that hold
them. A page is decoded once for a head (log entry 113). -/
def pageNans (hdim : Nat) (a : AttPage) : Nat :=
  let at' := fun (j : Nat) => ((a.g.blocks[j]?).map (fun b => b.nans a.g.fmt)).getD 0
  sumOf (List.range a.eff) (fun t => sumOf (List.range (hdim / 32)) (fun b => at' (4 * t + b)))
    + sumOf (List.range hdim) (fun d => sumOf (List.range (ceilDiv a.eff 32)) (fun h => at' (256 + 2 * d + h)))

/-- The ancestors of a node and the node itself (R96). -/
def ancestors : Nat → List Nat → Nat → List Nat
  | 0, _, i => [i]
  | n + 1, parent, i => if parent.getD i 0xFF = 0xFF then [i] else i :: ancestors n parent (parent.getD i 0xFF)

/-- Row i may see fresh row f (R96). -/
def freshVisible (c : AttCall) (i f : Nat) : Bool :=
  (if c.mode = 1 then f ≤ i else (ancestors 32 c.parent i).contains f) && segOk c.segmode (c.qseg.getD f 0) (c.qseg.getD i 0)

/-- Decoded fresh value rows of a head in FP32, saturating (R492). -/
def freshValues (c : AttCall) (h : Nat) : List (List Nat) :=
  let hdim := hdimOf c.hdimc
  let ea := c.freshElems.toArray
  let sa := c.freshScales.toArray
  let base := c.nq * c.nkv * hdim
  (List.range c.nq).map (fun f => (callRow c.qfmt hdim (base + (f * c.nkv + h) * hdim) ea sa).flatMap (fun b =>
    b.v.map (fun x => (satRound (x * b.m) b.e).1)))

/-- Decoded fresh key rows of a head as operands. -/
def freshKeys (c : AttCall) (h : Nat) : List (List OpBlk) :=
  let hdim := hdimOf c.hdimc
  let ea := c.freshElems.toArray
  let sa := c.freshScales.toArray
  (List.range c.nq).map (fun f => callRow c.qfmt hdim ((f * c.nkv + h) * hdim) ea sa)

/-- The partial of the fresh rows for a row (R492), and its saturations. -/
def freshPartial (c : AttCall) (keys : List (List OpBlk)) (vals : List (List Nat)) (row : QRow) : Partial' × Nat :=
  let hdim := hdimOf c.hdimc
  let scored := keys.zipIdx.map (fun e =>
    if freshVisible c row.i e.2 then
      let d := rowDot (0, 0) row.blks e.1
      (some (f32mul c.scaleS.toNat d.1), d.2)
    else (none, 0))
  let x := softmaxPart (scored.map (·.1))
  let p := x.2.2.flatMap (fun e => e.2.map (fun code => (decodeElem 5 e.1 code).getD 0))
  let use := (scored.zip (p.zip vals)).filterMap (fun e => e.1.1.map (fun _ => e.2))
  let o := (List.range hdim).map (fun d =>
    use.foldl (fun acc e => f32fma e.1 (e.2.getD d 0) acc) 0)
  ({ m := x.1, z := x.2.1, o := if x.1 = negInf then List.replicate hdim 0 else o }, sumOf scored (·.2))

/-- The fold of two partials (R99, R489). -/
def foldPartial (a b : Partial') : Partial' :=
  if b.m = negInf then a
  else if a.m = negInf then b
  else
    let m := f32max a.m b.m
    let ca := f32exp (f32sub a.m m)
    let cb := f32exp (f32sub b.m m)
    { m := m, z := f32add (f32mul a.z ca) (f32mul b.z cb),
      o := (a.o.zip b.o).map (fun e => f32add (f32mul e.1 ca) (f32mul e.2 cb)) }

/-! ## Selection and widening (R98, R100) -/

/-- The selection objects of a pallet. -/
structure SelObjs where
  dense : Nat
  sel : Nat
  sink : Nat
  recent : Nat
  opened : Nat
  bound : Nat
  step : Nat
  max : Nat
  deriving DecidableEq, Repr

def State.selObjs (s : State) (p : Nat) : SelObjs :=
  { dense := s.obj Obj.ATT_DENSE_LIMIT p, sel := s.obj Obj.ATT_SEL_PAGES p, sink := s.obj Obj.ATT_SINK_PAGES p,
    recent := s.obj Obj.ATT_RECENT_PAGES p, opened := s.obj Obj.ATT_RANGES_OPEN p, bound := s.obj Obj.ATT_MASS_BOUND p,
    step := s.obj Obj.ATT_WIDEN_STEP p, max := s.obj Obj.ATT_WIDEN_MAX p }

/-- A scored summary: its page or range index and u by row. -/
structure Scored where
  k : Nat
  u : List Nat
  deriving DecidableEq, Repr

/-- The largest u over the rows. -/
def Scored.top (x : Scored) : Nat := x.u.foldl f32max negInf

/-- Inserts in descending `top`, ties to the lower index. -/
def insScored (x : Scored) : List Scored → List Scored
  | [] => [x]
  | y :: ys => if f32lt y.top x.top || (y.top == x.top && x.k < y.k) then x :: y :: ys else y :: insScored x ys

/-- Sorts scored summaries so that the best comes first. -/
def bestFirst (l : List Scored) : List Scored := l.foldl (fun a x => insScored x a) []

/-- What one head works on. -/
structure HeadIn where
  c : AttCall
  rows : List QRow
  /-- Pages of the call, ascending, that are not fully masked. -/
  pages : List AttPage
  /-- Every sealed page of the call, ascending: its index and NTOK. -/
  sealedPages : List (Nat × Nat)
  n : Nat
  objs : SelObjs
  /-- Ranges with sealed pages, not fully masked, with their u by row. -/
  ranges : List Scored
  fresh : List Partial'
  deriving DecidableEq, Repr

/-- The working state of one head. -/
structure HeadRun where
  sel : List Nat
  cand : List Scored
  opened : List Nat
  parts : NMap (List Partial')
  added : Nat
  rounds : Nat
  sat : Nat
  /-- What R59 replaces in what the head has decoded. -/
  nans : Nat
  deriving DecidableEq, Repr

/-- Scores the sealed pages of opened ranges that are not forced: they become candidates. -/
def addCands (i : HeadIn) (forced : List Nat) (gs : List Nat) (w : HeadRun) : HeadRun :=
  (i.pages.filter (fun a => a.g.sealed && gs.contains (a.k / 16) && !forced.contains a.k)).foldl (fun w a =>
    let cs := centBlks a.g.centroid a.g.cscale
    let us := i.rows.map (fun r => upperBound i.c.scaleS.toNat r cs a.g.radius)
    { w with cand := w.cand ++ [{ k := a.k, u := us.map (·.1) }], sat := w.sat + sumOf us (·.2),
                       nans := w.nans + centNans a.g.cscale }) { w with
      opened := w.opened ++ gs }

/-- Computes the partials of selected pages that have none yet. -/
def addParts (i : HeadIn) (w : HeadRun) : HeadRun :=
  (i.pages.filter (fun a => w.sel.contains a.k && (NMap.get? w.parts a.k).isNone)).foldl (fun w a =>
    let ps := i.rows.map (pagePartial i.c.scaleS.toNat i.c.segmode (hdimOf i.c.hdimc) a)
    { w with
      parts := NMap.ins w.parts a.k (ps.map (·.1)), sat := w.sat + sumOf ps (·.2),
      nans := w.nans + pageNans (hdimOf i.c.hdimc) a }) w

/-- The fold of a head over its selection in ascending page index, the fresh rows last: one partial per row. -/
def foldHead (i : HeadIn) (w : HeadRun) : List Partial' :=
  (List.range i.rows.length).map (fun j =>
    let zero : Partial' := { m := negInf, z := 0, o := List.replicate (hdimOf i.c.hdimc) 0 }
    let a := (w.parts.filter (fun e => w.sel.contains e.1)).foldl (fun a e => foldPartial a (e.2.getD j zero)) zero
    match i.fresh[j]? with
    | some f => foldPartial a f
    | none => a)

/-- FP32 sums and products of positive bounds: beyond the range they stay at the largest finite value. -/
def f32cap (b : Nat) : Nat := min b (fp32.maxFin false)

/-- Ω of a row (R100). -/
def omegaRow (i : HeadIn) (w : HeadRun) (j : Nat) (p : Partial') : Nat :=
  let term := fun n u => f32cap (f32mul (f32ofNat n) (f32exp (f32sub u p.m)))
  let rest := i.pages.filter (fun a => !w.sel.contains a.k)
  let u := rest.foldl (fun acc a => match w.cand.find? (fun x => x.k == a.k) with
    | some x => f32cap (f32add acc (term a.g.ntok (x.u.getD j negInf)))
    | none => acc) 0
  let u := (i.ranges.filter (fun g => !w.opened.contains g.k)).foldl (fun acc g =>
    let n := sumOf (i.sealedPages.filter (fun a => a.1 / 16 == g.k && !w.sel.contains a.1)) (·.2)
    if n = 0 then acc else f32cap (f32add acc (term n (g.u.getD j negInf)))) u
  if u = 0 then 0 else f32div u (f32cap (f32add p.z u))

/-- What a head gives. -/
structure HeadOut where
  parts : List Partial'
  sel : List Nat
  rounds : Nat
  omega : Nat
  unmet : Bool
  exact : Bool
  sat : Nat
  nans : Nat
  deriving DecidableEq, Repr

/-- Widens until Ω meets the bound, the pages run out, or ATT_WIDEN_MAX is reached (R100). -/
def widen' (i : HeadIn) (forced : List Nat) (b : Nat) : Nat → HeadRun → HeadRun × List Partial' × Nat × Bool
  | 0, w => (w, foldHead i w, 0, false)
  | fuel + 1, w =>
    let w := addParts i w
    let f := foldHead i w
    let om := f.zipIdx.foldl (fun a e => f32max a (omegaRow i w e.2 e.1)) 0
    if f32le om b then (w, f, om, false)
    else if i.objs.max ≤ w.added then (w, f, om, true)
    else
      let rest := w.cand.filter (fun x => !w.sel.contains x.k)
      let un := i.ranges.filter (fun g => !w.opened.contains g.k)
      if rest.isEmpty && un.isEmpty then (w, f, 0, false)
      else
        let w := if rest.isEmpty then addCands i forced ((bestFirst un).take 2 |>.map (·.k)) w else w
        let rest := w.cand.filter (fun x => !w.sel.contains x.k)
        let k := min i.objs.step (min (i.objs.max - w.added) rest.length)
        let add := ((bestFirst rest).take k).map (·.k)
        widen' i forced b fuel { w with sel := w.sel ++ add, added := w.added + k, rounds := w.rounds + 1 }

/-- No token that some row may see lies in a page outside the selection (R91 EXACT). -/
def headExact (i : HeadIn) (sel : List Nat) : Bool :=
  (i.pages.filter (fun a => !sel.contains a.k)).all (fun a => (List.range a.eff).all (fun t =>
    i.rows.all (fun r => !segOk i.c.segmode (a.g.seg.getD t 0) r.seg)))

/-- One head of a call (R98 to R100). -/
def serveHead (i : HeadIn) : HeadOut :=
  let w : HeadRun := { sel := [], cand := [], opened := [], parts := [], added := 0, rounds := 0, sat := 0, nans := 0 }
  if i.c.dense || i.n ≤ i.objs.dense then
    let w := addParts i { w with sel := i.pages.map (·.k) }
    { parts := foldHead i w, sel := w.sel, rounds := 0, omega := 0, unmet := false, exact := true, sat := w.sat,
      nans := w.nans }
  else
    let forced := (i.pages.filter (fun a => a.k < i.objs.sink || i.n ≤ a.k + i.objs.recent)).map (·.k)
    let w := addCands i forced (((bestFirst i.ranges).take i.objs.opened).map (·.k)) w
    let w := { w with sel := forced ++ ((bestFirst w.cand).take i.objs.sel).map (·.k) }
    let b := boundVal (if i.c.massB = 0 then i.objs.bound else i.c.massB)
    let r := widen' i forced b (i.n + i.ranges.length + 2) w
    { parts := r.2.1, sel := r.1.sel, rounds := r.1.rounds, omega := r.2.2.1, unmet := r.2.2.2,
      exact := headExact i r.1.sel, sat := r.1.sat, nans := r.1.nans }

end Sys2Proof.Machine
end

