-- ==== Sys2Proof/Machine/Attention.lean ====
section
/-! DEFINITION. Attention calls (R86 to R101): the checks on arrival, service one at a time per triple, the answer, and the
4 µs deadline. -/

namespace Sys2Proof.Machine

/-! ## Checks on arrival (R87 to R89) -/

/-- Depth of a node of a call's tree, bounded by `n`. -/
def depthIn : Nat → List Nat → Nat → Nat
  | 0, _, _ => 0
  | n + 1, parent, i => if parent.getD i 0xFF = 0xFF then 0 else 1 + depthIn n parent (parent.getD i 0xFF)

/-- The payload length that a call's header implies (R86). -/
def callLength (c : AttCall) : Nat :=
  let area := fun n => n + n / 32
  192 + area (c.nq * c.nqh * hdimOf c.hdimc) + (if c.fresh then area (2 * c.nq * c.nkv * hdimOf c.hdimc) else 0)

/-- The checks of R87 that need no request. -/
def callFormOk (c : AttCall) : Bool :=
  let tree := c.mode = 0
  c.mode ≤ 1 && c.segmode ≤ 2 && (c.qfmt = 5 || c.qfmt = 6)
    && 1 ≤ c.nq && c.nq ≤ (if tree then 32 else 64)
    && 1 ≤ c.nkv && c.nkv ≤ 16 && 1 ≤ c.nqh && c.nqh ≤ 128 && c.nqh % c.nkv = 0
    && c.part < c.npart && c.npart ≤ 16
    && f32lt 0 c.scaleS.toNat && c.scaleS.toNat < 0x7F800000
    && (!tree || c.fresh)
    && (if tree then
          (List.range c.nq).all (fun i => c.parent.getD i 0xFF = 0xFF || c.parent.getD i 0xFF < i)
            && (List.range c.nq).all (fun i => depthIn 64 c.parent i ≤ 16)
        else c.parent.all (· = 0))
    && c.length = callLength c

/-- The call's geometry is the request's for that layer. -/
def callGeomOk (c : AttCall) (g : Geom) : Bool :=
  if c.layer < 128 then c.layer < g.nlayer && c.nkv = g.nkv && c.hdimc = g.hdimc
  else c.layer - 128 < g.dlayer && c.nkv = g.dnkv && c.hdimc = g.dhdimc

/-- A step of the request runs: an entry of its pallet's running step names it and consumes its number (R89). -/
def State.stepRuns (s : State) (slot : Nat) (r : Request) : Bool := match s.entryOf r.pallet slot with
  | some (_, e) => !e.nostep
  | none => false

/-- The status with which a call is turned away, if any (R87, R89, R282): the first in the order of R317. A slot that a
request is moving into is resident here (log entry 120). -/
def callStatus (s : State) (c : AttCall) : Option Status := match s.byHandle c.handle with
  | none => some .epochStale
  | some (slot, r) =>
    if s.abortedStep r.rid c.step then some .targetDead
    else if s.slotRetired r.keyslot then some .keyRetired
    else if !callFormOk c || !callGeomOk c r.geom then some .transportError
    else if c.step = r.nextStep || (s.stepRuns slot r && c.step = r.nextStep + 1) then none
    else some .accessDenied

/-- A trace sample of a call's arrival or of its answer header (R442). -/
def attTrace (s : State) (p : Nat) (c : AttCall) (st : Status) (header : Bool) : State :=
  traceSample s 3 p (statusCode st + b2n header * 2 ^ 8 + c.layer % 256 * 2 ^ 16 + slotOf c.handle % 2 ^ 16 * 2 ^ 24)

/-- Sends an answer's header alone. -/
def answerAlone (s : State) (c : CallRun) (st : Status) : State :=
  if c.answered then s else attTrace (refuseCall s c st) c.pallet c.call st true

/-- ATT_CALL is placed: counted in the pallet of its service queue (R101), dropped, answered or held for service. A malformed
call is counted as such where it is answered so (log entry 121). A step of a group whose fault is known here answers later
calls with TARGET_DEAD, a halted pallet's too (R282). -/
def callArrive (port : Nat) (p : Pkt) (c : AttCall) (s : State) : State :=
  let pal := (s.queue p.dq).pallet
  let s := s.bump Obj.ATT_CALLS pal
  let s := if c.bulk then s else s.onPallet pal (fun q => { q with lastDecode := some s.now })
  let s := attTrace s pal c .ok false
  let run : CallRun :=
    { call := c, pallet := pal, srcMod := p.srcMod, sq := p.sq, svq := p.dq, keyId := p.keyId, port := port, tArr := s.now,
      paused0 := s.pausedNs port 4, serving := false, answered := false }
  let stale := match s.request? (slotOf c.handle) with
    | some r => r.handle ≠ c.handle
    | none => false
  let halted := match s.byHandle c.handle with
    | some (slot, r) => (s.reqLocal slot).halted.contains c.step && !s.abortedStep r.rid c.step
    | none => false
  if stale || halted then s.bump Obj.ATT_CALL_DROPPED pal
  else match callStatus s c with
    | some st => answerAlone (if st = .transportError then s.bump Obj.ATT_MALFORMED pal else s) run st
    | none => { s with req := { s.req with calls := s.req.calls ++ [run] } }

/-- The target of a message about a request is a service queue in READY of the request's pallet, and of the tenant that KEYID names
(R240, R259). -/
def serviceCheck (p : Pkt) (handle : Nat) (s : State) : Verdict × State :=
  let v := s.queue p.dq
  let own := match s.byHandle handle with
    | some (_, r) => r.pallet == v.pallet
    | none => true
  if v.ready 3 && sameTenant s p.keyId v.keyId && own then (.accept, useQueue s p.dq) else (.refuse .accessDenied, s)

def attCall (port : Nat) (p : Pkt) (c : AttCall) (s : State) : State :=
  gateMsg s port 0x10 c.length p (serviceCheck p c.handle) (callArrive port p c)

def execAttCall (port : PortNo) (pkt : Pkt) (call : AttCall) (t : Nat) (s : State) : Outcome :=
  .next (attCall port pkt call (s.at t))

/-! ## Service (R90) -/

/-- The call is of a triple. -/
def CallRun.of (c : CallRun) (handle layer step : Nat) : Bool :=
  c.call.handle == handle && c.call.layer == layer && c.call.step == step

/-- Changes the first call that satisfies a test. -/
def onCall (ok : CallRun → Bool) (f : CallRun → CallRun) : List CallRun → List CallRun
  | [] => []
  | c :: cs => if ok c then f c :: cs else c :: onCall ok f cs

/-- What R59 replaces in a call's areas. -/
def callNans (c : AttCall) : Nat :=
  let area := fun (elems scales : List Nat) =>
    let ea := elems.toArray
    sumOf scales.zipIdx (fun e => callNan c.qfmt e.1 ((List.range 32).map (fun i => ea.getD (32 * e.2 + i) 0)))
  area c.qElems c.qScales + (if c.fresh then area c.freshElems c.freshScales else 0)

/-- ATT_CALL_SERVICE: the first waiting call of the triple starts, once its step runs, its entry is not held and its keys
have reached the controllers (R346); its fresh
rows replace those of the call before. -/
def callService (handle layer step : Nat) (s : State) : State :=
  match s.byHandle handle, s.req.calls.find? (fun c => c.of handle layer step && !c.serving) with
  | some (slot, r), some c =>
    if s.req.calls.any (fun c => c.of handle layer step && c.serving) then s
    else match s.entryOf r.pallet slot with
      | none => s
      | some (i, e) =>
        if (e.nostep && e.ended) || e.held.isSome || e.d.step ≠ step || !s.keysReady r.keyslot then s
        else
          let s := { s with req := { s.req with
            calls := onCall (fun c => c.of handle layer step && !c.serving) (fun c => { c with serving := true }) s.req.calls } }
          let s := s.bumpBy Obj.FMT_NAN_INPUT r.pallet (callNans c.call)
          if c.call.fresh then
            s.onEntryRun r.pallet i (fun e => { e with fresh := NMap.ins e.fresh layer (some c.call) })
          else s
  | _, _ => s

def execAttCallService (handle layer step t : Nat) (s : State) : Outcome := .next (callService handle layer step (s.at t))

/-! ## The answer (R91, R98 to R100) -/

/-- A page index has fallen out of the window of a request's draft pages: it is neither the sink page nor one of the last
DRF_WINDOW_PAGES pages (R109). -/
def State.outOfWindow (s : State) (r : Request) (k : Nat) : Bool :=
  0 < k && k < pagesFor r.ctxlen - s.obj Obj.DRF_WINDOW_PAGES r.pallet

/-- Pages of the call for a KV head: those below both L and the committed length, and those on which the check of R83 fails or
that are not there. A draft layer attends only to the sink page and the last DRF_WINDOW_PAGES pages, and a page of it that has
been freed is no page of the layer (R109). -/
def callPages (s : State) (r : Request) (c : AttCall) (h : Nat) : List AttPage × List Nat :=
  let lc := min c.ctxlen r.ctxlen
  let all := ((List.range (pagesFor lc)).map (fun k => (k, s.kvPage r c.layer h k))).filter (fun e =>
    c.layer < 128 || (e.2.isSome && !s.outOfWindow r e.1))
  let bad := (all.filter (fun e => match e.2 with
    | none => true
    | some g => g.layer ≠ c.layer || g.head ≠ h || slotOf g.handle ≠ slotOf r.handle)).map (·.1)
  (all.filterMap (fun e => e.2.map (fun g => { k := e.1, g := g, eff := min g.ntok (lc - 64 * e.1) })), bad)

/-- Runs one head of a call: what it gives, the blocks of the pages it skips, and whether a page it attends fails R83: a page
that is only scored as a candidate is not read (log entry 119). -/
def runHead (s : State) (r : Request) (c : AttCall) (h : Nat) : HeadOut × Nat × Bool :=
  let rows := headRows c h
  let qsegs := (List.range c.nq).map (fun i => c.qseg.getD i 0)
  let ps := callPages s r c h
  let masked := fun (a : AttPage) => a.eff = 0 || segMasked c.segmode a.g.segmin a.g.segmax qsegs
  let pages := ps.1.filter (fun a => !masked a)
  let n := pagesFor (min c.ctxlen r.ctxlen)
  let objs := s.selObjs r.pallet
  let entries := if c.dense || n ≤ objs.dense then [] else
    (List.range (ceilDiv n 16)).map (fun g => s.indexOf r c.layer h (pagesFor r.ctxlen) g)
  let live := entries.filter (fun e => 0 < e.nsealed && !segMasked c.segmode e.segmin e.segmax qsegs)
  let ranges := live.map (fun e =>
    let us := rows.map (fun q => upperBound c.scaleS.toNat q (centBlks e.centroid e.cscale) e.radius)
    (({ k := e.first / 16, u := us.map (·.1) } : Scored), sumOf us (·.2)))
  let useFresh := c.fresh && c.part = 0
  let fk := freshKeys c h
  let fv := freshValues c h
  let fresh := if useFresh then rows.map (freshPartial c fk fv) else []
  let i : HeadIn :=
    { c := c, rows := rows, pages := pages, sealedPages := (ps.1.filter (·.g.sealed)).map (fun a => (a.k, a.g.ntok)), n := n,
      objs := objs, ranges := ranges.map (·.1), fresh := fresh.map (·.1) }
  let o := serveHead i
  ({ o with
      sat := o.sat + sumOf ranges (·.2) + sumOf fresh (·.2), nans := o.nans + sumOf live (fun e => centNans e.cscale) },
    512 * countIf ps.1 masked,
    o.sel.any ps.2.contains || (ps.2.any (fun k => !ps.1.any (fun a => a.k = k))))

/-- ⌈Ω × 65,536⌉, saturating. -/
def omegaCode (om : Nat) : Nat :=
  let v := exact32 om
  let k := v.2 + 16
  min 65535 (ceilDiv (v.1.toNat * 2 ^ k.toNat) (2 ^ (-k).toNat))

/-- The output area and the log-sum-exp area of an answer. -/
def answerAreas (c : AttCall) (heads : List HeadOut) : List Byte :=
  let hdim := hdimOf c.hdimc
  let all := (List.range c.nkv).flatMap (fun h =>
    ((headRows c h).map (·.r)).zip ((heads[h]?.map (·.parts)).getD []))
  let rows := (List.range (c.nq * c.nqh)).map (fun n =>
    match all.find? (fun e => e.1 == n) with
    | some (_, p) =>
      if p.m = negInf then (List.replicate hdim 0, negInf)
      else (p.o.map (fun x => f32div x p.z), f32add p.m (f32ln p.z))
    | none => (List.replicate hdim 0, negInf))
  let blocks := rows.flatMap (fun e => (chunks32 4 e.1).map encodeMx8)
  blocks.flatMap (fun b => b.2.flatMap (toBytes 1)) ++ blocks.flatMap (fun b => toBytes 1 b.1)
    ++ rows.flatMap (fun e => toBytes 4 e.2)

/-- The call being served leaves. -/
def dropServing (s : State) (handle layer step : Nat) : State :=
  { s with req := { s.req with calls := s.req.calls.filter (fun c => !(c.of handle layer step && c.serving)) } }

/-- ATT_ANSWER: the work of the call being served is complete; its answer leaves unless a TIMEOUT header has left already
(R93). `paused`: the answer's class was paused under PFC meanwhile, where the port's state does not show it. The counts are the
request's pallet's (log entry 117); WIDEN saturates at 255 (log entry 118). -/
def callAnswer (handle layer step : Nat) (paused : Bool) (s : State) : State :=
  match s.byHandle handle, s.req.calls.find? (fun c => c.of handle layer step && c.serving) with
  | some (slot, r), some c =>
    let hs := (List.range c.call.nkv).map (runHead s r c.call)
    let heads := hs.map (·.1)
    let s := dropServing s handle layer step
    let p := r.pallet
    let s := s.bumpBy Obj.FMT_ACC_SAT p (sumOf heads (·.sat))
    let s := s.bumpBy Obj.FMT_NAN_INPUT p (sumOf heads (·.nans))
    let s := s.bumpBy Obj.ATT_BLOCKS_SKIPPED p (sumOf hs (·.2.1))
    let s := s.bumpBy Obj.ATT_PAGES_READ p (sumOf heads (fun h => h.sel.length))
    let s := s.bumpBy Obj.ATT_WIDEN_ROUNDS p (sumOf heads (·.rounds))
    let s := s.bumpBy Obj.ATT_BOUND_UNMET p (countIf heads (·.unmet))
    let s := (List.range c.call.nkv).foldl (fun s h => ((heads[h]?.map (·.sel)).getD []).foldl (fun s k =>
      usePrefetched s p (pageVa s r layer h k)) s) s
    let s := s.onLocal slot (fun l => { l with
      selection := l.selection ++ (List.range c.call.nkv).flatMap (fun h => ((heads[h]?.map (·.sel)).getD []).map (fun k =>
        leafKey p (pageVa s r layer h k))) })
    let s := if paused && !c.call.bulk && !c.answered && !s.heldUnderPfc c then s.bump Obj.ATT_PAUSED p else s
    if hs.any (·.2.2) then answerAlone (requestWord s slot 5) c .uncorrectable
    else if c.answered then s
    else
      let omega := heads.foldl (fun a h => max a (omegaCode h.omega)) 0
      let widen := heads.foldl (fun a h => max a h.rounds) 0
      let pages := heads.foldl (fun a h => max a h.sel.length) 0
      let flags := b2n (heads.any (·.unmet)) + 2 * b2n (heads.all (·.exact))
      let s := sendAnswer s c (answerHeader c .ok flags omega (min 255 widen) pages s.now ++ answerAreas c.call heads)
      attTrace (s.bump Obj.ATT_ANSWERS_OK p) p c.call .ok true
  | _, _ => s

def execAttAnswer (handle layer step : Nat) (paused : Bool) (t : Nat) (s : State) : Outcome :=
  .next (callAnswer handle layer step paused (s.at t))

/-! ## The deadline (R93) -/

/-- ATT_DEADLINE: 4 µs after its arrival, less the time its answer's class was paused under PFC, a DECODE call without an
answer gets a TIMEOUT header; its work runs on. -/
def callDeadline (handle layer step : Nat) (s : State) : State :=
  let late := fun (c : CallRun) =>
    c.of handle layer step && !c.call.bulk && !c.answered && c.tArr + 4000 + s.heldNs c ≤ s.now
  match s.req.calls.find? late with
  | none => s
  | some c =>
    let s := answerAlone s c .timeout
    let p := match s.byHandle handle with
      | some (_, r) => r.pallet
      | none => c.pallet
    let s := stallRequest s p handle
    let s := s.bump Obj.ATT_TIMEOUT p
    { s with req := { s.req with calls := onCall late (fun c => { c with answered := true }) s.req.calls } }

def execAttDeadline (handle layer step t : Nat) (s : State) : Outcome := .next (callDeadline handle layer step (s.at t))

end Sys2Proof.Machine
end

