-- ==== Sys2Proof/Machine/Sampling.lean ====
section
/-! DEFINITION. Drafting, the sampler and verification (R104 to R125, R495): random words, the sampling distribution, the
draft tree, LOGITS, and the walk of the tree. -/

namespace Sys2Proof.Machine

/-! ## Random words (R122, R123) -/

/-- Word w of (stream, node) in a step. -/
def randomWord (seed handle step stream node w : Nat) : Nat :=
  ofBytes ((shake128 (pack [(seed, 8), (handle, 4), (step, 4), (stream, 1), (node, 1)]) (4 * w + 4)).drop (4 * w))

/-- The uniform value of a word, exact in FP32. -/
def uniformOf (word : Nat) : Nat := (froundZ fp32 0 ((word / 256 : Nat) : Int) (-24) false).1

/-- A distribution: (token, FP32 weight), ascending token. -/
abbrev Dist := List (Nat × Nat)

/-- The sum of the weights in ascending token. -/
def Dist.total (d : Dist) : Nat := d.foldl (fun a e => f32add a e.2) 0

/-- The weight of a token. -/
def Dist.weight (d : Dist) (x : Nat) : Nat := match List.find? (fun e => e.1 == x) d with
  | some e => e.2
  | none => 0

/-- The first token whose running sum is above t. -/
def firstAbove (t : Nat) : Nat → Dist → Option Nat
  | _, [] => none
  | a, e :: es => let a := f32add a e.2
    if f32lt t a then some e.1 else firstAbove t a es

/-- A draw with a uniform value (R123): none from an empty distribution. -/
def drawFrom (d : Dist) (u : Nat) : Option Nat :=
  match firstAbove (f32mul u (Dist.total d)) 0 d with
  | some x => some x
  | none => (List.find? (fun e => e.2 % 2 ^ 31 ≠ 0) (List.reverse d)).map (·.1)

/-! ## The sampler (R119) -/

/-- Inserts (token, value) in descending value, ties to the lower token. -/
def insToken (x : Nat × Nat) : Dist → Dist
  | [] => [x]
  | y :: ys => if f32lt y.2 x.2 || (!f32lt x.2 y.2 && x.1 < y.1) then x :: y :: ys else y :: insToken x ys

/-- In descending value, ties to the lower token. -/
def byValue (d : Dist) : Dist := d.foldl (fun a x => insToken x a) []

/-- The tokens of `keep`, in ascending token. -/
def keepTokens (d : Dist) (keep : List Nat) : Dist := d.filter (fun e => keep.contains e.1)

/-- Step 1: penalties. -/
def penalise (b : Block) (count : Nat → Nat) (z : Dist) : Dist :=
  z.map (fun e =>
    let c := count e.1
    let v := if 0 < c then (if f32lt 0 e.2 then f32div e.2 b.rep.toNat else f32mul e.2 b.rep.toNat) else e.2
    let v := f32sub v (f32mul b.freq.toNat (f32ofNat c))
    (e.1, if 0 < c then f32sub v b.pres.toNat else v))

/-- The token of largest logit, ties to the lower token. -/
def argmax (z : Dist) : Option Nat := (z.foldl (fun (a : Option (Nat × Nat)) e => match a with
  | none => some e
  | some x => if f32lt x.2 e.2 then some e else some x) none).map (·.1)

/-- The shortest prefix whose running sum reaches `p`. -/
def prefixUpTo (p : Nat) : Nat → Dist → List Nat
  | _, [] => []
  | a, e :: es => let a := f32add a e.2
    e.1 :: (if f32le p a then [] else prefixUpTo p a es)

/-- Steps 2 to 5 on penalised logits: the distribution over the kept tokens. -/
def distOf (b : Block) (temp : Nat) (z : Dist) : Dist :=
  let z := z.map (fun e => (e.1, f32div e.2 temp))
  let z := if 0 < b.topk then keepTokens z (((byValue z).take b.topk).map (·.1)) else z
  let m := z.foldl (fun a e => f32max a e.2) negInf
  let w := z.map (fun e => (e.1, f32exp (f32sub e.2 m)))
  let t := Dist.total w
  let p := w.map (fun e => (e.1, f32div e.2 t))
  let q := if f32lt b.topp.toNat f32one then keepTokens p (prefixUpTo b.topp.toNat 0 (byValue p)) else p
  let q := if f32lt 0 b.minp.toNat then
      let mx := q.foldl (fun a e => f32max a e.2) 0
      q.filter (fun e => !f32lt e.2 (f32mul b.minp.toNat mx))
    else q
  let t := Dist.total q
  q.map (fun e => (e.1, f32div e.2 t))

/-- The draft distribution (R111): the same steps, then the TOPQ most probable tokens. -/
def draftDist (b : Block) (topq : Nat) (z : Dist) : Dist :=
  let p := distOf b (if b.sampled then b.temp.toNat else f32one) z
  let p := keepTokens p (((byValue p).take topq).map (·.1))
  let t := Dist.total p
  p.map (fun e => (e.1, f32div e.2 t))

/-! ## Counts (R120, R121) -/

/-- A count table at admission. -/
def CountTable.fresh (window vocab : Nat) : CountTable :=
  { window := window, fill := 0, head := 0, vocab := vocab, ring := [], count := [] }

/-- Adds a token to a count table (R120). -/
def countAdd (t : CountTable) (tok : Nat) : CountTable :=
  if t.window = 0 then t
  else
    let full := t.fill = t.window
    let old := NMap.get 0 t.ring t.head
    let c := if full then NMap.put 0 t.count old (NMap.get 0 t.count old - 1) else t.count
    { t with
      fill := if full then t.fill else t.fill + 1, ring := NMap.put 0 t.ring t.head tok,
      count := NMap.put 0 c tok (NMap.get 0 c tok + 1), head := (t.head + 1) % t.window }

/-- The nodes on the path from node 1 to n, as (ancestors less node 0); bounded by `fuel`. -/
def pathTo : Nat → List Nat → Nat → List Nat
  | 0, _, _ => []
  | fuel + 1, parent, n => if n = 0 then [] else pathTo fuel parent (parent.getD n 0) ++ [n]

/-- The count of a token at node n of a tree (R121). -/
def countAt (e : EntryRun) (t : Tree) (stream n tok : Nat) : Nat :=
  match NMap.get? e.counts stream with
  | none => 0
  | some c =>
    if c.window = 0 then 0
    else NMap.get 0 c.count tok + countIf (pathTo 32 t.parent n) (fun k => (t.frames.getD k []).getD stream 0 == tok)

/-! ## Logits (R116) -/

/-- A decoded logit: none where it excludes its token; and whether it counts in FMT_NAN_INPUT. -/
def logitOf (b : Nat) : Option Nat × Bool := match fdec fp32 b with
  | .nan _ => (none, true)
  | .inf true => (none, true)
  | .inf false => (some (fp32.maxFin false), true)
  | .fin _ _ _ => (some b, false)

/-- The tokens of a row of logits that are not excluded. -/
def logitRow (row : List Nat) : Dist := row.zipIdx.filterMap (fun e => (logitOf e.1).1.map (fun v => (e.2, v)))

/-- Children of a node, ascending. -/
def Tree.children (t : Tree) (n : Nat) : List Nat := (List.range t.parent.length).filter (fun i => i ≠ 0 && t.parent.getD i 0xFF = n)

/-- Depth of a node. -/
def Tree.depth (t : Tree) (n : Nat) : Nat := (pathTo 32 t.parent n).length

/-! ## The draft tree (R104, R108, R110 to R113) -/

/-- The q distributions of a node, and the frames of its children. -/
def draftNode (s : State) (e : EntryRun) (handle step nstream topq : Nat) (logits : List (List Nat)) (t : Tree) (n : Nat) :
    Tree × State :=
  let kids := t.children n
  if kids.isEmpty then (t, s)
  else
    (List.range nstream).foldl (fun (acc : Tree × State) st =>
      match e.blocks[st]? with
      | none => acc
      | some b =>
        let z := penalise b (countAt e acc.1 st n) (logitRow (logits.getD st []))
        let q := draftDist b topq z
        let order := byValue q
        let t := { acc.1 with q := NMap.ins acc.1.q (n * 16 + st) q }
        kids.zipIdx.foldl (fun (acc : Tree × State) k =>
          let tok := if b.sampled then
              drawFrom q (uniformOf (randomWord b.seed handle step st n (64 + k.2)))
            else ((order[k.2]?).orElse (fun _ => order.head?)).map (·.1)
          let r := match tok with
            | some x => (x, acc.2)
            | none => acc.2.fresh 18
          ({ acc.1 with frames := acc.1.frames.set k.1 ((acc.1.frames.getD k.1 []).set st r.1) }, r.2)) (t, acc.2))
      (t, s)

/-- DRAFT_TREE payload (R113). -/
def treeBytes (handle step nstream ctxlen : Nat) (sampled : Bool) (t : Tree) : List Byte :=
  let n := t.parent.length
  let depth := (List.range n).foldl (fun a i => max a (t.depth i)) 0
  pack [(handle, 4), (step, 4), (n + nstream * 2 ^ 8 + depth * 2 ^ 13 + b2n sampled * 2 ^ 18, 4), (ctxlen, 4), (0, 48)]
    ++ padTo 32 (t.parent.flatMap (toBytes 1)) ++ t.frames.flatMap (fun f => f.flatMap (toBytes 4))

/-- The parents of a pallet's tree: the first DRF_NODES entries of DRF_SHAPE; node 0 alone without a draft pallet. -/
def treeShape (s : State) (p : Nat) : List Nat := match draftPallet s p with
  | none => [0xFF]
  | some _ => (List.range (s.obj Obj.DRF_NODES p)).map (fun i => s.objField Obj.DRF_SHAPE p i 1)

/-- DRAFT_TREE: the tree of an entry of a DECODE step is complete and leaves for the accelerator. -/
def draftTree (handle : Nat) (logits : List (List (List Nat))) (s : State) : State :=
  match s.byHandle handle with
  | none => s
  | some (slot, r) => match s.entryOf r.pallet slot, (s.pallet r.pallet).run with
    | some (i, e), some run =>
      if run.desc.kind ≠ 1 || e.ended || e.nostep || e.held.isSome || e.tree.isSome then s
      else
        let p := r.pallet
        let parent := treeShape s p
        let zero := List.replicate r.nstream 0
        let t : Tree :=
          { parent := parent, q := [],
            frames := (List.range parent.length).map (fun k => if k = 0 then (r.pending.take r.nstream) else zero) }
        let x := (List.range parent.length).foldl (fun (acc : Tree × State) n =>
          draftNode acc.2 e r.admitHandle e.d.step r.nstream (s.obj Obj.DRF_TOPQ p) (logits.getD n []) acc.1 n) (t, s)
        let s := x.2.bump Obj.DRF_STEPS p
        let s := s.bumpBy Obj.DRF_NODES_DRAFTED p (parent.length - 1)
        let s := if (draftPallet s p).isNone then s.bump Obj.DRF_NO_DRAFT p else s
        let s := s.onEntryRun p i (fun e => { e with tree := some x.1, sentAt := s.now })
        sendMsg s (fun _ _ s => s) (.draftTree handle) 0x12 4
          { Pkt.zero with
            epoch := run.epoch, dstMod := run.desc.accelMod, dq := run.desc.accelQ, keyId := s.keyIdOf r.keyslot }
          0 (treeBytes handle e.d.step r.nstream r.ctxlen (e.blocks.any (fun b => b.active && b.sampled)) x.1)
    | _, _ => s

def execDraftTree (handle : Nat) (logits : List (List (List (BitVec 32)))) (t : Nat) (s : State) : Outcome :=
  .next (draftTree handle (logits.map (fun n => n.map (fun st => st.map BitVec.toNat))) (s.at t))

/-! ## Verification (R124) -/

/-- What the walk needs: the entry, its tree, the rows of logits by node and stream, and the names of R122. -/
structure Walk where
  e : EntryRun
  t : Tree
  z : List (List Dist)
  handle : Nat
  step : Nat
  nstream : Nat
  deriving DecidableEq, Repr

/-- Penalised target logits at a node. -/
def Walk.logits (w : Walk) (n st : Nat) : Dist := match w.e.blocks[st]? with
  | some b => penalise b (countAt w.e w.t st n) ((w.z.getD n []).getD st [])
  | none => []

/-- One stream's choice at a node: the child taken, the token, and whether a residual draw was made after a rejection. -/
def Walk.choose (w : Walk) (cur st : Nat) (b : Block) (kids : List Nat) : Option Nat × Option Nat × Bool :=
  let q : Dist := (NMap.get? w.t.q (cur * 16 + st)).getD []
  let word := randomWord b.seed w.handle w.step st cur
  let rec' : List (Nat × Nat) → Dist → Option Nat × Option Nat × Dist := fun ks r =>
    ks.foldl (fun (acc : Option Nat × Option Nat × Dist) k => match acc.1 with
      | some _ => acc
      | none =>
        let r := acc.2.2
        let x := (w.t.frames.getD k.1 []).getD st 0
        let qx := Dist.weight q x
        if f32lt 0 qx && f32lt (f32mul (uniformOf (word k.2)) qx) (Dist.weight r x) then (some k.1, some x, r)
        else
          let d := r.map (fun e =>
            let v := f32sub e.2 (Dist.weight q e.1)
            (e.1, if f32lt v 0 then 0 else v))
          let t := Dist.total d
          (none, none, if f32lt 0 t then d.map (fun e => (e.1, f32div e.2 t)) else r)) (none, none, r)
  let x := rec' kids.zipIdx (distOf b b.temp.toNat (w.logits cur st))
  match x.1 with
  | some k => (some k, x.2.1, false)
  | none => (none, drawFrom x.2.2 (uniformOf (word 32)), !kids.isEmpty)

/-- The walk from a node: path after it, bonus frame, residual draws. `fuel` bounds its length. -/
def Walk.go (w : Walk) : Nat → Nat → List Nat × List Nat × Nat
  | 0, _ => ([], [], 0)
  | fuel + 1, cur =>
    let kids := w.t.children cur
    if !w.e.blocks.any (fun b => b.active && b.sampled) then
      let g := (List.range w.nstream).map (fun st => (argmax (w.logits cur st)).getD 0)
      match kids.find? (fun k => w.t.frames.getD k [] == g) with
      | some k => let r := w.go fuel k
        (k :: r.1, r.2)
      | none => ([], g, 0)
    else
      let cs := (List.range w.nstream).map (fun st => match w.e.blocks[st]? with
        | some b => w.choose cur st b kids
        | none => (none, none, false))
      let n := countIf cs (·.2.2)
      let one := match cs.head? with
        | some (some k, _) => if cs.all (fun c => c.1 == some k) then some k else none
        | _ => none
      match one with
      | some k => let r := w.go fuel k
        (k :: r.1, r.2.1, r.2.2 + n)
      | none => ([], cs.map (fun c => c.2.1.getD 0), n)

/-! ## LOGITS (R114 to R116) -/

/-- Bytes of a logit. -/
def logitSize (lfmt : Nat) : Nat := if lfmt = 2 then 4 else 2

/-- A LOGITS message agrees with the tree, the blocks and its own length (R115). -/
def logitsOk (m : LogitsMsg) (r : Request) (e : EntryRun) : Bool := match e.tree with
  | none => false
  | some t =>
    m.lfmt ≤ 2 && m.nnodes = t.parent.length && m.nstream = r.nstream
      && (List.range 16).all (fun st => m.vocab.getD st 0 = if st < r.nstream then ((e.blocks[st]?.map (·.vocab)).getD 0) else 0)
      && m.length = 0x80 + m.nnodes * sumOf m.vocab id * logitSize m.lfmt

/-- The rows of a LOGITS message by node and stream, decoded to FP32. -/
def logitRows (m : LogitsMsg) : List (List (List Nat)) :=
  let all := (m.logits.map (fun c => if m.lfmt = 0 then widen bf16 c else if m.lfmt = 1 then widen fp16 c else c)).toArray
  let per := sumOf m.vocab id
  (List.range m.nnodes).map (fun n => (List.range m.nstream).map (fun st =>
    let off := n * per + sumOf (m.vocab.take st) id
    (List.range (m.vocab.getD st 0)).map (fun x => all.getD (off + x) 0)))

/-- LOGITS is placed: dropped, malformed, or accepted, and then the tree is verified. -/
def logitsArrive (p : Pkt) (m : LogitsMsg) (s : State) : State :=
  let pal := (s.queue p.dq).pallet
  let drop := s.bump Obj.DRF_LOGITS_DROPPED pal
  match s.byHandle m.handle with
  | none => drop
  | some (slot, r) => match s.entryOf r.pallet slot with
    | none => drop
    | some (i, e) =>
      if e.nostep || e.d.step ≠ m.step || e.logits.isSome || e.ended then drop
      else if !logitsOk m r e then
        failEntry (s.bump Obj.DRF_LOGITS_MALFORMED pal) r.pallet i .transportError
      else
        let rows := logitRows m
        let s := s.bumpBy Obj.FMT_NAN_INPUT r.pallet
          (sumOf rows (fun n => sumOf n (fun st => countIf st (fun b => (logitOf b).2))))
        let z := rows.map (fun n => n.map logitRow)
        if z.any (fun n => n.any List.isEmpty) then
          failEntry (s.onEntryRun r.pallet i (fun e => { e with logits := some m })) r.pallet i .transportError
        else match e.tree with
          | none => drop
          | some t =>
            let w : Walk := { e := e, t := t, z := z, handle := r.admitHandle, step := m.step, nstream := r.nstream }
            let x := w.go 33 0
            let s := s.bumpBy Obj.DRF_NODES_ACCEPTED r.pallet x.1.length
            let s := s.bumpBy Obj.SMP_RESIDUAL_DRAWS r.pallet x.2.2
            let frames := x.1.map (fun k => t.frames.getD k []) ++ [x.2.1]
            let now := s.now
            s.onEntryRun r.pallet i (fun e => { e with
              logits := some m, path := 0 :: x.1, emitted := frames, accepted := x.1.length, tDone := now, ended := true })

def logits (port : Nat) (p : Pkt) (m : LogitsMsg) (s : State) : State :=
  gateMsg s port 0x13 m.length p (serviceCheck p m.handle) (logitsArrive p m)

def execLogits (port : PortNo) (pkt : Pkt) (msg : LogitsMsg) (t : Nat) (s : State) : Outcome :=
  .next (logits port pkt msg (s.at t))

/-- DRF_LOGITS_TIMEOUT (R495). -/
def logitsTimeout (handle : Nat) (s : State) : State := match s.byHandle handle with
  | none => s
  | some (slot, r) => match s.entryOf r.pallet slot with
    | none => s
    | some (i, e) =>
      if e.ended || e.tree.isNone || e.logits.isSome
          || s.now < e.sentAt + 1000 * s.obj Obj.DRF_LOGITS_WAIT_US r.pallet then s
      else failEntry (s.bump Obj.DRF_LOGITS_TIMEOUT r.pallet) r.pallet i .timeout

def execDrfLogitsTimeout (handle t : Nat) (s : State) : Outcome := .next (logitsTimeout handle (s.at t))

end Sys2Proof.Machine
end

