-- ==== Sys2Proof/Machine/Commit.lean ====
section
/-! DEFINITION. What a step commits for a request at its boundary (R76, R81, R105 to R109, R125, R157): rows into pages, the
context length, the pending frame and the count tables. -/

namespace Sys2Proof.Machine

/-! ## Rows -/

/-- The layers of a geometry: LAYER, KV heads, head dimension, ascending. -/
def layersOf (g : Geom) : List (Nat × Nat × Nat) :=
  (List.range g.nlayer).map (fun l => (l, g.nkv, hdimOf g.hdimc))
    ++ (List.range g.dlayer).map (fun d => (128 + d, g.dnkv, hdimOf g.dhdimc))

/-- `n` free 32-bit words. -/
def freeWords (s : State) (n : Nat) : List Nat × State :=
  ((List.range n).map (fun i => Config.freeValue (s.free + i) % 2 ^ 32), { s with free := s.free + n })

/-- Decoded fresh key rows of a head in FP32, saturating. -/
def freshKeyRows (c : AttCall) (h : Nat) : List (List Nat) :=
  (freshKeys c h).map (fun bs => bs.flatMap (fun b => b.v.map (fun x => (satRound (x * b.m) b.e).1)))

/-- The rows (key, value, segment) of a layer's head at the positions `idxs` of the call whose fresh rows stand. A row that
no call of the layer gave is of free values (log entry 34). -/
def rowsFor (s : State) (call : Option AttCall) (hdim h : Nat) (idxs : List Nat) : List (List Nat × List Nat × Nat) × State :=
  match call with
  | none => idxs.foldl (fun (acc : List (List Nat × List Nat × Nat) × State) _ =>
      let k := freeWords acc.2 hdim
      let v := freeWords k.2 hdim
      (acc.1 ++ [(k.1, v.1, 0)], v.2)) ([], s)
  | some c =>
    let ks := freshKeyRows c h
    let vs := freshValues c h
    idxs.foldl (fun (acc : List (List Nat × List Nat × Nat) × State) i => match ks[i]?, vs[i]? with
      | some k, some v => (acc.1 ++ [(k, v, c.qseg.getD i 0)], acc.2)
      | _, _ =>
        let k := freeWords acc.2 hdim
        let v := freeWords k.2 hdim
        (acc.1 ++ [(k.1, v.1, 0)], v.2)) ([], s)

/-! ## Appending to a request -/

/-- A commit under way: the state so far, whether it has failed, whether it was a spill slot that it missed, and the counts of
its encodings. -/
structure Commit where
  st : State
  failed : Bool
  short : Bool
  cnt : QCounts
  deriving DecidableEq, Repr

/-- Appends rows to the pages of a (layer, KV head) from a position on: `fuel` bounds the pages. -/
def appendAt : Nat → Nat → Nat → Nat → Nat → Nat → List (List Nat × List Nat × Nat) → Commit → Commit
  | 0, _, _, _, _, _, _, c => c
  | fuel + 1, slot, layer, h, hdim, pos, rows, c =>
    if c.failed || rows.isEmpty then c
    else match c.st.request? slot with
      | none => c
      | some r =>
        let k := pos / 64
        let t0 := pos % 64
        let now := rows.take (64 - t0)
        let g := (c.st.kvPage r layer h k).getD (KvPage.new r.pfmt hdim layer h k r.handle)
        let w := appendRows c.st r.pallet hdim g t0 now
        let cnt := c.cnt.add w.cnt
        match placeSpill c.st slot w with
        | none => { c with failed := true, short := spillShort c.st slot r.pallet w, cnt := cnt }
        | some (g, s) => match storePage s r (pageVa s r layer h k) (sideVa s r layer h k) g with
          | none => { c with failed := true, cnt := cnt }
          | some s =>
            appendAt fuel slot layer h hdim (pos + now.length) (rows.drop now.length) { c with st := s, cnt := cnt }

/-- Appends the rows `idxs` of an entry's fresh rows, in every layer and head, from a position on. -/
def appendLayers (slot : Nat) (g : Geom) (fresh : NMap (Option AttCall)) (pos : Nat) (idxs : List Nat) (c : Commit) : Commit :=
  (layersOf g).foldl (fun c l =>
    (List.range l.2.1).foldl (fun c h =>
      if c.failed then c
      else
        let x := rowsFor c.st (NMap.get none fresh l.1) l.2.2 h idxs
        appendAt (idxs.length + 1) slot l.1 h l.2.2 pos x.1 { c with st := x.2 }) c) c

/-- Longest context a request may have (R164, R306). -/
def ctxMax (s : State) (slot p : Nat) : Nat := min (s.reqLocal slot).lmax (64 * s.pagesPerHead p)

/-- Commits rows: the pages and the context length as a whole, or nothing. The encodings are charged either way (R77); a
failure is counted in FMT_SPILL_DENIED where it was a spill slot that was missing (R76). -/
def commitRows (s : State) (slot : Nat) (fresh : NMap (Option AttCall)) (idxs : List Nat) : Bool × State :=
  match s.request? slot with
  | none => (false, s)
  | some r =>
    if ctxMax s slot r.pallet < r.ctxlen + idxs.length then (false, s)
    else
      let c := appendLayers slot r.geom fresh r.ctxlen idxs { st := s, failed := false, short := false, cnt := QCounts.zero }
      let done := if c.failed then { s with free := c.st.free }.bumpBy Obj.FMT_SPILL_DENIED r.pallet (b2n c.short)
        else mapRecords (c.st.onRequest slot (fun r => { r with ctxlen := r.ctxlen + idxs.length })) slot
      (!c.failed, chargeRequest (chargePallet done r.pallet c.cnt) slot c.cnt)

/-- Adds frames to the count tables (R120). -/
def countFrames' (counts : NMap CountTable) (frames : List (List Nat)) : NMap CountTable :=
  counts.map (fun e => (e.1, frames.foldl (fun t f => countAdd t (f.getD e.1 0)) e.2))

/-- The frames up to and with the first whose stream-0 token is STOP, and whether there is one. -/
def cutStop (stop : Nat) : List (List Nat) → List (List Nat) × Bool
  | [] => ([], false)
  | f :: fs =>
    if f.getD 0 0 = stop then ([f], true)
    else
      let r := cutStop stop fs
      (f :: r.1, r.2)

/-- Commits frames whose rows are `idxs`: the last frame becomes the pending frame, and the counts rise (R105). -/
def commitFrames (s : State) (slot : Nat) (fresh : NMap (Option AttCall)) (idxs : List Nat) (frames : List (List Nat)) :
    Bool × State :=
  if frames.isEmpty then (true, s)
  else
    let c := commitRows s slot fresh idxs
    if !c.1 then c
    else (true, c.2.onRequest slot (fun r => { r with
      pending := frames.getLast?.getD [], pendValid := true, counts := countFrames' r.counts frames }))

/-- E of a verified entry, and STOPPED (R105, R125). -/
def emittedOf (e : EntryRun) : List (List Nat) × Bool := match e.blocks.head? with
  | some b => cutStop b.stop e.emitted
  | none => (e.emitted, false)

/-- Commits the entry of a DECODE step. -/
def commitDecode (s : State) (slot : Nat) (e : EntryRun) : Bool × State :=
  let fs := (emittedOf e).1
  commitFrames s slot e.fresh (e.path.take fs.length) fs

/-- Commits the entry of a PREFILL step (R107). The device is never given the prompt's tokens: the pending frame of an input's
end is of free values (log entry 30). -/
def commitPrefill (s : State) (slot : Nat) (e : EntryRun) : Bool × State :=
  let n := if e.d.last then e.d.ntok - 1 else e.d.ntok
  let c := commitRows s slot e.fresh (List.range n)
  if !c.1 || !e.d.last then c
  else
    let w := freeWords c.2 16
    let n := match s.request? slot with
      | some r => r.nstream
      | none => 0
    (true, w.2.onRequest slot (fun r => { r with
      pending := (w.1.take n).map (· % 2 ^ 18), pendValid := true }))

/-- Commits carried entries in step order from row `off` on, and stops at one that fails (R157). -/
def commitReplay (slot : Nat) (fresh : NMap (Option AttCall)) : Nat → List CarriedEntry → State → Bool × State
  | _, [], s => (true, s)
  | off, c :: cs, s =>
    let n := c.frames.length
    let r := commitFrames s slot fresh ((List.range n).map (· + off)) c.frames
    if !r.1 then r
    else commitReplay slot fresh (off + n) cs (r.2.onRequest slot (fun q => { q with nextStep := c.step + 1 }))

/-- Frees the draft pages that have fallen out of the window, but for the sink page (R109). -/
def freeDraft (s : State) (slot : Nat) : State := match s.request? slot with
  | none => s
  | some r =>
    let gone := (List.range (pagesFor r.ctxlen)).filter (s.outOfWindow r)
    (List.range r.geom.dlayer).foldl (fun s d => (List.range r.geom.dnkv).foldl (fun s h =>
      gone.foldl (fun s k => dropPage s slot r (pageVa s r (128 + d) h k) (sideVa s r (128 + d) h k)) s) s) s

/-- More fallback blocks than FMT_FALLBACK_NOTE per mille of the blocks written (R79). -/
def fallbackNote (s : State) (p slot : Nat) : Bool :=
  let l := s.reqLocal slot
  s.obj Obj.FMT_FALLBACK_NOTE p * l.written < 1000 * l.fallbacks

end Sys2Proof.Machine
end

