-- ==== Sys2Proof/Machine/Image.lean ====
section
/-! DEFINITION. The extent image of a request (R129, R130, R139): its units, its stripes and shards (R149), reading and
installing one, and the coded stream of a parked request (R204). -/

namespace Sys2Proof.Machine

/-- Bytes cut into units, the last filled with zeros. -/
def chunkUnits (bs : List Byte) : List (List Byte) :=
  (List.range (ceilDiv bs.length unitSize)).map (fun k => padTo unitSize ((bs.drop (unitSize * k)).take unitSize))

/-! ## The layout (R139) -/

/-- The parts of an image: its first unit, count tables, index pages, page records by (layer, KV head), inbox records, and
spill payloads. -/
structure Parts where
  first : List Byte
  counts : List (List Byte)
  index : List (List Byte)
  groups : List (List (List Byte))
  spill : List (List Byte)
  deriving DecidableEq, Repr

/-- A page record: the element area and the side record. -/
def KvPage.record (g : KvPage) : List Byte := g.elems ++ g.side

/-- The payloads of a page's fallback blocks, in block order. -/
def KvPage.payloads (g : KvPage) : List (List Byte) :=
  (g.blocks.filter (·.q.fallback)).map (fun b => packCodes 5 b.q.codes)

/-- Zero units up to a multiple of four. -/
def alignUnits (us : List (List Byte)) : List (List Byte) :=
  us ++ List.replicate (roundUp us.length 4 - us.length) (zeros unitSize)

/-- The units of an image. -/
def Parts.units (p : Parts) : List (List Byte) :=
  let pre := (if p.first.isEmpty then [] else [padTo unitSize p.first]) ++ chunkUnits p.counts.flatten
    ++ p.index.map (padTo unitSize)
  let recs := p.groups.foldl (fun us g => if g.isEmpty then us else alignUnits us ++ g) pre
  recs ++ chunkUnits p.spill.flatten

/-- Index pages of a target (layer, KV head), from its pages. -/
def indexPages (pages : List KvPage) : List (List Byte) :=
  (List.range (ceilDiv pages.length 1024)).map (fun i => (List.range 64).flatMap (fun j =>
    let g := 64 * i + j
    (indexEntry g (((pages.drop (16 * g)).take 16).filter (·.sealed))).bytes))

/-- Pages of a request by (layer, KV head), ascending, with whether the layer is a target's. -/
def pageGroups (s : State) (r : Request) : List (Bool × List KvPage) :=
  (layersOf r.geom).flatMap (fun l => (List.range l.2.1).map (fun h =>
    (decide (l.1 < 128), (List.range (pagesFor r.ctxlen)).filterMap (fun k => s.kvPage r l.1 h k))))

/-- Pages of the placed increments of a request, in arrival order. -/
def inboxPages (s : State) (r : Request) : List KvPage :=
  (r.inbox.filter (·.placed)).flatMap (fun x => x.pages.filterMap (fun q =>
    s.pageAt r.pallet (inboxVa s r q.record) (inboxSideVa s r q.record)))

/-- The parts that a request's pages give. -/
def partsOf (r : Request) (groups : List (Bool × List KvPage)) (inbox : List KvPage) : Parts :=
  { first := requestHeader r ++ r.blocks.flatMap blockBytes,
    counts := r.counts.map (fun e => countBytes e.2),
    index := (groups.filter (·.1)).flatMap (fun g => indexPages g.2),
    groups := groups.map (fun g => g.2.map KvPage.record) ++ [inbox.map KvPage.record],
    spill := groups.flatMap (fun g => g.2.flatMap KvPage.payloads) ++ inbox.flatMap KvPage.payloads }

/-! ## Streams in memory (R191, R204) -/

/-- Bytes of a range of a pallet's device virtual space, page by page. -/
def State.spanRead (s : State) (p va n : Nat) : List Byte :=
  (pagesOf va n).flatMap (fun k =>
    let lo := max va (k * 8192)
    s.pageRead p lo (min (va + n) (k * 8192 + 8192) - lo))

/-- Stores bytes over a range, page by page. -/
def State.spanWrite (s : State) (p va : Nat) (bs : List Byte) : State :=
  (pagesOf va bs.length).foldl (fun s k =>
    let lo := max va (k * 8192)
    s.pageWrite p lo ((bs.drop (lo - va)).take (k * 8192 + 8192 - lo))) s

/-- The codec work of a path is put in a pallet (R189). -/
def codecWork (s : State) (p : Nat) : State := s.emit (.codecTokens p)

/-- Codes units in a pallet, and counts them. -/
def encodeAll (s : State) (p : Nat) (t : Tables) (us : List (List Byte)) : List Coded × State :=
  us.foldl (fun (acc : List Coded × State) u =>
    let c := encodeUnit t u
    let s := acc.2.bump (match c.typ with
      | .zero => Obj.CMP_BLOCKS_ZERO
      | .coded => Obj.CMP_BLOCKS_CODED
      | _ => Obj.CMP_BLOCKS_RAW) 0
    (acc.1 ++ [c], (s.bumpBy Obj.CMP_BYTES_IN 0 unitSize).bumpBy Obj.CMP_BYTES_OUT 0 c.bytes.length))
    ([], if us.isEmpty then s else codecWork s p)

/-- The byte offsets of blocks that follow one another in the data area. -/
def blockOffsets (cs : List Coded) : List Nat :=
  (cs.foldl (fun (acc : List Nat × Nat) c => (acc.1 ++ [acc.2], acc.2 + c.bytes.length)) ([], 0)).1

/-- Where the block index of a stream of `n` tables begins (R191). -/
def indexStart (n : Nat) : Nat := roundUp (64 + 136 * n) 64

/-- A stored stream: header, tables, index and data area. -/
def streamBytes (rid ver shard tBuild : Nat) (t : Tables) (cs : List Coded) : List Byte :=
  let data := cs.flatMap (·.bytes)
  let head := streamHeader cs.length rid ver shard data.length tBuild t
  let index := (cs.zip (blockOffsets cs)).flatMap (fun e => entryBytes e.2 e.1)
  padTo (indexStart t.length) head ++ padTo (roundUp index.length 64) index ++ data

/-- Start of the stream of a parked request. -/
def parkVa (s : State) (r : Request) : Nat := r.vbase + s.spanSize r.pallet / 2

/-- The header of a parked request's stream as it reads. -/
def parkStream (s : State) (r : Request) : StreamRead := readStream (s.spanRead r.pallet (parkVa s r) (64 + 136 * 16))

/-- Block i of a parked request's stream with `n` tables and `count` blocks. -/
def parkBlock (s : State) (r : Request) (n count i : Nat) : Coded :=
  let index := parkVa s r + indexStart n
  let e := entryOf (s.spanRead r.pallet (index + 16 * i) 16)
  { e.2 with bytes := s.spanRead r.pallet (index + roundUp (16 * count) 64 + e.1) e.2.size }

/-- The blocks of a parked request's stream; none where the stream is damaged as a whole. -/
def parkBlocks (s : State) (r : Request) : Tables × List Coded := match parkStream s r with
  | .good t n _ => (t, (List.range n).map (parkBlock s r t.length n))
  | _ => ([], [])

/-- The units of a resident request's image. -/
def imageUnits (s : State) (slot : Nat) : List (List Byte) := match s.request? slot with
  | none => []
  | some r =>
    if (s.reqLocal slot).parked then
      let k := parkBlocks s r
      k.2.map (decodedUnit k.1)
    else (partsOf r (pageGroups s r) (inboxPages s r)).units

/-! ## Increments (R144) -/

/-- The pages of an increment: every layer's pages that hold positions [pos0, pos0 + ntok). -/
def incrementPages (s : State) (r : Request) (pos0 ntok : Nat) : List (List KvPage) :=
  let ks := (List.range (pagesFor (pos0 + ntok))).filter (fun k => pos0 / 64 ≤ k)
  (layersOf r.geom).flatMap (fun l => (List.range l.2.1).map (fun h => ks.filterMap (fun k => s.kvPage r l.1 h k)))

/-- The units of an increment's image, and its spill payloads. -/
def incrementUnits (s : State) (r : Request) (pos0 ntok : Nat) : List (List Byte) × Nat :=
  let g := if ntok = 0 then [] else incrementPages s r pos0 ntok
  let spill := g.flatMap (fun x => x.flatMap KvPage.payloads)
  ((({ first := [], counts := [], index := [], groups := g.map (fun x => x.map KvPage.record), spill := spill } : Parts)).units,
    spill.length)

/-! ## Installing (R142, R145, R146, R204) -/

/-- A page record as a page whose fallback blocks have no slot yet, under a handle. -/
def recPage (handle : Nat) (q : PageRec) : KvPage :=
  let g := parsePage q.elems q.side (fun _ => zeros 32)
  let b := g.blocks.foldl (fun (acc : List SBlock × List (List Byte)) x =>
    if x.q.fallback then
      (acc.1 ++ [{ q := { x.q with codes := unpackCodes 5 (acc.2.headD []) }, slot := none }], acc.2.tail)
    else (acc.1 ++ [x], acc.2)) ([], q.spill)
  { g with handle := handle, blocks := b.1 }

/-- Installs page records at their places in the context: none where a spill slot or a frame is missing. -/
def installPages (s : State) (slot : Nat) (qs : List PageRec) : Option State :=
  qs.foldl (fun (a : Option State) q => match a with
    | none => none
    | some s => match s.request? slot with
      | none => none
      | some r => match placeSpill s slot { page := recPage r.handle q, freed := [], cnt := QCounts.zero } with
        | none => none
        | some (g, s) => storePage s r (pageVa s r q.layer q.head q.page) (sideVa s r q.layer q.head q.page) g) (some s)

/-- Installs page records in the INBOX regions, in order, with spill slots of a list first: none where a spill slot or a frame is
missing. Slots left over return. -/
def installInbox (s : State) (slot : Nat) (free : List Nat) (qs : List PageRec) : Option (List InboxPage × State) :=
  (qs.foldl (fun (a : Option (List InboxPage × List Nat × State)) q => match a with
    | none => none
    | some (l, free, s) => match s.request? slot with
      | none => none
      | some r => match placeSpillFrom s slot (recPage r.handle q) free with
        | none => none
        | some (g, free, s) =>
          let i := r.inboxNext
          match storePage s r (inboxVa s r i) (inboxSideVa s r i) g with
          | none => none
          | some s =>
            some (l ++ [{ layer := q.layer, head := q.head, page := q.page, record := i }], free,
              s.onRequest slot (fun r => { r with inboxNext := i + 1 }))) (some ([], free, s))).map
    (fun x => (x.1, dropSpills x.2.2 slot x.2.1))

/-- Takes spill slots for page records that are not stored as pages. -/
def slotPages (s : State) (slot handle : Nat) (qs : List PageRec) : Option (List KvPage × State) :=
  qs.foldl (fun (a : Option (List KvPage × State)) q => match a with
    | none => none
    | some (l, s) => match placeSpill s slot { page := recPage handle q, freed := [], cnt := QCounts.zero } with
      | none => none
      | some (g, s) => some (l ++ [g], s)) (some ([], s))

/-- The tables of a table read and when they were built, where its stream is not damaged as a whole (R193, R201). -/
def wireTables (w : WireRead) : Option (Tables × Nat) := match readStream w.stream with
  | .good t _ built => some (t, built)
  | _ => none

/-- Counts what the coded reads of an image met (R193, R199 to R201): the failed checks, a re-read for each, the last of them
uncoded once CMP_REREAD coded ones have failed, and a refused table. A first read compares no CRC. -/
def countWire (s : State) (w : WireRead) : State :=
  let tries := w.damaged.map (List.take (s.obj Obj.CMP_REREAD 0 + 1))
  let s := tries.foldl (fun s l =>
    (l.zipIdx.filter (fun e => e.1 ≠ .crc || 0 < e.2)).foldl (fun s e => countCheck s e.1) s) s
  let s := s.bumpBy Obj.CMP_REREADS 0 (sumOf tries List.length)
  if readStream w.stream = .refused then s.bump Obj.CMP_TABLE_REFUSED 0 else s

/-- Stores an arriving request in coded form (R204), with the tables received and the instant they were built, or with tables
built here where none came: the stream takes the place of DATA. -/
def parkRequest (s : State) (slot : Nat) (img : Image) (tables : Option (Tables × Nat)) : Option State :=
  match s.request? slot with
  | none => none
  | some r =>
    match slotPages s slot r.handle img.pages with
    | none => none
    | some (gs, s) => match slotPages s slot r.handle (img.inbox.flatMap (·.pages)) with
      | none => none
      | some (inbox, s) =>
        let pages := (img.pages.zip gs)
        let groups := (layersOf r.geom).flatMap (fun l => (List.range l.2.1).map (fun h =>
          (decide (l.1 < 128), (pages.filter (fun e => e.1.layer == l.1 && e.1.head == h)).map (·.2))))
        let us := (partsOf r groups inbox).units
        let t := tables.getD (buildTables (s.obj Obj.CMP_SAMPLE_STRIDE 0) us, s.now)
        let c := encodeAll s r.pallet t.1 us
        let bs := streamBytes r.rid 0 0xFF t.2 t.1 c.1
        match ensureRange c.2 r.pallet (parkVa s r) bs.length r.keyslot with
        | none => none
        | some s => some ((s.spanWrite r.pallet (parkVa s r) bs).onLocal slot (fun l => { l with parked := true }))

/-- The device parks what arrives in coded form. -/
def State.parks (s : State) : Bool := s.role = 3 && s.obj Obj.CMP_STORE_MODE 0 = 2

/-! ## The coded copy (R149) -/

/-- Product in GF(2^8), field polynomial 0x11D. -/
def gf256 (a b : Nat) : Nat :=
  let p := (List.range 8).foldl (fun r i => if bitOf b i then r ^^^ (a <<< i) else r) 0
  (List.range 7).foldl (fun p i => if bitOf p (14 - i) then p ^^^ (0x11D <<< (6 - i)) else p) p

/-- Data unit i of stripe k; units beyond the image are zero. -/
def dataUnit (us : List (List Byte)) (k i : Nat) : List Byte := us.getD (4 * k + i) (zeros unitSize)

/-- Bytewise combination of the four data units of a stripe. -/
def combine (us : List (List Byte)) (k : Nat) (f : Nat → Nat → Nat) : List Byte :=
  let d := (List.range 4).map (fun i => (dataUnit us k i).toArray)
  (List.range unitSize).map (fun j => BitVec.ofNat 8
    (d.zipIdx.foldl (fun a e => a ^^^ f e.2 (e.1.getD j 0).toNat) 0))

/-- Shard i of stripe k. -/
def shardUnit (us : List (List Byte)) (k i : Nat) : List Byte :=
  if i < 4 then dataUnit us k i
  else if i = 4 then combine us k (fun _ x => x)
  else combine us k (fun n x => gf256 (2 ^ n) x)

/-- Stripes of an image. -/
def stripeCount (us : List (List Byte)) : Nat := ceilDiv us.length 4

/-- Stripe k differs between two images. -/
def stripeChanged (a b : List (List Byte)) (k : Nat) : Bool :=
  stripeCount a ≤ k || (List.range 4).any (fun i => dataUnit a k i ≠ dataUnit b k i)

/-- The device codes images on the wire. -/
def State.wireCodes (s : State) : Bool := s.obj Obj.CMP_WIRE_MODE 0 = 1

end Sys2Proof.Machine
end

