-- ==== Sys2Proof/Machine/Attach.lean ====
section
/-! DEFINITION. Attaching an inbox increment to a request's context (R146 to R148). -/

namespace Sys2Proof.Machine

/-! ## Pages -/

/-- Unmaps a page whose spill slots stay in use, and clears its side record. -/
def erasePage (s : State) (slot p va side : Nat) : State := clearSide (unmapPages s slot p (va / 8192) 1) slot p side

/-- Moves the leaf of a page to another address. -/
def moveLeaf (s : State) (p old new : Nat) : State := match s.leaf? p old with
  | none => s
  | some l =>
    let s := s.invalidateLeaf p (leafKey p old)
    ({ s with mem := { s.mem with leaves := NMap.del s.mem.leaves (leafKey p old) } }).setLeaf p new l

/-- Remaps an inbox record to its page of a (layer, KV head): none where no frame is free for its side record. -/
def remapPage (s : State) (slot : Nat) (r : Request) (q : InboxPage) : Option State :=
  let p := r.pallet
  let side := inboxSideVa s r q.record
  let newSide := sideVa s r q.layer q.head q.page
  match ensurePage s p newSide r.keyslot with
  | none => none
  | some s =>
    let bytes := s.pageRead p side 1024
    let s := moveLeaf s p (inboxVa s r q.record) (pageVa s r q.layer q.head q.page)
    some (clearSide (s.pageWrite p newSide bytes) slot p side)

/-- The page that holds POS0 cut to its tokens below POS0, with the spill slots its released blocks held (R146 step 1). -/
def cutPage (g : KvPage) (hdim t0 : Nat) : KvPage × List Nat :=
  let blank := (KvPage.new g.fmt hdim g.layer g.head 0 g.handle).blocks
  let gone := fun (j : Nat) => if j < 256 then t0 ≤ j / 4 else t0 ≤ 32 * ((j - 256) % 2)
  let freed := g.blocks.zipIdx.flatMap (fun e => if gone e.2 then e.1.slot.toList else [])
  let blocks := g.blocks.zipIdx.map (fun e => if gone e.2 then blank.getD e.2 e.1 else e.1)
  let seg := g.seg.zipIdx.map (fun e => if t0 ≤ e.2 then 0 else e.1)
  (({ g with ntok := t0, sealed := false, radius := 0, blocks := blocks, seg := seg } : KvPage).segBounds, freed)

/-- Copies a key block of the increment into a page: it keeps its outliers where the list has room, and is encoded again
otherwise. -/
def Rewrite.copyKey (s : State) (p : Nat) (w : Rewrite) (inc : KvPage) (j : Nat) : Rewrite :=
  let b := inc.blocks.getD j (SBlock.blank 0)
  let others := sumOf (w.page.blocks.set j (SBlock.blank 0)) (fun b => b.q.outl.length)
  if others + b.q.outl.length ≤ 64 then { w with page := { w.page with blocks := w.page.blocks.set j b } }
  else { (w.block s p j (b.decode inc.fmt)) with freed := w.freed ++ b.slot.toList }

/-- The merged boundary page: key blocks of the increment from token t0 on are copied, value blocks that hold tokens are
decoded from both and encoded again. -/
def mergePage (s : State) (p hdim : Nat) (ctx inc : KvPage) (freed : List Nat) (t0 n : Nat) : Rewrite :=
  let nb := hdim / 32
  let w : Rewrite := { page := ctx, freed := freed, cnt := QCounts.zero }
  let w := w.release (fun j => 256 ≤ j && (j - 256) / 2 < hdim && 32 * ((j - 256) % 2) < n)
  let w := ((List.range n).filter (t0 ≤ ·)).foldl (fun w t =>
    (List.range nb).foldl (fun w b => w.copyKey s p inc (4 * t + b)) w) w
  let used := fun (j : Nat) => j < 256 && t0 ≤ j / 4 && j / 4 < n && j % 4 < nb
  let w := { w with freed := w.freed ++ inc.blocks.zipIdx.flatMap (fun (e : SBlock × Nat) => if used e.2 then [] else e.1.slot.toList) }
  let w := (List.range hdim).foldl (fun (w : Rewrite) d => ((List.range 2).filter (fun h => 32 * h < n)).foldl (fun w h =>
    let j := 256 + 2 * d + h
    let a := (ctx.blocks.getD j (SBlock.blank 0)).decode ctx.fmt
    let b := (inc.blocks.getD j (SBlock.blank 0)).decode inc.fmt
    w.block s p j ((List.range 32).map (fun i =>
      let t := 32 * h + i
      if t < t0 then a.getD i 0 else if t < n then b.getD i 0 else 0))) w) w
  let seg := w.page.seg.zipIdx.map (fun (e : Nat × Nat) => if t0 ≤ e.2 && e.2 < n then inc.seg.getD e.2 0 else e.1)
  let page := { w.page with ntok := n, seg := seg }.segBounds
  { w with page := if n = 64 then page.seal else page }

/-! ## The attachment -/

/-- The boundary page of a (layer, KV head), cut and merged with the increment's where it has one, and its record; with it the
spill slots that step 1 frees. -/
def boundaryPage (s : State) (r : Request) (x : Inbox) (layer h hdim : Nat) : Rewrite × Option InboxPage × List Nat :=
  let t0 := x.pos0 % 64
  let kb := x.pos0 / 64
  let ctx := (s.kvPage r layer h kb).getD (KvPage.new r.pfmt hdim layer h kb r.handle)
  let cut := cutPage ctx hdim t0
  let alone : Rewrite := { page := cut.1, freed := cut.2, cnt := QCounts.zero }
  match x.pages.find? (fun q => q.layer == layer && q.head == h && q.page == kb) with
  | none => (alone, none, cut.2)
  | some q => match s.pageAt r.pallet (inboxVa s r q.record) (inboxSideVa s r q.record) with
    | none => (alone, none, cut.2)
    | some inc => (mergePage s r.pallet hdim cut.1 inc cut.2 t0 (min 64 (t0 + x.ntok)), some q, cut.2)

/-- The merged boundary pages of an increment, prepared before anything changes. -/
def boundaryPages (s : State) (r : Request) (x : Inbox) : List (Rewrite × Option InboxPage × List Nat) :=
  if x.pos0 % 64 = 0 then []
  else (layersOf r.geom).flatMap (fun l => (List.range l.2.1).map (fun h => boundaryPage s r x l.1 h l.2.2))

/-- Spill slots that the merges need beside those of the blocks they replace. The slots that step 1 would free are not free yet
(R146). -/
def mergeNeed (ws : List (Rewrite × Option InboxPage × List Nat)) : Nat := sumOf ws (fun w =>
  countIf w.1.page.blocks (fun b => b.q.fallback && b.slot.isNone) - (w.1.freed.length - w.2.2.length))

/-- Attaches the pages of one (layer, KV head). -/
def attachHead (slot : Nat) (x : Inbox) (layer h hdim : Nat) (c : Commit) : Commit := match c.st.request? slot with
  | none => c
  | some r =>
    let kb := x.pos0 / 64
    let first := ceilDiv x.pos0 64
    let s := ((List.range (pagesFor r.ctxlen)).filter (first ≤ ·)).foldl
      (fun s k => dropPage s slot r (pageVa s r layer h k) (sideVa s r layer h k)) c.st
    let c := { c with st := s }
    let c := (x.pages.filter (fun q => q.layer == layer && q.head == h && first ≤ q.page)).foldl (fun c q =>
      if c.failed then c else match remapPage c.st slot r q with
        | none => { c with failed := true }
        | some s => { c with st := s }) c
    if x.pos0 % 64 = 0 || c.failed then c
    else
      let w := boundaryPage c.st r x layer h hdim
      match placeSpill c.st slot w.1 with
      | none => { c with failed := true }
      | some (g, s) => match storePage s r (pageVa s r layer h kb) (sideVa s r layer h kb) g with
        | none => { c with failed := true }
        | some s => { c with st := match w.2.1 with
            | none => s
            | some q => (erasePage s slot r.pallet (inboxVa s r q.record) (inboxSideVa s r q.record)).bumpBy
                Obj.RQS_MERGED_BLOCKS 0 512 }

/-- Attaches an increment as a whole, or gives ADMIT_DENIED and changes nothing: a spill slot or a frame is missing, or the
context would pass its limit. Only a missing spill slot counts in FMT_SPILL_DENIED. The merge's encodings are charged either
way. -/
def attach (s : State) (slot : Nat) (x : Inbox) : Option Status × State := match s.request? slot with
  | none => (some .accessDenied, s)
  | some r =>
    if ctxMax s slot r.pallet < x.pos0 + x.ntok then (some .admitDenied, s)
    else
      let l := s.reqLocal slot
      let ws := boundaryPages s r x
      let cnt := ws.foldl (fun c w => c.add w.1.cnt) QCounts.zero
      let short := decide (r.resSpill - (l.spill.length - l.shared) + sharedFree s r.pallet < mergeNeed ws)
      let c := if short then ({ st := s, failed := true, short := true, cnt := cnt } : Commit)
        else (layersOf r.geom).foldl (fun c l => (List.range l.2.1).foldl (fun c h =>
          if c.failed then c else attachHead slot x l.1 h l.2.2 c) c)
          ({ st := s, failed := false, short := false, cnt := cnt } : Commit)
      let done := if c.failed then s.bumpBy Obj.FMT_SPILL_DENIED r.pallet (b2n c.short)
        else mapRecords (c.st.onRequest slot (fun r => { r with
          ctxlen := x.pos0 + x.ntok, pending := if x.last then x.pending.take r.nstream else [], pendValid := x.last,
          inbox := r.inbox.filter (· ≠ x) })) slot
      (if c.failed then some .admitDenied else none, chargeRequest (chargePallet done r.pallet cnt) slot cnt)

/-- What an ATTACH finds (R146): an increment to attach, one still being received, or nothing. -/
inductive AttachFound where
  | ready (x : Inbox)
  | receiving
  | missing
  deriving DecidableEq, Repr

/-- Looks up the increment that an entry names. -/
def findIncrement (r : Request) (pos0 : Nat) : AttachFound :=
  if r.ctxlen < pos0 then .missing
  else match r.inbox.find? (fun x => x.pos0 == pos0 && x.placed) with
    | some x => .ready x
    | none => if r.inbox.any (fun x => x.pos0 == pos0) then .receiving else .missing

end Sys2Proof.Machine
end

