-- ==== Sys2Proof/Machine/Move.lean ====
section
/-! DEFINITION. Handover (R134 to R145): WHOLE moves and increments at their source and destination, and the home register. -/

namespace Sys2Proof.Machine

/-! ## Messages -/

/-- A handle of this module that names a resident slot with another generation (R133). -/
def State.staleHandle (s : State) (h : Nat) : Bool := match s.request? (slotOf h) with
  | some r => r.handle ≠ h
  | none => false

/-- A message names a resident slot of this module with another generation. -/
def staleHo (s : State) (h : HoHdr) : Bool :=
  (h.srcMod = s.moduleNum && s.staleHandle h.srcHandle) || (h.dstMod = s.moduleNum && s.staleHandle h.dstHandle)

/-- TYPE is a code of R137. -/
def hoKnown (h : HoHdr) : Bool := 1 ≤ h.typ && h.typ ≤ 6

/-- What a handover or copy message meets before its own check: a reserved TYPE is refused (R9), and a stale one is accepted and
dropped. -/
def hoCheck (h : HoHdr) (check : State → Verdict × State) (s : State) : Verdict × State :=
  if !hoKnown h then (.refuse .transportError, s) else if staleHo s h then (.accept, s) else check s

/-- A handover or copy message: dropped and counted where its handle is stale. -/
def handover (s : State) (port : Nat) (p : Pkt) (h : HoHdr) (len : Nat) (body : State → State) : State :=
  gateMsg s port 0x18 len p (hoCheck h (fun s => (.accept, s))) (fun s =>
    if staleHo s h then s.bump Obj.RQS_STALE_DROPPED 0 else body s)

/-- An OFFER: under a retiring key its packet is refused (R354, item 6). -/
def offer (s : State) (port : Nat) (p : Pkt) (h : HoHdr) (body : State → State) : State :=
  gateMsg s port 0x18 160 p (fun s =>
    (if !hoKnown h then Verdict.refuse .transportError else if p.keyId ≠ 0 && s.slotRetired (bitsOf p.keyId 0 10) then Verdict.refuse .keyRetired else .accept, s)) (fun s =>
    if staleHo s h then s.bump Obj.RQS_STALE_DROPPED 0 else body s)

/-- The body of an OFFER (R138). REG and IMAGE name a registration and a place of the device's own, which no rule gives: free
values. -/
def offerBytes (s : State) (kind last pos0 ntok nunits keyslot dstPallet nspill tExpire : Nat) (pending : List Nat) :
    List Byte × State :=
  let reg := s.fresh 16
  let img := reg.2.fresh 48
  (pack [(kind + last * 2 ^ 2, 4), (pos0, 4), (ntok, 4), (nunits, 4), (reg.1 + keyslot * 2 ^ 16 + dstPallet * 2 ^ 26, 4),
    (nspill, 4), (img.1, 8), (tExpire, 8)] ++ zeros 24 ++ padTo 64 (pending.flatMap (toBytes 4)), img.2)

/-- A new move identifier, never 0. -/
def newXid (s : State) : Nat × State :=
  (s.req.xidNext, { s with req := { s.req with xidNext := s.req.xidNext % (2 ^ 32 - 1) + 1 } })

/-- Spill payloads of a resident request's image. -/
def spillCount (s : State) (slot : Nat) : Nat := (s.reqLocal slot).spill.length

/-! ## WHOLE moves at the source (R140, R141) -/

/-- Changes the WHOLE move of a RID. -/
def onMove (s : State) (rid : Nat) (f : MoveOut → MoveOut) : State :=
  { s with req := { s.req with out := mapIf s.req.out (fun m => m.rid == rid) f } }

/-- Forgets the WHOLE move of a RID. -/
def dropMove (s : State) (rid : Nat) : State :=
  { s with req := { s.req with out := s.req.out.filter (fun m => m.rid ≠ rid) } }

/-- The move of a resident request. -/
def moveOf (s : State) (slot : Nat) : Option (Request × MoveOut) := match s.request? slot with
  | none => none
  | some r => (s.req.out.find? (fun m => m.rid == r.rid)).map (fun m => (r, m))

/-- Sends OFFER to the move's destination. -/
def sendOffer (s : State) (slot : Nat) : State := match moveOf s slot with
  | none => s
  | some (r, m) =>
    let x := newXid s
    let s := x.2
    let te := s.now + s.obj Obj.RQS_OFFER_TIMEOUT 0
    let b := offerBytes s 0 0 r.ctxlen 0 (imageUnits s slot).length r.keyslot m.dstPallet (spillCount s slot) te []
    let s := onMove b.2 r.rid (fun m => { m with xid := x.1, state := .offered, tExpire := te })
    sendState (s.bump Obj.RQS_OFFERS 0) (.handover 1 r.rid) m.dst r.keyslot
      (hoHeader 1 .ok x.1 r.rid r.handle 0 s.moduleNum m.dst r.homeSeq ++ b.1)

/-- The move ends and the request stays, with the status of its last refusal (R141). -/
def moveStays (s : State) (slot : Nat) (st : Status) : State := match moveOf s slot with
  | none => s
  | some (r, m) =>
    let s := s.setRequest slot { r with life := .resident }
    complete (dropMove s r.rid) m.source 0x06 st 0

/-- Offers to the alternate; one that is dead already refuses as its OFFER would (R281, item 4). -/
def offerAlternate (s : State) (slot a : Nat) (rid : Nat) (st : Status) : State :=
  let s := onMove s rid (fun m => { m with dst := a, alt := none, last := st })
  if s.dead a then moveStays (s.bump Obj.RMF_TARGET_DEAD 0) slot .targetDead else sendOffer s slot

/-- A refusal of the destination, or its silence: the alternate is offered next, or the request stays (R141). -/
def moveRefused (s : State) (slot : Nat) (st : Status) : State := match moveOf s slot with
  | none => s
  | some (r, m) => match m.alt with
    | some a => offerAlternate s slot a r.rid st
    | none => moveStays s slot st

/-- The first OFFER of a move: to a destination that is dead already nothing is sent, and the OFFER ends with TARGET_DEAD
(R281, item 4). -/
def firstOffer (s : State) (slot : Nat) : State := match moveOf s slot with
  | none => s
  | some (_, m) => if s.dead m.dst then moveRefused (s.bump Obj.RMF_TARGET_DEAD 0) slot .targetDead else sendOffer s slot

/-- The move is done: the source frees every page; its entry held for the request ends with EPOCH_STALE. -/
def moveFreed (s : State) (slot : Nat) (st : Status) : State := match moveOf s slot with
  | none => s
  | some (r, m) =>
    let s := endCalls s r.handle .epochStale
    let s := match s.entryOf r.pallet slot with
      | some (i, e) => if e.held.isSome then failEntry s r.pallet i .epochStale else s
      | none => s
    let s := freeRequest s slot
    complete (dropMove s r.rid) m.source 0x06 st m.dstHandle

/-- A move command (R141, R161): what it answers at once, none where the move waits for its boundary. -/
def moveCommand (s : State) (issuer rid dst dstPallet alt : Nat) (src : Source) : Option Status × State :=
  match s.byRid rid with
  | none => (some .accessDenied, s)
  | some (_, r) =>
    if !s.ownsPallet issuer r.pallet || r.life ≠ .resident || s.req.out.any (fun m => m.rid == rid) then (some .accessDenied, s)
    else
      let m : MoveOut :=
        { rid := rid, dst := dst, dstPallet := dstPallet, alt := if alt = 0xFFFF then none else some alt, xid := 0,
          state := .waiting, tExpire := 0, tPull := 0, stride := 0, dstHandle := 0, last := .ok, source := src, tCheck := 0, checkTag := 0,
          stuck := false }
      (none, { s with req := { s.req with out := s.req.out ++ [m] } })

/-- MOVE of a CMD ring. -/
def moveEntry (o r tag rid dst dstPallet alt : Nat) (s : State) : State :=
  onEntry s o r (fun s =>
    let x := moveCommand s o rid dst dstPallet alt (.ring o r tag)
    match x.1 with
    | some st => complete x.2 (.ring o r tag) 0x06 st 0
    | none => x.2)

def execMove (o : OwnerNo) (r : RingNo) (tag rid dst : Nat) (dstPallet : PalletNo) (alt t : Nat) (s : State) : Outcome :=
  .next (moveEntry o r tag rid dst dstPallet alt (s.at t))

/-- RQS_MOVE: refused at once or accepted, and then completed by a COMPLETION. -/
def rqsMove (via : Via) (rid dst dstPallet alt : Nat) (s : State) : State :=
  s.objWrite via (s.isPriv via) (fun s =>
    let x := moveCommand s 16 rid dst dstPallet alt (.object via Obj.RQS_MOVE 0)
    (x.2, x.1.getD .ok, []))

def execRqsMove (via : Via) (rid dst : Nat) (dstPallet : PalletNo) (alt t : Nat) (s : State) : Outcome :=
  .next (rqsMove via rid dst dstPallet alt (s.at t))

/-- MOVE_OFFER: at a boundary of the pallet, a waiting move starts. -/
def moveOffer (slot : Nat) (s : State) : State := match moveOf s slot with
  | none => s
  | some (r, m) =>
    if m.state ≠ .waiting || r.life ≠ .resident || (s.pallet r.pallet).run.isSome then s
    else firstOffer (s.setRequest slot { r with life := .movingOut }) slot

def execMoveOffer (slot t : Nat) (s : State) : Outcome := .next (moveOffer slot (s.at t))

/-- PULL at the source: of a WHOLE move, or of an increment. -/
def pullArrive (h : HoHdr) (s : State) : State :=
  match s.req.out.find? (fun m => m.rid == h.rid && m.xid == h.xid && m.state == .offered), s.byRid h.rid with
  | some _, some (slot, _) =>
    if h.status = .ok then
      let now := s.now
      let stride := s.obj Obj.CMP_SAMPLE_STRIDE 0
      onMove s h.rid (fun m => { m with state := .pulling, tPull := now, stride := stride, dstHandle := h.dstHandle })
    else moveRefused s slot h.status
  | _, _ =>
    let mine := fun (m : IncOut) => m.rid == h.rid && m.xid == h.xid && !m.pulling
    let now := s.now
    if h.status = .ok then
      { s with req := { s.req with incs := mapIf s.req.incs mine (fun m => { m with pulling := true, tPull := now }) } }
    else { s with req := { s.req with incs := s.req.incs.filter (fun m => !mine m) } }

def pull (port : Nat) (p : Pkt) (h : HoHdr) (s : State) : State := handover s port p h 32 (pullArrive h)

def execPull (port : PortNo) (pkt : Pkt) (h : HoHdr) (t : Nat) (s : State) : Outcome := .next (pull port pkt h (s.at t))

/-- OFFER_EXPIRY: T_EXPIRE has passed; an increment's offer is forgotten. -/
def offerExpiry (slot : Nat) (s : State) : State :=
  match moveOf s slot with
  | some (_, m) =>
    if m.state = .offered && m.tExpire ≤ s.now then moveRefused s slot .timeout else s
  | none => match s.request? slot with
    | none => s
    | some r => { s with req := { s.req with
        incs := s.req.incs.filter (fun m => m.pulling || m.handle ≠ r.handle || s.now < m.tExpire) } }

def execOfferExpiry (slot t : Nat) (s : State) : Outcome := .next (offerExpiry slot (s.at t))

/-- RELEASE at the source. -/
def releaseArrive (h : HoHdr) (s : State) : State :=
  match s.req.out.find? (fun m => m.rid == h.rid && m.xid == h.xid && (m.state == .pulling || m.state == .check)),
      s.byRid h.rid with
  | some _, some (slot, _) => moveFreed s slot .ok
  | _, _ => { s with req := { s.req with incs := s.req.incs.filter (fun m => !(m.rid == h.rid && m.xid == h.xid)) } }

def handoverRelease (port : Nat) (p : Pkt) (h : HoHdr) (s : State) : State := handover s port p h 32 (releaseArrive h)

def execHandoverRelease (port : PortNo) (pkt : Pkt) (h : HoHdr) (t : Nat) (s : State) : Outcome :=
  .next (handoverRelease port pkt h (s.at t))

/-! ## The check of the home register (R141) -/

/-- The module that holds the register: the primary, or the backup while the primary is dead. -/
def holderOf (s : State) (r : Request) : Nat :=
  let p := r.copyGroup.getD 0 0xFFFF
  if s.dead p then r.copyGroup.getD 1 0xFFFF else p

/-- The register has been read: it names a module and a handle. -/
def homeChecked (s : State) (slot homeMod handle : Nat) : State := match moveOf s slot with
  | none => s
  | some (r, m) =>
    if m.state ≠ .check then s
    else if homeMod = s.moduleNum && handle = r.handle then
      match m.alt with
      | some a =>
        if s.dead a then moveRefused (onMove s r.rid (fun m => { m with alt := none })) slot .targetDead
        else moveRefused s slot .targetDead
      | none => moveRefused s slot .targetDead
    else
      let s := onMove s r.rid (fun m => { m with dstHandle := handle })
      moveFreed s slot (if homeMod = m.dst then .ok else .targetDead)

/-- Enters CHECK: the register is read by a rack memory load, or here where this module holds it. The place of the register in
the holder's rack memory is given by no rule: `Config.homeRegion` and `Config.homeOffset`. -/
def startCheck (s : State) (slot : Nat) : State := match moveOf s slot with
  | none => s
  | some (r, _) =>
    let tag := newTag s
    let now := s.now
    let s := onMove tag.2 r.rid (fun m => { m with state := .check, tCheck := now, checkTag := tag.1 })
    let holder := holderOf s r
    if holder = s.moduleNum then
      match s.home? r.rid with
      | some h => homeChecked s slot h.homeMod h.handle
      | none => s
    else
      sendMsg s (fun _ _ s => s) .response 0x20 3
        { Pkt.zero with
          epoch := s.curEpoch, dstMod := holder, rkey := Config.homeRegion, tag := tag.1, aux := 32, birth := s.now }
        (Config.homeOffset r.rid) []

/-- PLACE_WAIT_EXPIRY: no RELEASE within RQS_OFFER_TIMEOUT + RQS_PLACE_WAIT of PULL. -/
def placeWaitExpiry (slot : Nat) (s : State) : State := match moveOf s slot with
  | none => s
  | some (_, m) =>
    if m.state = .pulling && m.tPull + s.obj Obj.RQS_OFFER_TIMEOUT 0 + s.obj Obj.RQS_PLACE_WAIT 0 ≤ s.now then startCheck s slot
    else s

def execPlaceWaitExpiry (slot t : Nat) (s : State) : Outcome := .next (placeWaitExpiry slot (s.at t))

/-- MOVE_STUCK: neither holder has answered within RQS_PLACE_WAIT. -/
def moveStuck (slot : Nat) (s : State) : State := match moveOf s slot with
  | none => s
  | some (r, m) =>
    if m.state = .check && !m.stuck && m.tCheck + s.obj Obj.RQS_PLACE_WAIT 0 ≤ s.now then
      (onMove s r.rid (fun m => { m with stuck := true })).raise 0x40 [(r.rid, 8), (m.xid, 4)]
    else s

def execMoveStuck (slot t : Nat) (s : State) : Outcome := .next (moveStuck slot (s.at t))

/-- RM_LOAD_RESP: the answer of a home register read, or of a brick's LOAD. -/
def recvLoadResp (port : Nat) (p : Pkt) (s : State) : State :=
  match s.req.out.find? (fun m => m.state == .check && m.checkTag == p.tag) with
  | none => recvRmData 0x21 port p s
  | some m =>
    gateMsg s port 0x21 p.data.length p (fun s => (.accept, s)) (fun s => match s.byRid m.rid with
      | none => s
      | some (slot, _) =>
        homeChecked s slot (ofBytes ((p.data.drop 4).take 2)) (ofBytes (p.data.take 4)))

def execRmLoadResp (port : PortNo) (pkt : Pkt) (t : Nat) (s : State) : Outcome := .next (recvLoadResp port pkt (s.at t))

/-! ## The home register (R134 to R136) -/

/-- A PLACED is accepted, by the register it finds: as a change, or as one already made. -/
inductive PlacedRes where
  | change
  | already
  | refused
  deriving DecidableEq, Repr

/-- The holder accepts updates: the primary, and the backup while the primary is dead (R134, R142; log entry 124). -/
def HomeReg.acts (s : State) (h : HomeReg) : Bool := h.primary || s.dead h.peer

/-- Judges a PLACED of a sender. -/
def judgePlaced (s : State) (rid homeSeq sender : Nat) : PlacedRes := match s.home? rid with
  | none => .refused
  | some h =>
    if !h.acts s then .refused
    else if h.homeSeq = homeSeq then .change
    else if h.homeMod = sender && h.homeSeq = homeSeq + 1 then .already
    else .refused

/-- The sender becomes home. -/
def setPlaced (s : State) (rid handle sender : Nat) : State := match s.home? rid with
  | none => s
  | some h =>
    sendMirror (s.setHome rid { h with handle := handle, homeMod := sender, homeSeq := h.homeSeq + 1, tHome := s.now }) rid

/-- PLACED at the primary. Its acknowledgement waits for the backup's. -/
def placed (port : Nat) (p : Pkt) (h : HoHdr) (s : State) : State :=
  gateMsg s port 0x18 40 p (hoCheck h (fun s => match judgePlaced s h.rid h.homeSeq p.srcMod, s.home? h.rid with
      | .change, some reg => (if reg.alone s then .accept else .acceptHeld, s)
      | .already, _ => (.accept, s)
      | _, _ => (.refuse .accessDenied, s))) (fun s =>
    if staleHo s h then s.bump Obj.RQS_STALE_DROPPED 0
    else match judgePlaced s h.rid h.homeSeq p.srcMod with
      | .change =>
        let s := match s.home? h.rid with
          | some reg => if reg.alone s then s else s.setHome h.rid { reg with waiting := reg.waiting ++ [(port, p)] }
          | none => s
        setPlaced s h.rid h.dstHandle p.srcMod
      | _ => s)

/-- The instant a PLACED was sent, which it carries, changes nothing at the primary. -/
def execPlaced (port : PortNo) (pkt : Pkt) (h : HoHdr) (_tSent t : Nat) (s : State) : Outcome :=
  .next (placed port pkt h (s.at t))

/-- HOME_REGISTER_MIRROR at the backup; the transport's acknowledgement is its own. -/
def homeMirror (port : Nat) (p : Pkt) (rid handle homeMod homeSeq copyVer cstep tHome : Nat) (s : State) : State :=
  gateMsg s port 0x18 40 p (fun s => (.accept, s)) (fun s =>
    s.setHome rid { handle := handle, homeMod := homeMod, homeSeq := homeSeq, copyVer := copyVer, cstep := cstep, tHome := tHome,
                    primary := false, backup := 0xFFFF, peer := p.srcMod, waiting := [] })

def execHomeRegisterMirror (port : PortNo) (pkt : Pkt) (rid handle homeMod homeSeq copyVer cstep tHome t : Nat) (s : State) :
    Outcome :=
  .next (homeMirror port pkt rid handle homeMod homeSeq copyVer cstep tHome (s.at t))

/-- A message to the backup about a RID's register is not acknowledged. -/
def mirrorPending (s : State) (rid : Nat) : Bool :=
  s.trn.flows.any (fun e => (e.2.unacked ++ e.2.queued).any (fun h => h.purpose == .homeMirror rid))

/-- Sends the acknowledgement of a packet that was held. -/
def answerHeld (s : State) (w : Nat × Pkt) : State := match NMap.get? s.trn.rx (rxKey w.2.srcMod w.2.flow) with
  | some x => answer (s.setRx (rxKey w.2.srcMod w.2.flow) { x with hold := none }) w.1 7 0 w.2 x.expected .ok
  | none => s

/-- HOME_UPDATE_ACK: the backup has acknowledged; the primary acknowledges the updates it held. -/
def homeUpdateAck (rid : Nat) (s : State) : State := match s.home? rid with
  | none => s
  | some h =>
    if mirrorPending s rid then s
    else
      let s := s.setHome rid { h with waiting := [] }
      h.waiting.foldl answerHeld s

def execHomeUpdateAck (rid t : Nat) (s : State) : Outcome := .next (homeUpdateAck rid (s.at t))

/-! ## Moves at the destination (R142 to R145) -/

/-- The LD that hears of a pallet's arrivals: the lowest of its tenant's. -/
def ownerLd (s : State) (p : Nat) : Nat := match (s.palletTenant p).bind s.tenant? with
  | some t => (leastBelow 16 (bitOf t.lds)).getD 16
  | none => 16

/-- Roles that accept WHOLE arrivals and rebuilds (R143): GENERATION, CACHE, HYBRID. -/
def State.takesMoves (s : State) : Bool := s.role = 2 || s.role = 3 || s.role = 4

/-- The checks of R142 on what an image's header gives, in order, with R164 and R306. `nspill` is the spill payloads it
brings; `slotHeld`: its slot is issued already. With the status, the
counter that counts it. -/
def arrivalRefusal (s : State) (p keyslot ctxlen nspill : Nat) (h : ImageHdr) (slotHeld : Bool) :
    Option (Status × Option Nat) :=
  let nmax := nmaxOf s p h.geom h.resPages
  let frames := resFrames h.geom h.resPages h.resSpill nmax h.blocks
  if s.slotRetired keyslot then some (.keyRetired, none)
  else if !s.slotServes keyslot p then some (.accessDenied, none)
  else if (match (s.pallet p).loaded with
      | some l => decide (l.manifest.geom ≠ h.geom)
      | none => decide (s.role ≠ 3)) then some (.accessDenied, none)
  else if (!slotHeld && (pickSlot s).isNone) || (pickSpan s p).isNone || !spanHolds s p h.geom
      || 64 * s.pagesPerHead p < ctxlen then some (.admitDenied, some Obj.SCH_DENIED_MEM)
  else if h.resSpill + sharedFree s p < nspill then some (.admitDenied, none)
  else (judgeReservation s p frames (loadFigures s p h.pfmt h.geom (64 * nmax)) none).map (fun e => (e.1, some e.2))

/-- Counts a refusal of an arrival (R496). -/
def countRefusal (s : State) (p : Nat) (c : Option Nat) : State := match c with
  | some o => s.bump o p
  | none => s

/-- A request as it arrives, before its image is read. -/
def arriving (s : State) (handle rid keyslot p homeSeq : Nat) (h : ImageHdr) : Request :=
  { handle := handle, life := .movingIn, pallet := p, keyslot := keyslot, nstream := 1, pfmt := h.pfmt, pendValid := false,
    geom := h.geom, ctxlen := 0, nextStep := 0, cstep := 0xFFFFFFFF, copyVer := 0, homeSeq := homeSeq, rid := rid,
    vbase := (pickSpan s p).getD 0, resPages := h.resPages, resSpill := h.resSpill, homeMod := s.moduleNum,
    admitHandle := 0, copyGroup := List.replicate 6 0, tAdmit := 0, tLast := 0, pending := [], blocks := h.blocks,
    counts := [], inbox := [], inboxNext := 0 }

/-- Reserves for an arriving request in an issued slot. -/
def reserveArrival (s : State) (slot handle rid keyslot p homeSeq nspill : Nat) (h : ImageHdr) : State :=
  let r := arriving s handle rid keyslot p homeSeq h
  let lmax := 64 * nmaxOf s p h.geom h.resPages
  let fig := loadFigures s p h.pfmt h.geom lmax
  let s := s.setRequest slot r
  s.setLocal slot { ReqLocal.zero with lmax := lmax, load := fig, owner := ownerLd s p, shared := nspill - h.resSpill }

/-- Sends PULL. -/
def sendPull (s : State) (h : HoHdr) (st : Status) (dstHandle keyslot : Nat) : State :=
  let s := if st = .ok then s else s.bump Obj.RQS_DECLINED 0
  sendState s (.handover 2 h.rid) h.srcMod keyslot
    (hoHeader 2 st h.xid h.rid h.srcHandle dstHandle h.srcMod s.moduleNum h.homeSeq)

/-- A move at its destination, as it begins. -/
def MoveIn.begin (kind : InKind) (h : HoHdr) (handle slot p : Nat) (source : Source) : MoveIn :=
  { kind := kind, rid := h.rid, srcMod := h.srcMod, xid := h.xid, srcHandle := h.srcHandle, handle := handle, slot := slot,
    pallet := p, homeSeq := h.homeSeq, copyGroup := [], spill := [], state := .pulling, flush := 0, tPlaced := 0, source := source }

def addMoveIn (s : State) (m : MoveIn) : State := { s with req := { s.req with into := s.req.into ++ [m] } }

/-- Forgets a move at its destination. -/
def dropMoveIn (s : State) (m : MoveIn) : State :=
  { s with req := { s.req with into := s.req.into.filter (fun x => x ≠ m) } }

/-- OFFER of a WHOLE move. An OFFER received after T_EXPIRE is declined with TIMEOUT. -/
def offerWholeArrive (h : HoHdr) (b : OfferBody) (hdr : ImageHdr) (s : State) : State :=
  let p := b.dstPallet.val
  let refusal :=
    if !s.takesMoves then some (Status.admitDenied, none)
    else if b.tExpire < s.now then some (.timeout, none)
    else if (s.byRid h.rid).isSome then some (.accessDenied, none)
    else arrivalRefusal s p b.keyslot b.pos0 b.nspill hdr false
  match refusal, pickSlot s with
  | none, some k =>
    let x := issueSlot s k
    let s := reserveArrival x.2 k x.1 h.rid b.keyslot p h.homeSeq b.nspill hdr
    sendPull (addMoveIn s (.begin .whole h x.1 k p .device)) h .ok x.1 b.keyslot
  | some st, _ => sendPull (countRefusal s p st.2) h st.1 0 b.keyslot
  | none, none => sendPull s h .admitDenied 0 b.keyslot

/-- An OFFER whose KIND is reserved is answered with TRANSPORT_ERROR (R9). -/
def byKind (h : HoHdr) (b : OfferBody) (body : State → State) (s : State) : State :=
  if 2 ≤ b.kind then sendPull s h .transportError h.dstHandle b.keyslot else body s

def offerWhole (port : Nat) (p : Pkt) (h : HoHdr) (b : OfferBody) (hdr : ImageHdr) (s : State) : State :=
  offer s port p h (byKind h b (offerWholeArrive h b hdr))

def execOfferWhole (port : PortNo) (pkt : Pkt) (h : HoHdr) (body : OfferBody) (hdr : ImageHdr) (t : Nat) (s : State) : Outcome :=
  .next (offerWhole port pkt h body hdr (s.at t))

/-- Two spans of positions overlap. -/
def spansMeet (a n b m : Nat) : Bool := a < b + m && b < a + n

/-- Takes `n` spill slots for a request: none where one of them is missing, or a frame. -/
def takeSpills (slot : Nat) : Nat → State → Option (List Nat × State)
  | 0, s => some ([], s)
  | n + 1, s => match takeSpill s slot with
    | none => none
    | some (k, s) => (takeSpills slot n s).map (fun x => (k :: x.1, x.2))

/-- The refusal of an OFFER of an INCREMENT by its resident request (R142, R145). -/
def incrementRefusal (s : State) (h : HoHdr) (b : OfferBody) (slot : Nat) (r : Request) : Option Status :=
  if b.tExpire < s.now then some .timeout
  else if s.slotRetired b.keyslot then some .keyRetired
  else if r.life ≠ .resident || r.rid ≠ h.rid || (s.reqLocal slot).parked || b.keyslot.val ≠ r.keyslot
      || !s.slotServes b.keyslot r.pallet || b.dstPallet.val ≠ r.pallet then some .accessDenied
  else if r.inbox.any (fun x => spansMeet x.pos0 x.ntok b.pos0 b.ntok) then some .accessDenied
  else none

/-- OFFER of an INCREMENT (R145): its spill slots are taken, and it stands in the inbox as being received. -/
def offerIncrementArrive (h : HoHdr) (b : OfferBody) (s : State) : State :=
  match s.byHandle h.dstHandle with
  | none => sendPull s h .accessDenied h.dstHandle b.keyslot
  | some (slot, r) => match incrementRefusal s h b slot r with
    | some st => sendPull s h st h.dstHandle b.keyslot
    | none => match takeSpills slot b.nspill s with
      | none => sendPull s h .admitDenied h.dstHandle b.keyslot
      | some (ks, s) =>
        let x : Inbox :=
          { srcMod := h.srcMod, xid := h.xid, pos0 := b.pos0, ntok := b.ntok, last := b.last, pending := b.pending, placed := false,
            pages := [] }
        let s := s.setRequest slot { r with inbox := r.inbox ++ [x] }
        let m := { MoveIn.begin .increment h r.handle slot r.pallet .device with spill := ks }
        sendPull (addMoveIn s m) h .ok r.handle b.keyslot

def offerIncrement (port : Nat) (p : Pkt) (h : HoHdr) (b : OfferBody) (s : State) : State :=
  offer s port p h (byKind h b (offerIncrementArrive h b))

def execOfferIncrement (port : PortNo) (pkt : Pkt) (h : HoHdr) (body : OfferBody) (t : Nat) (s : State) : Outcome :=
  .next (offerIncrement port pkt h body (s.at t))

/-- A move fails at its destination: what it reserved is freed. -/
def discardIn (s : State) (m : MoveIn) (st : Status) : State :=
  let s := dropMoveIn s m
  let s := { s with mem := { s.mem with flushes := NMap.del s.mem.flushes m.flush } }
  match m.kind with
  | .increment => (dropSpills s m.slot m.spill).onRequest m.slot (fun r => { r with
      inbox := r.inbox.filter (fun x => !(x.srcMod == m.srcMod && x.xid == m.xid && !x.placed)) })
  | .whole => freeRequest s m.slot
  | .rebuild => complete (if (s.request? m.slot).isSome then freeRequest s m.slot else freeSlot s m.slot) m.source 0 st 0

/-- Starts the flush that PLACED waits for. -/
def startFlush (s : State) (m : MoveIn) : State :=
  let va := match s.request? m.slot with
    | some r => r.vbase
    | none => 0
  let id := s.ids
  let s := addFlush s { what := .moveIn, pallet := m.pallet, va := va, len := s.spanSize m.pallet }
  { s with
    req := { s.req with into := s.req.into.map (fun x => if x = m then { x with flush := id, state := .flushing } else x) } }

/-- Writes what an image brings into an arriving request: none where its pages do not fit what was reserved. -/
def installImage (s : State) (slot : Nat) (img : Image) (tables : Option (Tables × Nat)) : Option State := match s.request? slot with
  | none => none
  | some r =>
    let r := { r with
      nstream := img.nstream, pfmt := img.pfmt, pendValid := img.pendValid, geom := img.geom, ctxlen := img.ctxlen,
      nextStep := img.nextStep, cstep := img.cstep, copyVer := img.copyVer, admitHandle := img.admitHandle,
      copyGroup := img.copyGroup, tAdmit := img.tAdmit, tLast := img.tLast, pending := img.pending, blocks := img.blocks, counts := img.counts }
    let s := s.setRequest slot r
    let blank := fun (x : Increment) (pages : List InboxPage) =>
      ({ srcMod := 0xFFFF, xid := 0, pos0 := x.pos0, ntok := x.ntok, last := x.last, pending := x.pending, placed := true,
         pages := pages } : Inbox)
    if s.parks then
      (parkRequest s slot img tables).map (fun s =>
        mapRecords (s.onRequest slot (fun r => { r with inbox := img.inbox.map (blank · []) })) slot)
    else match installPages s slot img.pages with
      | none => none
      | some s => Option.map (fun s => mapRecords s slot) <| img.inbox.foldl (fun (a : Option State) x => match a with
          | none => none
          | some s => (installInbox s slot [] x.pages).map (fun y =>
              y.2.onRequest slot (fun r => { r with inbox := r.inbox ++ [blank x y.1] }))) (some s)

/-- IMAGE_READ_DONE: the image is installed and its flush starts. Only the image of a WHOLE move is ever coded (R188). -/
def imageReadDone (srcMod xid : Nat) (img : Image) (wire : WireRead) (s : State) : State :=
  match s.req.into.find? (fun m => m.srcMod == srcMod && m.xid == xid && m.state == .pulling && m.kind ≠ .rebuild) with
  | none => s
  | some m => match m.kind with
    | .increment => match installInbox s m.slot m.spill img.pages with
      | none => discardIn s m .admitDenied
      | some (pages, s) =>
        let m' := { m with spill := [] }
        let s := { s with req := { s.req with into := s.req.into.map (fun x => if x = m then m' else x) } }
        let s := s.onRequest m.slot (fun r => { r with
          inbox := mapIf r.inbox (fun x => x.srcMod == srcMod && x.xid == xid && !x.placed) (fun x => { x with pages := pages }) })
        startFlush s m'
    | _ =>
      let s := if wire.stream.isEmpty then s else codecWork (countWire s wire) m.pallet
      match installImage s m.slot img (wireTables wire) with
      | none => discardIn s m .admitDenied
      | some s =>
        let m' := { m with copyGroup := img.copyGroup }
        startFlush { s with req := { s.req with into := s.req.into.map (fun x => if x = m then m' else x) } } m'

def execImageReadDone (srcMod xid : Nat) (img : Image) (wire : WireRead) (t : Nat) (s : State) : Outcome :=
  .next (imageReadDone srcMod xid img wire (s.at t))

/-! ## PLACED at the destination -/

/-- Sends RELEASE to the source. -/
def sendRelease (s : State) (m : MoveIn) (keyslot : Nat) : State :=
  sendMsg s (fun _ _ s => s.bump Obj.RQS_RELEASE_LOST 0) (.handover 4 m.rid) 0x18 1
    { Pkt.zero with epoch := s.curEpoch, dstMod := m.srcMod, keyId := s.keyIdOf keyslot } 0
    (hoHeader 4 .ok m.xid m.rid m.srcHandle m.handle m.srcMod s.moduleNum m.homeSeq)

/-- The destination becomes home (R142, R156). -/
def becomeHome (s : State) (m : MoveIn) : State := match s.request? m.slot with
  | none => dropMoveIn s m
  | some r =>
    let s := (dropMoveIn s m).bump Obj.RQS_PLACED 0
    let owner := (s.reqLocal m.slot).owner
    match m.kind with
    | .rebuild =>
      let s := s.setRequest m.slot { r with life := .awaitReplay, homeSeq := m.homeSeq + 1 }
      let v := r.handle + r.cstep * 2 ^ 32
      complete (postEvent (s.bump Obj.RQS_REBUILDS 0) owner 0x80 .stateRebuilt v r.rid) m.source 0 .stateRebuilt v
    | _ =>
      let s := s.setRequest m.slot { r with life := .resident, homeSeq := m.homeSeq + 1 }
      let s := sendRelease s m r.keyslot
      let s := postEvent s owner 0x81 .ok r.handle r.rid
      s.onLocal m.slot (fun l => { l with refreshDue := true })

/-- The primary has accepted or refused a PLACED of this module. -/
def placedAnswer (s : State) (m : MoveIn) (accepted : Bool) : State :=
  if accepted then becomeHome s m else discardIn s m .accessDenied

/-- Sends PLACED to the holder of the register; a register held here is judged at once. -/
def sendPlaced (s : State) (m : MoveIn) : State :=
  let primary := m.copyGroup.getD 0 0xFFFF
  let dst := if s.dead primary then m.copyGroup.getD 1 0xFFFF else primary
  let keyslot := match s.request? m.slot with
    | some r => r.keyslot
    | none => 0
  if dst = s.moduleNum then
    match judgePlaced s m.rid m.homeSeq dst with
    | .change => placedAnswer (setPlaced s m.rid m.handle dst) m true
    | .already => placedAnswer s m true
    | .refused => placedAnswer s m false
  else
    sendState s (.handover 3 m.rid) dst keyslot
      (hoHeader 3 .ok m.xid m.rid m.srcHandle m.handle m.srcMod s.moduleNum m.homeSeq ++ toBytes 8 s.now)

/-- A flush of an arriving request or increment is complete. -/
def moveFlushed (s : State) (id : Nat) : State := match s.req.into.find? (fun m => m.flush == id && m.state == .flushing) with
  | none => s
  | some m => match m.kind with
    | .increment =>
      let last := match s.request? m.slot with
        | some r => r.inbox.any (fun x => x.srcMod == m.srcMod && x.xid == m.xid && !x.placed && x.last)
        | none => false
      let s := s.onRequest m.slot (fun r => { r with
        inbox := mapIf r.inbox (fun x => x.srcMod == m.srcMod && x.xid == m.xid) (fun x => { x with placed := true }) })
      let s := (dropMoveIn s m).bump Obj.RQS_PLACED 0
      let s := if last then s.onLocal m.slot (fun l => { l with refreshDue := true }) else s
      sendRelease s m (match s.request? m.slot with
        | some r => r.keyslot
        | none => 0)
    | _ =>
      let m' := { m with state := .placing, tPlaced := s.now }
      sendPlaced { s with req := { s.req with into := s.req.into.map (fun x => if x = m then m' else x) } } m'

/-- The move at its destination that waits for the primary. -/
def placingOf (s : State) (rid : Nat) : Option MoveIn := s.req.into.find? (fun m => m.rid == rid && m.state == .placing)

/-- A refused PLACED is sent again: the primary is dead, so its backup refused it, not yet promoted, and RQS_PLACE_WAIT since
the first has not passed (R142). -/
def placedAgain (s : State) (m : MoveIn) : Bool :=
  s.dead (m.copyGroup.getD 0 0xFFFF) && m.copyGroup.getD 1 0xFFFF ≠ s.moduleNum
    && s.now < m.tPlaced + s.obj Obj.RQS_PLACE_WAIT 0

/-- PLACED_RESPONSE. -/
def placedResponse (rid : Nat) (accepted : Bool) (s : State) : State := match placingOf s rid with
  | none => s
  | some m => if !accepted && placedAgain s m then sendPlaced s m else placedAnswer s m accepted

def execPlacedResponse (rid : Nat) (accepted : Bool) (t : Nat) (s : State) : Outcome :=
  .next (placedResponse rid accepted (s.at t))

/-- PLACED_RESEND_EXPIRY: the primary is dead, and RQS_PLACE_WAIT has passed since the first PLACED. -/
def placedResendExpiry (rid : Nat) (s : State) : State := match placingOf s rid with
  | none => s
  | some m =>
    if s.dead (m.copyGroup.getD 0 0xFFFF) && m.tPlaced + s.obj Obj.RQS_PLACE_WAIT 0 ≤ s.now then discardIn s m .targetDead else s

def execPlacedResendExpiry (rid t : Nat) (s : State) : Outcome := .next (placedResendExpiry rid (s.at t))

/-! ## The end of handover messages, and the death of a module -/

/-- What the end of a handover message does: a PLACED that fails to reach the primary is sent again (R142); a RELEASE that
fails is counted (R155). -/
def handoverFin (typ rid : Nat) (res : Option Status) (s : State) : State := match res with
  | none => s
  | some st =>
    if typ = 4 then s.bump Obj.RQS_RELEASE_LOST 0
    else if typ = 3 && st ≠ .accessDenied then match placingOf s rid with
      | some m => if s.now < m.tPlaced + s.obj Obj.RQS_PLACE_WAIT 0 then sendPlaced s m else s
      | none => s
    else s

/-- A module is declared dead (R141, R142): what it was offered counts as refused; a source whose image it pulls, or whose
register it was reading there, reads the register; a destination that reads an image from it, or has not placed an increment of it, discards (R155), and one whose PLACED it
holds sends it to the promoted primary; an update that waits for it as the backup is acknowledged. -/
def moveDead (s : State) (m : Nat) : State :=
  let s := { s with req := { s.req with incs := s.req.incs.filter (fun x => x.dst ≠ m) } }
  let s := (s.req.into.filter (fun x => x.srcMod == m && x.kind ≠ .rebuild
      && (x.state == .pulling || (x.state == .flushing && x.kind == .increment)))).foldl
    (fun s x => discardIn s x .targetDead) s
  let s := (s.req.into.filter (fun x => x.state == .placing && x.copyGroup.getD 0 0xFFFF == m)).foldl (fun s x =>
    if s.now < x.tPlaced + s.obj Obj.RQS_PLACE_WAIT 0 then sendPlaced s x else s) s
  let s := (s.req.homes.filter (fun h => h.2.primary && h.2.backup == m)).foldl (fun s h => homeUpdateAck h.1 s) s
  s.req.out.foldl (fun s x => match s.byRid x.rid with
    | none => s
    | some (slot, r) =>
      if x.state = .offered then (if x.dst = m then moveRefused s slot .targetDead else s)
      else if x.state = .pulling then (if x.dst = m then startCheck s slot else s)
      else if x.state = .check && r.copyGroup.getD 0 0xFFFF = m then startCheck s slot
      else s) s

end Sys2Proof.Machine
end

