-- ==== Sys2Proof/Machine/Copy.lean ====
section
/-! DEFINITION. The coded copy (R149 to R154, R203), rebuild (R156), the change of one request's group, and what a completed
flush lets go on (R175). -/

namespace Sys2Proof.Machine

/-! ## Copy messages -/

/-- A COPY_WRITE (R151): version, stripe and shard number, and at 0x40 the unit, or its index entry and block. XID is the home's
current one, and DST_HANDLE 0 (log entry 125). -/
def copyWriteBytes (s : State) (r : Request) (dst version stripe shard : Nat) (body : List Byte) : List Byte :=
  hoHeader 5 .ok s.req.xidNext r.rid r.handle 0 s.moduleNum dst r.homeSeq
    ++ padTo 32 (pack [(version, 4), (stripe, 4), (shard, 4)]) ++ body

/-- A COPY_COMMIT (R152). -/
def copyCommitBytes (s : State) (r : Request) (dst : Nat) (f : Refresh) : List Byte :=
  hoHeader 6 .ok s.req.xidNext r.rid r.handle 0 s.moduleNum dst r.homeSeq ++ pack [(f.version, 4), (f.cstep, 4), (f.stripes, 4)]

/-! ## Shards held as a member -/

def CopyShard.new (shard pallet : Nat) : CopyShard :=
  { shard := shard, pallet := pallet, version := 0, cstep := 0xFFFFFFFF, stripes := 0, units := [], nextVersion := 0,
    nextShard := shard, nextUnits := [], tables := none }

def State.shard? (s : State) (rid : Nat) : Option CopyShard := NMap.get? s.req.shards rid

def State.setShard (s : State) (rid : Nat) (k : CopyShard) : State :=
  { s with req := { s.req with shards := NMap.ins s.req.shards rid k } }

/-- The tables of a shard: none where it is kept uncoded. -/
def CopyShard.codes (k : CopyShard) : Tables := match k.tables with
  | some t => t.1
  | none => []

/-- A version continues the shard that the member holds: otherwise it brings a complete one (R153). -/
def CopyShard.follows (k : CopyShard) (version shard : Nat) : Bool := k.shard = shard && version = k.version + 1

/-- Offset and size of the blocks in the data area. -/
def CopyShard.used (k : CopyShard) : List (Nat × Nat) :=
  ((k.units ++ k.nextUnits).map (fun e => (e.2.off, e.2.block.bytes.length))).filter (fun e => e.2 ≠ 0)

/-- The lowest free offset that holds `n` bytes between blocks in use. -/
def freeOffset (used : List (Nat × Nat)) (n : Nat) : Nat :=
  let after := used.map (fun u => u.1 + u.2)
  ((0 :: after).filter (fun a => used.all (fun u => a + n ≤ u.1 || u.1 + u.2 ≤ a))).foldl min (after.foldl max 0)

/-- Stores a unit of a version beside the committed one, in free space of the data area; a member that keeps a coded stream codes
it (R203). The pallet that holds a copy is named by no rule: a free value. -/
def storeUnit (s : State) (rid version stripe shard : Nat) (unit : List Byte) : State :=
  let x := match s.shard? rid with
    | some k => (k, s)
    | none =>
      let p := s.fresh 4
      (CopyShard.new shard p.1, p.2)
  let k := if x.1.nextVersion = version && x.1.nextShard = shard then x.1
    else { x.1 with nextVersion := version, nextShard := shard, nextUnits := [] }
  let k := { k with nextUnits := NMap.del k.nextUnits stripe }
  let c := if k.tables.isSome && k.follows version shard then encodeAll x.2 k.pallet k.codes [unit] else ([rawBlock unit], x.2)
  let b := c.1.headD (rawBlock unit)
  c.2.setShard rid { k with
    nextUnits := NMap.ins k.nextUnits stripe { off := freeOffset k.used b.bytes.length, block := b } }

/-- A ZERO block's OFFSET is that of the block that follows it (R197). -/
def placeZeros (m : NMap Stored) : NMap Stored :=
  (m.foldr (fun e (acc : NMap Stored × Nat) =>
    let o := if e.2.block.typ = .zero then acc.2 else e.2.off
    ((e.1, { e.2 with off := o }) :: acc.1, o))
    ([], (m.map (fun e => e.2.off + e.2.block.bytes.length)).foldl max 0)).1

/-- Blocks laid one after another in the data area. -/
def layOut (keys : List Nat) (cs : List Coded) : NMap Stored :=
  (keys.zip (cs.zip (blockOffsets cs))).map (fun e => (e.1, { off := e.2.2, block := e.2.1 }))

/-- Switches to a version (R152): its blocks replace those they were written for, which are freed. Tables are built from the first
version a member commits, and anew from a complete shard (R203). -/
def commitShard (s : State) (rid version cstep stripes : Nat) : State := match s.shard? rid with
  | none => s
  | some k =>
    if k.nextVersion ≠ version then s
    else
      let whole := (List.range stripes).all (fun i => (NMap.get? k.nextUnits i).isSome)
      let blocks := (k.nextUnits.foldl (fun m e => NMap.ins m e.1 e.2) k.units).filter (fun e => e.1 < stripes)
      let k' := { k with
        shard := k.nextShard, version := version, cstep := cstep, stripes := stripes, units := placeZeros blocks, nextUnits := [] }
      if k.version ≠ 0 && !(whole && !k.follows version k.nextShard) then s.setShard rid k'
      else
        let us := blocks.map (fun e => decodedUnit k.codes e.2.block)
        if s.obj Obj.CMP_STORE_MODE 0 = 0 then
          s.setShard rid { k' with units := layOut (blocks.map (·.1)) (us.map rawBlock), tables := none }
        else
          let t := buildTables (s.obj Obj.CMP_SAMPLE_STRIDE 0) us
          let c := encodeAll s k.pallet t us
          c.2.setShard rid { k' with units := layOut (blocks.map (·.1)) c.1, tables := some (t, s.now) }

/-! ## The register at a commit (R134, R152, R154) -/

/-- A unit of the version that is being written. -/
def CopyShard.nextUnit? (k : CopyShard) (i : Nat) : Option (List Byte) := match NMap.get? k.nextUnits i with
  | some b => some (decodedUnit k.codes b.block)
  | none => if k.nextShard = k.shard then (NMap.get? k.units i).map (fun b => decodedUnit k.codes b.block) else none

/-- COPY_GROUP in the image's header, which unit 0 of shard 0 holds (R130, R139, R149). -/
def CopyShard.group? (k : CopyShard) : Option (List Nat) :=
  if k.nextShard ≠ 0 then none
  else (k.nextUnit? 0).map (fun u => (List.range 6).map (fun i => ofBytes ((u.drop (0x40 + 2 * i)).take 2)))

/-- The register as the COPY_COMMIT of a version leaves it, where it changes: the member that holds shard 0 is the primary, takes
the version, and learns its backup from the image's header; a primary that holds another shard has been exchanged (log entries
100 and 124). -/
def committedHome (s : State) (h : HoHdr) (version cstep : Nat) : Option HomeReg := match s.shard? h.rid with
  | none => none
  | some k =>
    if k.nextVersion ≠ version then none
    else match k.group?, s.home? h.rid with
      | some g, some reg => some { reg with primary := true, backup := g.getD 1 0xFFFF, copyVer := version, cstep := cstep }
      | some g, none => some
          { handle := h.srcHandle, homeMod := h.srcMod, homeSeq := h.homeSeq, copyVer := version, cstep := cstep, tHome := s.now,
            primary := true, backup := g.getD 1 0xFFFF, peer := s.moduleNum, waiting := [] }
      | none, some reg => if reg.primary then some { reg with primary := false, backup := 0xFFFF, peer := 0xFFFF } else none
      | none, none => none

/-- A COPY_COMMIT whose blocks are flushed: the member switches, and the primary's register takes the version. Its
acknowledgement waits for the backup's (R134). -/
def commitCopy (s : State) (ack : Option (Nat × Pkt)) (h : HoHdr) (version cstep stripes : Nat) : State :=
  let reg := committedHome s h version cstep
  let s := commitShard s h.rid version cstep stripes
  match reg with
  | none => ack.toList.foldl answerHeld s
  | some reg =>
    if reg.alone s then ack.toList.foldl answerHeld (s.setHome h.rid reg)
    else sendMirror (s.setHome h.rid { reg with waiting := reg.waiting ++ ack.toList }) h.rid

/-- A COPY_COMMIT waits for a flush of what the member has stored (R175). -/
def flushCommit (s : State) (ack : Option (Nat × Pkt)) (h : HoHdr) (version cstep stripes : Nat) : State :=
  let p := match s.shard? h.rid with
    | some k => k.pallet
    | none => 0
  addFlush s { what := .commit ack h version cstep stripes, pallet := p, va := 0, len := 0 }

/-! ## Refresh at the home (R150 to R153) -/

/-- Positions of a group whose member is alive. -/
def liveMembers (s : State) (g : List Nat) : List Nat := (List.range 6).filter (fun i => !s.dead (g.getD i 0xFFFF))

/-- Positions of a request's group that its refresh writes: alive, and with a stream that is not damaged as a whole (R201). -/
def copyMembers (s : State) (slot : Nat) (r : Request) : List Nat :=
  (liveMembers s r.copyGroup).filter (fun i => !(s.reqLocal slot).deadMembers.contains i)

/-- Sends one unit to a member, or stores it here. It is coded on the wire where CMP_WIRE_MODE is 1, with tables built from the
units of the refresh, and sent uncoded once the member has found it damaged (R188, R201; log entry 126). -/
def writeUnit (s : State) (slot : Nat) (r : Request) (f : Refresh) (i k : Nat) : State :=
  let dst := r.copyGroup.getD i 0xFFFF
  let u := shardUnit f.units k i
  let s := s.bumpBy Obj.RQS_COPY_BYTES 0 unitSize
  let body :=
    if s.wireCodes && !f.again.contains (i, k) then
      let c := encodeAll s r.pallet (buildTables f.stride f.units) [u]
      (c.1.flatMap (fun c => entryBytes k c ++ c.bytes), c.2)
    else (u, s)
  if dst = s.moduleNum then storeUnit s r.rid f.version k i u
  else sendState body.2 (.copyWrite slot i k) dst r.keyslot (copyWriteBytes s r dst f.version k i body.1)

/-- A block of a parked request's stream is damaged. -/
def parkDamaged (s : State) (r : Request) : Bool := match parkStream s r with
  | .good t n _ => (List.range n).any (fun i => match decodeUnit t (parkBlock s r t.length n i) with
      | .ok _ => false
      | .damaged _ => true)
  | _ => true

/-- COPY_REFRESH: a refresh that is due starts once its predecessor has committed; every changed stripe goes to the live
members, and every stripe to a member that has changed. A parked request with a damaged block has no image to copy: the damage is
handled as an uncorrectable word of its state (R201). -/
def copyRefresh (slot : Nat) (s : State) : State := match s.request? slot with
  | none => s
  | some r =>
    let l := s.reqLocal slot
    if !l.refreshDue || l.refresh.isSome || r.life = .movingIn then s
    else if l.parked && parkDamaged s r then requestWord s slot 6
    else
      let us := imageUnits s slot
      let n := stripeCount us
      let changed := (List.range n).filter (stripeChanged l.committed us)
      let live := copyMembers s slot r
      let jobs := live.flatMap (fun i => (if l.wholeShards.contains i then List.range n else changed).map (fun k => (i, k)))
      let remote := jobs.filter (fun j => r.copyGroup.getD j.1 0xFFFF ≠ s.moduleNum)
      let f : Refresh :=
        { version := r.copyVer + 1, cstep := r.nextStep, stripes := n, unacked := remote, again := [], units := us,
          stride := s.obj Obj.CMP_SAMPLE_STRIDE 0 }
      let s := if live.length < 6 then s.bump Obj.RQS_COPY_DEGRADED 0 else s
      let s := s.setLocal slot { l with
        refresh := some f, refreshDue := false, wholeShards := l.wholeShards.filter (fun i => !live.contains i) }
      jobs.foldl (fun s j => writeUnit s slot r f j.1 j.2) s

def execCopyRefresh (slot t : Nat) (s : State) : Outcome := .next (copyRefresh slot (s.at t))

/-- A member's stored stream is damaged as a whole: its position counts as dead for the copy (R201), and the refresh as degraded
where it was complete (R153). -/
def memberLost (s : State) (slot : Nat) (r : Request) (i : Nat) : State :=
  let s := if (copyMembers s slot r).length = 6 then s.bump Obj.RQS_COPY_DEGRADED 0 else s
  s.onLocal slot (fun l => { l with deadMembers := l.deadMembers ++ [i] })

/-- The end of a COPY_WRITE (R151, R201): acknowledged, or sent again, uncoded where the member found it damaged; a dead member's
is dropped. A member that refuses the uncoded unit too has lost its stream (log entry 126). -/
def copyWriteFin (slot i k : Nat) (res : Option Status) (s : State) : State :=
  let drop := fun (s : State) => s.onLocal slot (fun l => { l with
    refresh := l.refresh.map (fun f => { f with unacked := f.unacked.erase (i, k) }) })
  match res, s.request? slot, (s.reqLocal slot).refresh with
  | none, _, _ => drop s
  | some st, some r, some f =>
    if s.dead (r.copyGroup.getD i 0xFFFF) || !f.unacked.contains (i, k) then drop s
    else if st = .uncorrectable && f.again.contains (i, k) then drop (memberLost s slot r i)
    else
      let f := if st = .uncorrectable then { f with again := f.again ++ [(i, k)] } else f
      writeUnit (s.onLocal slot (fun l => { l with refresh := some f })) slot r f i k
  | _, _, _ => s

/-- COPY_COMMIT_SEND: every live member has acknowledged every write of the version. The frames of pages freed meanwhile are
freed (R151). -/
def copyCommitSend (slot : Nat) (s : State) : State := match s.request? slot, (s.reqLocal slot).refresh with
  | some r, some f =>
    let live := copyMembers s slot r
    if f.unacked.any (fun u => live.contains u.1) then s
    else
      let r := { r with copyVer := f.version, cstep := f.cstep }
      let s := s.setRequest slot r
      let s := freeKept (s.onLocal slot (fun l => { l with refresh := none, committed := f.units })) slot
      live.foldl (fun s i =>
        let dst := r.copyGroup.getD i 0xFFFF
        if dst = s.moduleNum then
          let h : HoHdr :=
            { typ := 6, status := .ok, xid := s.req.xidNext, rid := r.rid, srcHandle := r.handle, dstHandle := 0, srcMod := dst,
              dstMod := dst, homeSeq := r.homeSeq }
          flushCommit s none h f.version f.cstep f.stripes
        else sendState s (.handover 6 r.rid) dst r.keyslot (copyCommitBytes s r dst f)) s
  | _, _ => s

def execCopyCommitSend (slot t : Nat) (s : State) : Outcome := .next (copyCommitSend slot (s.at t))

/-! ## Copy messages at a member -/

/-- Length of a COPY_WRITE, which AUX of its first packet gives; an uncoded one has 9,280 bytes. -/
def copyWriteLen (p : Pkt) : Nat := if 64 < p.aux then p.aux else 64 + unitSize

/-- COPY_WRITE: a unit that is damaged is refused with UNCORRECTABLE (R201), each of its packets in turn. Its one decode is counted
once; which of the two checks of a coded unit failed is a free value. -/
def copyWrite (port : Nat) (p : Pkt) (h : HoHdr) (version stripe shard : Nat) (unit : List Byte) (unitOk : Bool) (s : State) :
    State :=
  let coded := copyWriteLen p ≠ 64 + unitSize
  let failures := fun (s : State) => s.obj Obj.CMP_CODE_ERR 0 + s.obj Obj.CMP_LEN_ERR 0
  let before := failures s
  gateMsg s port 0x18 (copyWriteLen p) p (hoCheck h (fun s =>
    if unitOk then (.accept, s)
    else if coded && failures s = before then
      let f := s.fresh 1
      (.refuse .uncorrectable, countCheck f.2 (if f.1 = 0 then .code else .len))
    else (.refuse .uncorrectable, s))) (fun s =>
    if staleHo s h then s.bump Obj.RQS_STALE_DROPPED 0 else storeUnit s h.rid version stripe shard unit)

def execCopyWrite (port : PortNo) (pkt : Pkt) (h : HoHdr) (version stripe : Nat) (shard : Fin 6) (unit : List Byte)
    (unitOk : Bool) (t : Nat) (s : State) : Outcome :=
  .next (copyWrite port pkt h version stripe shard unit unitOk (s.at t))

/-- COPY_COMMIT: its acknowledgement waits for the flush, and at the primary for the backup's. -/
def copyCommit (port : Nat) (p : Pkt) (h : HoHdr) (version cstep stripes : Nat) (s : State) : State :=
  gateMsg s port 0x18 44 p (hoCheck h (fun s => (.acceptHeld, s))) (fun s =>
    if staleHo s h then s.bump Obj.RQS_STALE_DROPPED 0 else flushCommit s (some (port, p)) h version cstep stripes)

def execCopyCommit (port : PortNo) (pkt : Pkt) (h : HoHdr) (version cstep stripes t : Nat) (s : State) : Outcome :=
  .next (copyCommit port pkt h version cstep stripes (s.at t))

/-! ## Rebuild (R156) -/

/-- RQS_REBUILD: refused at once by role, by a resident RID or for want of a slot; otherwise a slot is issued and the shards
are read. A rebuild has no source: its PLACED carries SRC_MOD 0xFFFF and SRC_HANDLE 0 (log entry 125). -/
def rqsRebuild (via : Via) (rid : Nat) (members : List Nat) (p : Nat) (s : State) : State :=
  s.objWrite via (s.isPriv via) (fun s =>
    if !s.takesMoves then (s, .admitDenied, [])
    else if (s.byRid rid).isSome || s.req.into.any (fun m => m.rid == rid) then (s, .accessDenied, [])
    else match pickSlot s with
      | none => (s, .admitDenied, [])
      | some k =>
        let x := issueSlot s k
        let h : HoHdr :=
          { typ := 3, status := .ok, xid := s.req.xidNext, rid := rid, srcHandle := 0, dstHandle := 0, srcMod := 0xFFFF,
            dstMod := s.moduleNum, homeSeq := 0 }
        let m := { MoveIn.begin .rebuild h x.1 k p (.object via Obj.RQS_REBUILD 0) with copyGroup := members }
        (addMoveIn x.2 m, .ok, []))

def execRqsRebuild (via : Via) (rid : Nat) (members : List Nat) (p : PalletNo) (t : Nat) (s : State) : Outcome :=
  .next (rqsRebuild via rid members p (s.at t))

/-- Spill payloads that an image brings. -/
def imageSpill (img : Image) : Nat :=
  sumOf img.pages (fun q => q.spill.length) + sumOf img.inbox (fun x => sumOf x.pages (fun q => q.spill.length))

/-- REBUILD_READ_DONE: with fewer than four members, or a stripe with fewer than four good shards, the rebuild ends; otherwise
the image is judged (R306), installed and flushed, and PLACED carries the HOME_SEQ read from the register. The CSTEP of the version is the
NEXT_STEP captured in its header (R130), and NEXT_STEP starts from it (R157). -/
def rebuildReadDone (rid homeSeq copyVer goodMembers : Nat) (img : Option Image) (wire : WireRead) (s : State) : State :=
  match s.req.into.find? (fun m => m.rid == rid && m.kind == .rebuild && m.state == .pulling) with
  | none => s
  | some m =>
    let s := if wire.damaged.isEmpty && wire.stream.isEmpty then s else codecWork (countWire s wire) m.pallet
    if goodMembers < 4 then discardIn s m .targetDead
    else match img with
      | none => discardIn s m .uncorrectable
      | some img =>
        let hdr : ImageHdr :=
          { geom := img.geom, pfmt := img.pfmt, resPages := img.resPages, resSpill := img.resSpill, blocks := img.blocks }
        let k := img.keyslot.val
        match arrivalRefusal s m.pallet k img.ctxlen (imageSpill img) hdr true with
        | some st => discardIn (countRefusal s m.pallet st.2) m st.1
        | none =>
          let s := reserveArrival s m.slot m.handle rid k m.pallet homeSeq (imageSpill img) hdr
          match installImage s m.slot { img with copyVer := copyVer, copyGroup := m.copyGroup } none with
          | none => discardIn s m .admitDenied
          | some s =>
            let s := s.onRequest m.slot (fun r => { r with cstep := r.nextStep })
            let m' := { m with homeSeq := homeSeq }
            startFlush { s with req := { s.req with into := s.req.into.map (fun x => if x = m then m' else x) } } m'

def execRebuildReadDone (rid homeSeq copyVer goodMembers : Nat) (read : RebuildRead) (t : Nat) (s : State) : Outcome :=
  .next (rebuildReadDone rid homeSeq copyVer goodMembers read.img read.wire (s.at t))

/-! ## Regroup (R154) -/

/-- RQS_REGROUP: at once where no step names the request, otherwise at its boundary. -/
def rqsRegroup (via : Via) (rid : Nat) (members : List Nat) (s : State) : State :=
  s.objWrite via (s.isPriv via) (fun s => match s.byRid rid with
    | none => (s, .accessDenied, [])
    | some (slot, r) =>
      if !groupChangeOk r.copyGroup members then (s, .accessDenied, [])
      else
        let src : Source := .object via Obj.RQS_REGROUP 0
        let s := s.onLocal slot (fun l => { l with regroup := some (members, src) })
        (if s.inStep r.pallet slot then s else applyRegroup s slot, .ok, []))

def execRqsRegroup (via : Via) (rid : Nat) (members : List Nat) (s : State) : Outcome :=
  .next (rqsRegroup via rid members s)

/-! ## Flushes (R175) -/

/-- FLUSH_COMPLETE: a flush that is complete lets go on what waited for it. -/
def flushComplete (id : Nat) (s : State) : State := match NMap.get? s.mem.flushes id with
  | none => s
  | some f =>
    if !flushReady s f then s
    else
      let s := { s with mem := { s.mem with flushes := NMap.del s.mem.flushes id } }
      match f.what with
      | .command src tag => complete s src 0x07 .ok tag
      | .moveIn => moveFlushed s id
      | .commit ack h version cstep stripes => commitCopy s ack h version cstep stripes
      | .flushAck port pkt => sendFlushAck s port pkt (flushStatus s f)
      | .putArrive k tag => s.emit (.arrive k 1 tag)

def execFlushComplete (id t : Nat) (s : State) : Outcome := .next (flushComplete id (s.at t))

end Sys2Proof.Machine
end

