-- ==== Sys2Proof/Machine/Admit.lean ====
section
/-! DEFINITION. The request commands of a CMD ring (R118, R301, R302, R307, R308, R316): admission, sampler blocks, reserve,
release and cancel. -/

namespace Sys2Proof.Machine

/-! ## Sampler blocks (R117, R118) -/

/-- An FP32 pattern is a finite number. -/
def f32finite (b : Nat) : Bool := b / 2 ^ 23 % 256 ≠ 255

/-- Finite and above zero. -/
def f32pos (b : Nat) : Bool := f32finite b && f32lt 0 b

/-- The ranges of R117 for the block of an active stream. -/
def blockInRange (b : Block) : Bool :=
  b.window ≤ 4096 && 2 ≤ b.vocab && b.vocab ≤ 262144 && b.topk ≤ b.vocab && (!b.sampled || f32pos b.temp.toNat)
    && f32pos b.topp.toNat && f32le b.topp.toNat f32one
    && f32finite b.minp.toNat && f32le 0 b.minp.toNat && f32lt b.minp.toNat f32one
    && f32pos b.rep.toNat && f32finite b.freq.toNat && f32finite b.pres.toNat

/-- The blocks of a request agree with R117 and R118. -/
def blocksOk (nstream : Nat) (bs : List Block) : Bool :=
  let live := bs.take nstream
  live.all (fun b => b.active && blockInRange b) && (bs.drop nstream).all (fun b => !b.active)
    && live.all (fun b => b.sampled == ((live.head?.map (·.sampled)).getD false))

/-- The block of a stream that has none (R117). -/
def blockReset : Block :=
  { active := false, sampled := false, window := 0, vocab := 0, temp := 0, topk := 0, topp := 0x3F800000, minp := 0,
    rep := 0x3F800000, freq := 0, pres := 0, seed := 0, stop := 0xFFFFFFFF }

/-- Sixteen blocks from those of the active streams. -/
def sixteen (bs : List Block) : List Block := bs.take 16 ++ List.replicate (16 - bs.length) blockReset

/-! ## Admission (R301, R302) -/

/-- Check 1 of R302. -/
def admitForm (s : State) (b : AdmitBody) : Bool :=
  b.pfmt ≤ 3 && 1 ≤ b.nstream && b.nstream ≤ 16 && 1 ≤ b.nlayer && b.nlayer ≤ 128 && 1 ≤ b.nkv && b.nkv ≤ 16
    && b.hdimc ≤ 3 && b.dlayer ≤ 127 && b.dnkv ≤ 16 && b.dhdimc ≤ 3 && 64 ≤ b.lmax && b.lmax ≤ 64 * s.pagesPerHead b.pallet
    && b.blocks.length = b.nstream

/-- The geometry of an ADMIT command. -/
def admitGeom (b : AdmitBody) : Geom :=
  { nlayer := b.nlayer, nkv := b.nkv, hdimc := b.hdimc, dlayer := b.dlayer, dnkv := b.dnkv, dhdimc := b.dhdimc }

/-- The pallet holds a DECODE or PREFILL image of a geometry. -/
def imageSuits (s : State) (p : Nat) (g : Geom) : Bool := match (s.pallet p).loaded with
  | some l => (l.manifest.kind = 1 || l.manifest.kind = 2) && l.manifest.geom = g
  | none => false

/-- The first check of R302 that fails, with the counter that counts it. -/
def admitRefusal (s : State) (issuer : Nat) (b : AdmitBody) : Option (Status × Option Nat) :=
  let p := b.pallet.val
  let g := admitGeom b
  let k := b.keyslot.val
  if !admitForm s b then some (.transportError, none)
  else if !(s.role = 1 || s.role = 2 || s.role = 4) then some (.admitDenied, none)
  else if !s.ownsPallet issuer p || !(s.pallet p).live || !imageSuits s p g || !s.slotServes k p then some (.accessDenied, none)
  else if s.slotRetired k then some (.keyRetired, none)
  else if (s.byRid b.rid).isSome || !blocksOk b.nstream b.blocks then some (.accessDenied, none)
  else if (pickSlot s).isNone || !spanHolds s p g || (pickSpan s p).isNone then some (.admitDenied, some Obj.SCH_DENIED_MEM)
  else
    (judgeReservation s p (reservation s p g b.lmax b.blocks).1 (loadFigures s p b.pfmt g b.lmax) none).map
      (fun e => (e.1, some e.2))

/-- RQS_COPY_GROUP of a pallet. -/
def State.copyGroupOf (s : State) (p : Nat) : List Nat := (List.range 6).map (fun i => s.objField Obj.RQS_COPY_GROUP p (2 * i) 2)

/-- The request that an ADMIT command makes. -/
def admitted (s : State) (handle : Nat) (b : AdmitBody) : Request :=
  let p := b.pallet.val
  let v := reservation s p (admitGeom b) b.lmax b.blocks
  { handle := handle, life := .resident, pallet := p, keyslot := b.keyslot, nstream := b.nstream, pfmt := b.pfmt,
    pendValid := false, geom := admitGeom b, ctxlen := 0, nextStep := 0, cstep := 0xFFFFFFFF, copyVer := 0, homeSeq := 0,
    rid := b.rid, vbase := (pickSpan s p).getD 0, resPages := v.2.1, resSpill := v.2.2, homeMod := s.moduleNum,
    admitHandle := handle, copyGroup := s.copyGroupOf p, tAdmit := s.now, tLast := 0, pending := [], blocks := sixteen b.blocks,
    counts := b.blocks.zipIdx.filterMap (fun e =>
      if 0 < e.1.window then some (e.2, CountTable.fresh e.1.window e.1.vocab) else none),
    inbox := [], inboxNext := 0 }

/-- Admits: the handle, the header, the blocks; a home register of this module names it from the start (log entry 40). -/
def admitRequest (s : State) (o k : Nat) (b : AdmitBody) : Nat × State :=
  let x := issueSlot s k
  let r := admitted x.2 x.1 b
  let s := x.2.setRequest k r
  let s := s.setLocal k { ReqLocal.zero with
    lmax := b.lmax, load := loadFigures s r.pallet r.pfmt r.geom b.lmax, owner := o }
  let s := mapRecords s k
  let me := s.moduleNum
  let h : HomeReg :=
    { handle := x.1, homeMod := me, homeSeq := 0, copyVer := 0, cstep := 0xFFFFFFFF, tHome := s.now,
      primary := r.copyGroup.getD 0 0 == me, backup := r.copyGroup.getD 1 0, peer := r.copyGroup.getD 0 0, waiting := [] }
  let s := if r.copyGroup.getD 0 0 = me || r.copyGroup.getD 1 0 = me then s.setHome r.rid h else s
  (x.1, if h.primary then sendMirror s r.rid else s)

/-- ADMIT. -/
def admitEntry (o r tag : Nat) (b : AdmitBody) (s : State) : State :=
  onEntry s o r (fun s =>
    let src : Source := .ring o r tag
    match admitRefusal s o b, pickSlot s with
    | none, some k =>
      let x := admitRequest s o k b
      complete (x.2.bump Obj.SCH_ADMITTED b.pallet) src 0x01 .ok x.1
    | some st, _ => complete (countRefusal s b.pallet st.2) src 0x01 st.1 0
    | none, none => complete (s.bump Obj.SCH_DENIED_MEM b.pallet) src 0x01 .admitDenied 0)

def execAdmitCmd (o : OwnerNo) (r : RingNo) (tag : Nat) (body : AdmitBody) (t : Nat) (s : State) : Outcome :=
  .next (admitEntry o r tag body (s.at t))

/-! ## Commands on a resident request -/

/-- The resident request that a command names, where its issuer owns the pallet. -/
def State.owned (s : State) (issuer handle : Nat) : Option (Nat × Request) := match s.byHandle handle with
  | some (slot, r) => if s.ownsPallet issuer r.pallet then some (slot, r) else none
  | none => none

/-- Streams of a mask, ascending. -/
def maskStreams (mask : Nat) : List Nat := (List.range 16).filter (bitOf mask)

/-- Blocks with an update applied. -/
def applyBlocks (mask : Nat) (new old : List Block) : List Block :=
  (maskStreams mask).zipIdx.foldl (fun l e => match new[e.2]? with
    | some b => List.set l e.1 b
    | none => l) old

/-- The blocks that the request's next step will use. -/
def nextBlocks (s : State) (slot : Nat) (r : Request) : List Block := match (s.reqLocal slot).update with
  | some u => applyBlocks u.1 u.2 r.blocks
  | none => r.blocks

/-- REQ_UPDATE (R118). -/
def reqUpdate (o r tag handle mask : Nat) (blocks : List Block) (s : State) : State :=
  onEntry s o r (fun s =>
    let src : Source := .ring o r tag
    if blocks.length ≠ (maskStreams mask).length then complete s src 0x02 .transportError 0
    else match s.owned o handle with
      | none => complete s src 0x02 .accessDenied 0
      | some (slot, q) =>
        let old := nextBlocks s slot q
        let new := applyBlocks mask blocks old
        let kept := (old.zip new).all (fun e =>
          e.1.active == e.2.active && (!e.1.active || (e.1.window = e.2.window && e.1.vocab = e.2.vocab)))
        if kept && blocksOk q.nstream new then
          complete (s.onLocal slot (fun l => { l with update := some (0xFFFF, new) })) src 0x02 .ok 0
        else complete (s.bump Obj.SMP_BLOCK_REFUSED q.pallet) src 0x02 .accessDenied 0)

def execReqUpdate (o : OwnerNo) (r : RingNo) (tag handle mask : Nat) (blocks : List Block) (t : Nat) (s : State) : Outcome :=
  .next (reqUpdate o r tag handle mask blocks (s.at t))

/-- The answer to a reserve command (R307). -/
def reserveRefusal (s : State) (issuer handle lmax : Nat) : Option Status := match s.owned issuer handle with
  | none => some .accessDenied
  | some (slot, r) =>
    if lmax < 64 || 64 * s.pagesPerHead r.pallet < lmax then some .transportError
    else if lmax < r.ctxlen + 64 then some .accessDenied
    else (judgeReservation s r.pallet (reservation s r.pallet r.geom lmax r.blocks).1
      (loadFigures s r.pallet r.pfmt r.geom lmax) (some slot)).map (·.1)

/-- RESERVE: at the pallet's next boundary, or at once while it is not RUNNING. -/
def reserve (o r tag handle lmax : Nat) (s : State) : State :=
  onEntry s o r (fun s =>
    let src : Source := .ring o r tag
    match reserveRefusal s o handle lmax with
    | some st => complete s src 0x03 st 0
    | none =>
      let slot := slotOf handle
      let s := s.onLocal slot (fun l => { l with reserve := some lmax })
      let busy := match s.request? slot with
        | some q => (s.pallet q.pallet).run.isSome
        | none => false
      complete (if busy then s else applyReserve s slot) src 0x03 .ok 0)

def execReserve (o : OwnerNo) (r : RingNo) (tag handle lmax t : Nat) (s : State) : Outcome :=
  .next (reserve o r tag handle lmax (s.at t))

/-- RELEASE (R308). -/
def release (o r tag handle : Nat) (s : State) : State :=
  onEntry s o r (fun s =>
    let src : Source := .ring o r tag
    match s.owned o handle with
    | none => complete s src 0x04 .accessDenied 0
    | some (slot, q) =>
      if q.life ≠ .resident || (s.reqLocal slot).release.isSome then complete s src 0x04 .accessDenied 0
      else s.onLocal slot (fun l => { l with release := some src }))

def execRelease (o : OwnerNo) (r : RingNo) (tag handle t : Nat) (s : State) : Outcome :=
  .next (release o r tag handle (s.at t))

/-- RELEASE_FREE: no step names the released request. A move that still waited for its boundary ends with ACCESS_DENIED. -/
def releaseFree (slot : Nat) (s : State) : State := match s.request? slot, (s.reqLocal slot).release with
  | some r, some src =>
    if s.inStep r.pallet slot then s
    else
      let s := match moveOf s slot with
        | some (_, m) => complete (dropMove s r.rid) m.source 0x06 .accessDenied 0
        | none => s
      let s := (s.req.into.filter (fun m => m.slot == slot)).foldl (fun s m => discardIn s m .accessDenied) s
      complete (freeRequest s slot) src 0x04 .ok 0
  | _, _ => s

def execReleaseFree (slot t : Nat) (s : State) : Outcome := .next (releaseFree slot (s.at t))

/-- J of a running entry is not past (R315, R316). -/
def beforeJ (s : State) (run : StepRun) (e : EntryRun) : Bool :=
  if e.tDone ≠ 0 then s.now ≤ e.tDone
  else match run.doneAt with
    | some d => s.now ≤ d
    | none => true

/-- CANCEL (R316). -/
def cancel (o r tag handle step : Nat) (s : State) : State :=
  onEntry s o r (fun s =>
    let src : Source := .ring o r tag
    match s.owned o handle with
    | none => complete s src 0x05 .accessDenied 0
    | some (slot, q) =>
      if step < q.nextStep then complete s src 0x05 .accessDenied 0
      else match s.entryOf q.pallet slot, (s.pallet q.pallet).run with
        | some (i, e), some run =>
          if e.nostep || e.d.step ≠ step then
            complete (s.onLocal slot (fun l => { l with cancel := some step })) src 0x05 .ok 0
          else if beforeJ s run e then
            complete (s.onEntryRun q.pallet i (fun e => { e with statuses := e.statuses ++ [.cancelledDropped] })) src 0x05 .ok 0
          else complete s src 0x05 .accessDenied 0
        | _, _ => complete (s.onLocal slot (fun l => { l with cancel := some step })) src 0x05 .ok 0)

def execCancel (o : OwnerNo) (r : RingNo) (tag handle step t : Nat) (s : State) : Outcome :=
  .next (cancel o r tag handle step (s.at t))

end Sys2Proof.Machine
end

