-- ==== Sys2Proof/Machine/Boot.lean ====
section
/-! DEFINITION. Power, start-up and reset (R447 to R463), the Kiln's boot chain (R339 to R343), island settings and their checks
(R33 to R37), the governor (R450 to R454), thermal limits (R456, R457) and the reference clock (R459). -/

namespace Sys2Proof.Machine

/-! ## Resets (R462) -/

/-- What has left the module once a reset has begun: the FL_ lands are driven no more (R480). -/
def State.undriven (s : State) : List Out := if s.boot.flDriven then .flDrive false :: s.out else s.out

/-- Nothing survives a reset but the block's clock, its queue, what has left it, and the level of its pins. -/
def State.restart (s : State) (stage : BootStage) : State :=
  { State.reset with
    pending := s.pending, now := s.now, free := s.free, ids := s.ids, out := s.undriven,
    boot := { State.reset.boot with stage := stage, modPwrgd := stage == .railsUp, perstAt := s.boot.perstAt } }

/-- Management-domain rails are in regulation: the device answers RESET_N. -/
def BootStage.powered : BootStage → Bool
  | .cut | .charging | .converting => false
  | _ => true

/-- The runtime firmware runs: the governor decides and islands are sampled. -/
def BootStage.operating : BootStage → Bool
  | .fwRunning | .running => true
  | _ => false

def State.setStage (s : State) (b : BootStage) : State := { s with boot := { s.boot with stage := b } }

/-- POWER_ON: the input rises through 40 V. From the absence of power the start-up begins; after a brown-out or an over-voltage
the 100 ms within 40–60 V begin (R448). -/
def powerOn (mv : Nat) (s : State) : State :=
  if s.boot.stage = .cut && 40000 ≤ mv then
    match s.boot.tCut with
    | none => (s.restart .charging).setObj Obj.PWR_INPUT_MV 0 mv
    | some _ => ({ s with boot := { s.boot with tCut := some s.now } }).setObj Obj.PWR_INPUT_MV 0 mv
  else s

def execPowerOn (mv t : Nat) (s : State) : Outcome := .next (powerOn mv (s.at t))

/-- BULK_CHARGED: conversion starts. -/
def bulkCharged (s : State) : State := if s.boot.stage = .charging then s.setStage .converting else s

def execBulkCharged (t : Nat) (s : State) : Outcome := .next (bulkCharged (s.at t))

/-- MOD_PWRGD rises (R478). -/
def modPwrgd (s : State) : State :=
  if s.boot.stage = .converting then { s with boot := { s.boot with stage := .railsUp, modPwrgd := true } } else s

def execModPwrgd (t : Nat) (s : State) : Outcome := .next (modPwrgd (s.at t))

/-- Every rail is switched off (R447): a loss of power. -/
def railsOff (s : State) : State :=
  let s' := s.restart .cut
  { s' with boot := { s'.boot with tCut := some s.now } }

def execBrownOut (t : Nat) (s : State) : Outcome := .next (railsOff (s.at t))

def execOverVoltage (t : Nat) (s : State) : Outcome := .next (railsOff (s.at t))

/-- POWER_RESTART: 100 ms within 40–60 V after a brown-out or an over-voltage (R448). -/
def powerRestart (s : State) : State := match s.boot.stage, s.boot.tCut with
  | .cut, some c => if c + 100000000 ≤ s.now then s.restart .charging else s
  | _, _ => s

def execPowerRestart (t : Nat) (s : State) : Outcome := .next (powerRestart (s.at t))

/-- INPUT_EXCURSION (R447): raised and counted at entry to the range below 40 V, and to the range above 60 V. -/
def inputExcursion (mv : Nat) (s : State) : State :=
  let out := (36000 ≤ mv && mv < 40000) || (60000 < mv && mv ≤ 65000)
  if !s.boot.stage.powered || !out then s
  else
    let stays := s.boot.excursion && decide (s.obj Obj.PWR_INPUT_MV 0 < 40000) == decide (mv < 40000)
    let s := s.setObj Obj.PWR_INPUT_MV 0 mv
    if stays then s
    else
      (({ s with boot := { s.boot with excursion := true } }).bump Obj.PWR_INPUT_EVENTS 0).raise 0x70 [(mv, 4)]

def execInputExcursion (mv t : Nat) (s : State) : Outcome := .next (inputExcursion mv (s.at t))

/-- An ignored RESET_N pulse: the FL_ lands are undriven while it lasts (R480). -/
def State.blink (s : State) : State :=
  if s.boot.flDriven then { s with out := .flDrive true :: s.undriven } else s

/-- A RESET_N pulse (R462, R479): 10 µs or longer resets. One whose length lies in the uncertain band, 6.4 ns or without
SYS_REFCLK 500 ns wide on each side, is taken either way. -/
def resetPulse (lowNs : Nat) (s : State) : State :=
  let band := if s.boot.stage = .refLost then 500 else 6
  if !s.boot.stage.powered then s
  else if lowNs + band < 10000 then s.blink
  else if 10000 + band < lowNs then s.restart .railsUp
  else
    let r := s.fresh 1
    if r.1 = 1 then r.2.restart .railsUp else r.2.blink

def execResetN (lowNs t : Nat) (s : State) : Outcome := .next (resetPulse lowNs (s.at t))

/-! ## The boot chain (R339 to R343, R460, R463) -/

/-- Extends a measurement register (R340). -/
def extend (s : State) (i d : Nat) : State :=
  let m := s.kiln.meas.getD i 0
  { s with kiln := { s.kiln with meas := s.kiln.meas.set i (digest64 (toBytes 64 m ++ toBytes 64 d)) } }

/-- The Kiln accepts an image as one of a TYPE: 1 KILN_FW, 2 RUNTIME_FW, 3 CONFIG, 4 PALLET (R338). Only a PALLET may be
encrypted (R337), and its signer is judged against its tenant's policy. -/
def imageValid (typ : Nat) (c : ImageCheck) : Bool :=
  c.magic = 0x4A52494D && c.version = 1 && c.typ = typ && c.sigOk && c.digest = c.bodyDigest
    && (if typ ≤ 2 then c.signer = Config.firmwareKey else true) && (!c.enc || (typ = 4 && c.tagOk))

/-- The copy the Kiln uses of the two of a TYPE (R339). -/
def bestImage (typ : Nat) (a b : ImageCheck) : Option ImageCheck :=
  if imageValid typ a && (!imageValid typ b || b.svn ≤ a.svn) then some a else if imageValid typ b then some b else none

/-- The boot stops: only the identity area is served (R339). -/
def bootStop (s : State) : State := (s.setStage .kilnOnly).setObj Obj.BRK_BOOT_STATE 0 2

/-- A read of the flash, by the strap word's width and clock (R463, R481): 4-byte addresses, opcode 0x13, 0x3C or 0x6C, and 8
dummy cycles for dual and quad. -/
def State.flashRead (s : State) (addr len : Nat) : State :=
  let strap := s.obj Obj.BRK_STRAPS 0
  let w := strap % 4
  s.emit (.flashRead (if w = 0 then 0x13 else if w = 1 then 0x3C else 0x6C) (if w = 0 then 0 else 8)
    (if bitOf strap 2 then 50 else 25) addr len)

/-- Both copies of an image are read (R336, R339). -/
def State.readCopies (s : State) (a b len : Nat) : State := (s.flashRead a len).flashRead b len

/-- INTERNAL_RESET_RELEASE: the straps are latched, FL_CLK and FL_CS_N are driven (R480), and the mask ROM is measured; a
reserved FLASH_WIDTH stops the boot. -/
def resetRelease (strap : Nat) (s : State) : State :=
  if s.boot.stage ≠ .railsUp then s
  else
    let up := s.boot.mgmtUp.filter (fun p => p ≠ 1 || bitOf strap 3)
    let b := { s.boot with stage := .romRunning, tRelease := s.now, mgmtUp := up, flDriven := true }
    let s := (({ s with boot := b }).emit (.flDrive true)).setObj Obj.BRK_STRAPS 0 strap
    let s := extend s 0 Config.romDigest
    if strap % 4 = 3 then bootStop s else s

def execInternalResetRelease (strap : BitVec 8) (t : Nat) (s : State) : Outcome := .next (resetRelease strap.toNat (s.at t))

/-- PUF_IDENTITY (R341, R342): copy 0's identity, or copy 1's, or none. The helper data and the identity certificate are read
from the flash (R336). -/
def pufIdentity (copy0 copy1 : Option Nat) (serial : Nat) (s : State) : State :=
  if s.boot.stage ≠ .romRunning then s
  else
    let s := s.flashRead 0 0x8000
    let s := (if copy0.isNone then s.flashRead 0x8000 0x8000 else s).flashRead 0x10000 0x10000
    match copy0.or copy1 with
    | some d => { s with kiln := { s.kiln with deviceId := d, identity := true, serial := serial } }
    | none => { s with kiln := { s.kiln with deviceId := 0, identity := false, serial := 0 } }

def execPufIdentity (copy0 copy1 : Option Nat) (serial : Nat) (s : State) : Outcome :=
  .next (pufIdentity copy0 copy1 serial s)

/-- KILN_FW_VERIFIED: measured into M1; brick and HBM rails are switched on. -/
def kilnFwVerified (a b : ImageCheck) (s : State) : State :=
  if s.boot.stage ≠ .romRunning then s
  else
    let s := s.readCopies 0x20000 0x120000 0x100000
    match bestImage 1 a b with
    | none => bootStop s
    | some i =>
      let s := extend s 1 i.digest
      { s with kiln := { s.kiln with kilnSvn := i.svn, kilnImage := i.imageId }, boot := { s.boot with stage := .kilnUp } }

def execKilnFwVerified (a b : ImageCheck) (s : State) : Outcome := .next (kilnFwVerified a b s)

/-- CONFIG_VERIFIED: M2 takes BODY_DIGEST and then CFG_SIGNER, M3 the strap word. -/
def configVerified (a b : ImageCheck) (vf : List Nat) (s : State) : State :=
  if s.boot.stage ≠ .kilnUp then s
  else
    let s := s.readCopies 0x220000 0x260000 0x40000
    match bestImage 3 a b with
    | none => bootStop s
    | some i =>
      let s := extend (extend s 2 i.digest) 2 i.signer
      let s := extend s 3 (digest64 (toBytes 4 (s.obj Obj.BRK_STRAPS 0)))
      let s := { s with
        kiln := { s.kiln with cfgSvn := i.svn, cfgImage := i.imageId, cfgSigner := i.signer },
        boot := { s.boot with stage := .configUp } }
      s.setObj Obj.PWR_VF_TABLE 0 (ofBytes (padTo 85 (vf.map (BitVec.ofNat 8))))

def execConfigVerified (a b : ImageCheck) (vf : List Nat) (s : State) : Outcome := .next (configVerified a b vf s)

/-- The least VOLT code at a FREQ code (PWR_VF_TABLE). -/
def State.vfMin (s : State) (freq : Nat) : Nat := s.objField Obj.PWR_VF_TABLE 0 freq 1

/-- The Kiln draws a fresh XTS pair for slot 0 (R343): two values of its generator. -/
def drawSlot0 (s : State) : State :=
  let a := s.newId
  let b := a.2.newId
  b.2.onKslot 0 (fun v => { v with xts := Config.nonce a.1 % 2 ^ 256 + Config.nonce b.1 % 2 ^ 256 * 2 ^ 256 })

/-- HBM_TRAINED: the lines are written under the fresh slot-0 key, and every island starts at FREQ 0 and the least VOLT. -/
def hbmTrained (s : State) : State :=
  if s.boot.stage ≠ .configUp then s
  else
    let s := drawSlot0 s
    let v := s.vfMin 0 * 256
    (List.range 1200).foldl (fun s b => s.setObj Obj.PWR_ISLAND_SETTING b v) (s.setStage .hbmUp)

def execHbmTrained (t : Nat) (s : State) : Outcome := .next (hbmTrained (s.at t))

/-- A brick fails a test (R205, R411, R419): 1 march, 2 codec. -/
def markFailed (s : State) (b test : Nat) : State :=
  (s.setObj Obj.ERR_BRICK_FAILED 0 (setBit (s.obj Obj.ERR_BRICK_FAILED 0) b true)).raise 0x02 [(b, 2), (test, 1)]

/-- MARCH_TEST of a brick after island start (R419). -/
def marchTest (b : Nat) (ok : Bool) (s : State) : State :=
  if s.boot.stage ≠ .hbmUp || s.boot.marched.contains b then s
  else
    let s := { s with boot := { s.boot with marched := b :: s.boot.marched } }
    if ok then s else markFailed s b 1

def execMarchTest (b : BrickNo) (ok : Bool) (t : Nat) (s : State) : Outcome := .next (marchTest b ok (s.at t))

/-- CODEC_SELFTEST of a brick, after its march test (R205): the checks that its units failed are counted (R199, R200). -/
def codecSelftest (b : Nat) (failed : List CheckFail) (s : State) : State :=
  if s.boot.stage ≠ .hbmUp || !s.boot.marched.contains b || failed.isEmpty then s
  else markFailed ((failed.foldl countCheck s).bump Obj.CMP_SELFTEST_FAIL 0) b 2

def execCodecSelftest (b : BrickNo) (failed : List CheckFail) (t : Nat) (s : State) : Outcome :=
  .next (codecSelftest b failed (s.at t))

/-- RUNTIME_FW_RUNNING: measured into M4; the governor is active. -/
def runtimeFw (a b : ImageCheck) (s : State) : State :=
  if s.boot.stage ≠ .hbmUp then s
  else
    let s := s.readCopies 0x400000 0x2000000 0x1C00000
    match bestImage 2 a b with
    | none => bootStop s
    | some i =>
      let s := extend s 4 i.digest
      { s with kiln := { s.kiln with fwSvn := i.svn, fwImage := i.imageId }, boot := { s.boot with stage := .fwRunning } }

def execRuntimeFwRunning (a b : ImageCheck) (t : Nat) (s : State) : Outcome := .next (runtimeFw a b (s.at t))

/-- MAILBOXES_OPEN: RUNNING, or NO_IDENTITY under R342. -/
def mailboxesOpen (s : State) : State :=
  if s.boot.stage ≠ .fwRunning then s
  else (s.setStage .running).setObj Obj.BRK_BOOT_STATE 0 (if s.kiln.identity then 1 else 3)

def execMailboxesOpen (t : Nat) (s : State) : Outcome := .next (mailboxesOpen (s.at t))

/-! ## Island settings (R33 to R35) -/

def islandFreq (v : Nat) : Nat := bitsOf v 0 7
def islandVolt (v : Nat) : Nat := bitsOf v 8 8

def State.island (s : State) (b : Nat) : Nat := s.obj Obj.PWR_ISLAND_SETTING b

/-- An island's temperature in units of 0.5 °C. -/
def State.temp (s : State) (b : Nat) : Int := (BitVec.ofNat 16 (s.obj Obj.PWR_ISLAND_TEMP b)).toInt

/-- The voltages of an island that a check compares with: of its setting, and, while its rail slews, of the setting before, so
that whichever differs more decides (R33). -/
def State.islandVolts (s : State) (n : Nat) : List Nat :=
  islandVolt (s.island n) :: (match NMap.get? s.array.changing n with
    | some (old, till) => if s.now < till then [islandVolt old] else []
    | none => [])

/-- The check of R33. -/
def islandCheck (s : State) (b v : Nat) : Bool :=
  islandFreq v ≤ 84 && islandVolt v ≤ 70 && s.vfMin (islandFreq v) ≤ islandVolt v
    && (neighbours b).all (fun n => (s.islandVolts n).all (fun vn =>
      islandVolt v ≤ vn + 36 && vn ≤ islandVolt v + 36))

/-- An island takes a setting. Its rail slews at 5 mV/µs, so a step of one code takes 1 µs (R455; log entry 110). -/
def State.setIsland (s : State) (b v : Nat) : State :=
  let old := s.island b
  let d := (islandVolt v - islandVolt old) + (islandVolt old - islandVolt v)
  let s := s.setObj Obj.PWR_ISLAND_SETTING b v
  if d = 0 then s
  else { s with array := { s.array with changing := NMap.ins s.array.changing b (old, s.now + d * 1000) } }

/-- A raise of the island is refused: it is the hotter of two neighbours 27 °C or more apart (R36), or throttled (R456). -/
def raiseBarred (s : State) (b : Nat) : Bool :=
  s.array.throttled.contains b || (neighbours b).any (fun n => 54 ≤ s.temp b - s.temp n)

/-- A setting raises an island's frequency or voltage. -/
def isRaise (old v : Nat) : Bool := islandFreq old < islandFreq v || islandVolt old < islandVolt v

/-- A setting of an island is traced, and whether it was refused (R442). -/
def traceIsland (s : State) (b v : Nat) (refused : Bool) : State :=
  traceSample s 6 ((s.palletOf b).getD 16) (b + islandFreq v * 2 ^ 11 + islandVolt v * 2 ^ 18 + b2n refused * 2 ^ 26)

/-- Requests a setting: applied, or refused and counted (R34). -/
def islandRequest (s : State) (b v : Nat) : Bool × State :=
  if islandCheck s b v && !(isRaise (s.island b) v && raiseBarred s b) then
    (true, traceIsland (s.setIsland b v) b v false)
  else (false, traceIsland (s.bump Obj.PWR_ISLAND_REFUSED b) b v true)

/-- FREQ code of a frequency in MHz, rounded down. -/
def freqCode (mhz : Nat) : Nat := min 84 ((mhz - 600) / 25)

/-- The highest FREQ code the governor gives an island (R454). -/
def State.freqMax (s : State) (b : Nat) : Nat := match s.palletOf b with
  | some p => freqCode (s.obj Obj.PWR_PALLET_MAX_MHZ p)
  | none => 84

/-- PWR_ISLAND_SETTING (R34, R406): a request, kept within PWR_PALLET_MAX_MHZ. -/
def islandWrite (via : Via) (b v : Nat) (s : State) : State :=
  s.objWrite via (s.isPriv via) (fun s =>
    let f := islandFreq v
    let r := islandRequest s b ((if f ≤ 84 then min f (s.freqMax b) else f) + islandVolt v * 256)
    (r.2, if r.1 then .ok else .accessDenied, []))

def execPwrIslandSetting (via : Via) (b : BrickNo) (value : BitVec 16) (s : State) : Outcome :=
  .next (islandWrite via b value.toNat s)

/-- Lowers an island to a FREQ code: with the least voltage for it, or with its own where R33 would refuse that (R451). -/
def lowerIsland (s : State) (b f : Nat) : State :=
  let old := s.island b
  let v := f + s.vfMin f * 256
  let v := if s.vfMin f ≤ islandVolt old && islandCheck s b v then v else f + islandVolt old * 256
  traceIsland (s.setIsland b v) b v false

/-! ## Temperatures (R36, R37, R456, R457) -/

/-- Listed instances of an object. -/
def State.instancesOf (s : State) (oid : Nat) : List Nat :=
  (s.dict.vals.filter (fun e => e.1 / 2 ^ 32 == oid)).map (fun e => e.1 % 2 ^ 32)

/-- The islands whose temperature is listed, and those beside them. -/
def sampledIslands (s : State) : List Nat :=
  let l := s.instancesOf Obj.PWR_ISLAND_TEMP
  l.foldl (fun acc b => (neighbours b).foldl (fun acc n => if acc.contains n then acc else acc ++ [n]) acc) l

/-- The hottest island of a list. -/
def hottest (s : State) : List Nat → Nat
  | [] => 0
  | b :: bs => bs.foldl (fun a x => if s.temp a < s.temp x then x else a) b

/-- A loaded pallet. -/
def Pallet.isLoaded (q : Pallet) : Bool := q.state ≠ .empty

/-- Thermal trip (R457): clocks stop, loaded pallets halt with cause 5, brick and HBM rails are off, and the management
domain serves on. -/
def thermalTrip (s : State) (b : Nat) : State :=
  let s := { s with array := { s.array with stopped := List.range 1200 } }
  let s := (List.range 16).foldl (fun s p =>
    if (s.pallet p).isLoaded then palletFault s p 5 FaultAt.nowhere else s) s
  let s := s.raise 0x60 [(b, 2), (b, 2)]
  { s with
    boot := { s.boot with stage := .trip }, array := { s.array with bricks := [], counters := [], flying := [] },
    mem := { s.mem with hbm := [] } }

/-- Two neighbours 30 °C or more apart: both stop and their pallets fault (R37). -/
def stopPair (s : State) (b n : Nat) : State :=
  if s.array.stopped.contains b && s.array.stopped.contains n then s
  else
    let add := fun (l : List Nat) x => if l.contains x then l else x :: l
    let s := { s with array := { s.array with stopped := add (add s.array.stopped b) n } }
    let ps := ((s.palletOf b).toList ++ (s.palletOf n).toList).eraseDups
    let s := ps.foldl (fun s p => palletFault s p 5 FaultAt.nowhere) s
    (s.bump Obj.PWR_THERMAL_STOPS 0).raise 0x60 [(b, 2), (n, 2)]

/-- The neighbours an island is lowered for (R36): the difference to each has reached 26 °C and not fallen to 24 °C since. -/
def lowerFor (s : State) (b : Nat) : List Nat := (neighbours b).filter (fun n =>
  let d := s.temp b - s.temp n
  52 ≤ d || (s.array.lowering.contains (b, n) && 48 < d))

/-- One island after a sample: the neighbour rule of R36 and the throttle of R456. -/
def islandThermal (s : State) (b : Nat) : State :=
  let l := lowerFor s b
  let s := { s with array := { s.array with
    lowering := s.array.lowering.filter (fun x => x.1 ≠ b) ++ l.map (fun n => (b, n)) } }
  let s :=
    if !l.isEmpty && 0 < islandFreq (s.island b) then
      ((lowerIsland s b (islandFreq (s.island b) - 1)).bump Obj.PWR_LOWERINGS 0).bump Obj.PWR_THERMAL_LOWERINGS 0
    else s
  let lim : Int := 2 * s.obj Obj.PWR_TJ_THROTTLE_C 0
  let was := s.array.throttled.contains b
  let hot := lim ≤ s.temp b || (was && lim - 4 < s.temp b)
  let s := { s with array := { s.array with
    throttled := if hot then (if was then s.array.throttled else b :: s.array.throttled)
      else s.array.throttled.filter (fun x => x ≠ b) } }
  let s := if hot && !was then s.raise 0x61 [(b, 2), (s.obj Obj.PWR_ISLAND_TEMP b, 2)] else s
  if hot && 0 < islandFreq (s.island b) then
    (lowerIsland s b (islandFreq (s.island b) - 1)).bump Obj.PWR_THERMAL_LOWERINGS 0
  else s

/-- ISLAND_TEMP_SAMPLE: the temperatures sampled, of the islands where they changed. -/
def tempSample (temps : List (Nat × Int)) (s : State) : State :=
  if !s.boot.stage.operating then s
  else
    let s := temps.foldl (fun s x => s.setObj Obj.PWR_ISLAND_TEMP x.1 (BitVec.ofInt 16 x.2).toNat) s
    let l := sampledIslands s
    let top := hottest s l
    let s := s.setObj Obj.PWR_TJ_HOTTEST 0 (s.obj Obj.PWR_ISLAND_TEMP top)
    let warn : Int := 2 * s.obj Obj.PWR_TJ_WARN_C 0
    let s := { s with boot := { s.boot with
      thermAlert := warn ≤ s.temp top || (s.boot.thermAlert && warn - 10 < s.temp top) } }
    if 2 * (s.obj Obj.PWR_TJ_TRIP_C 0 : Int) ≤ s.temp top then thermalTrip s top
    else
      let s := l.foldl (fun s b => (neighbours b).foldl (fun s n =>
        if 60 ≤ s.temp b - s.temp n then stopPair s b n else s) s) s
      l.foldl islandThermal s

def execIslandTempSample (temps : List (BrickNo × Int)) (t : Nat) (s : State) : Outcome :=
  .next (tempSample (temps.map (fun x => (x.1.val, x.2))) (s.at t))

/-! ## The governor (R450 to R454) -/

/-- A pallet received a DECODE attention call in the last 100 µs, or drafts for one that did (R452). -/
def underDeadline (s : State) (p : Nat) : Bool :=
  let own := fun (q : Nat) => match (s.pallet q).lastDecode with
    | some t => s.now - t ≤ 100000
    | none => false
  own p || (List.range 16).any (fun q => q ≠ p && s.exists? q && own q && s.obj Obj.DRF_PALLET q == p)

/-- The attention floor of a pallet as a FREQ code (R453). -/
def floorCode (s : State) (p : Nat) : Nat :=
  freqCode (min (s.obj Obj.PWR_ATT_FLOOR_MHZ 0) (s.obj Obj.PWR_PALLET_MAX_MHZ p))

/-- An island that the governor moves, and the FREQ codes between which it moves it. -/
structure Movable where
  brick : Nat
  lo : Nat
  hi : Nat
  deriving DecidableEq, Repr

/-- A class of islands: its number and its islands. -/
structure IslandClass where
  id : Nat
  islands : List Movable
  deriving DecidableEq, Repr

/-- A class of the existing pallets of one priority that satisfy a test, each between bounds of its own. -/
def prioClass (s : State) (base prio : Nat) (c : Nat → Bool) (lo hi : Nat → Nat) : IslandClass :=
  { id := base + prio,
    islands := (List.range 16).flatMap (fun p =>
      if s.exists? p && s.obj Obj.PWR_PALLET_PRIO p == prio && c p then
        (s.rect p).bricks.map (fun b => { brick := b, lo := lo p, hi := hi p })
      else []) }

/-- The classes of R452 in lowering order. -/
def islandClasses (s : State) : List IslandClass :=
  let dl := underDeadline s
  let top := fun p => freqCode (s.obj Obj.PWR_PALLET_MAX_MHZ p)
  let out := (List.range 1200).filter (fun b => (s.palletOf b).isNone)
  { id := 0, islands := out.map (fun b => { brick := b, lo := 0, hi := 0 }) }
    :: (List.range 16).map (fun k => prioClass s 1 k (fun p => !dl p) (fun _ => 0) top)
    ++ (List.range 16).map (fun k => prioClass s 17 k dl (floorCode s) top)
    ++ (List.range 16).map (fun k => prioClass s 33 k dl (fun _ => 0) (floorCode s))

/-- A class was changed less than 50 µs ago. -/
def classBusy (s : State) (c : IslandClass) : Bool := match NMap.get? s.array.classAt c.id with
  | some t => s.now - t < 50000
  | none => false

/-- Notes a change of a class. -/
def classChanged (s : State) (c : IslandClass) : State :=
  { s with array := { s.array with classAt := NMap.ins s.array.classAt c.id s.now } }

/-- An island is above the limit to which its class is lowered. -/
def Movable.high (s : State) (m : Movable) : Bool := m.lo < islandFreq (s.island m.brick)

/-- An island is below the limit to which its class is raised. -/
def Movable.low (s : State) (m : Movable) : Bool := islandFreq (s.island m.brick) < m.hi

/-- Lowers a class by k codes, each island to its limit at most. -/
def lowerClass (s : State) (c : IslandClass) (k : Nat) : State :=
  c.islands.foldl (fun s m =>
    if m.high s then
      (lowerIsland s m.brick (max m.lo (islandFreq (s.island m.brick) - k))).bump Obj.PWR_LOWERINGS 0
    else s) (classChanged s c)

/-- Raises a class by one code; each setting passes the checks of R33 and R34. -/
def raiseClass (s : State) (c : IslandClass) : State :=
  c.islands.foldl (fun s m =>
    let v := s.island m.brick
    let f := islandFreq v + 1
    if m.low s then (islandRequest s m.brick (f + max (s.vfMin f) (islandVolt v) * 256)).2 else s) (classChanged s c)

/-- Islands of a pallet above PWR_PALLET_MAX_MHZ are lowered to it (R454). -/
def capPallets (s : State) : State :=
  (List.range 16).foldl (fun s p =>
    let m := freqCode (s.obj Obj.PWR_PALLET_MAX_MHZ p)
    (s.rect p).bricks.foldl (fun s b =>
      if m < islandFreq (s.island b) then (lowerIsland s b m).bump Obj.PWR_LOWERINGS 0 else s) s) s

/-- A pallet with DECODE calls in progress runs at PWR_ATT_FLOOR_MHZ. -/
def atFloor (s : State) : Bool :=
  (List.range 16).any (fun p =>
    s.req.calls.any (fun c => c.pallet == p && !c.call.bulk && !c.answered)
      && (s.rect p).bricks.any (fun b => islandFreq (s.island b) == freqCode (s.obj Obj.PWR_ATT_FLOOR_MHZ 0)))

/-- GOVERNOR_DECISION: delivered power averaged over 50 µs and over 1 ms in mW, and the input's figures. -/
def governor (mw50 mw1 inMw inMv inMa : Nat) (s : State) : State :=
  if !s.boot.stage.operating then s
  else
    let s := ((s.setObj Obj.PWR_INPUT_MV 0 inMv).setObj Obj.PWR_INPUT_MA 0 inMa).setObj Obj.PWR_MODULE_W 0 (inMw / 1000)
    let s := if 40000 ≤ inMv && inMv ≤ 60000 then { s with boot := { s.boot with excursion := false } } else s
    let budget := s.obj Obj.PWR_BUDGET_W 0 * 1000
    let s := if budget < mw1 then s.bumpBy Obj.PWR_BUDGET_EXCEED_NS 0 5000 else s
    let s := if atFloor s then s.bumpBy Obj.PWR_FLOOR_NS 0 5000 else s
    let s := capPallets s
    let cs := islandClasses s
    if budget < mw50 then
      let k := min 8 (ceilDiv ((mw50 - budget) * 100) budget)
      match cs.find? (fun c => (c.id < 33 || 2400000 < mw1) && c.islands.any (Movable.high s)) with
      | some c => if classBusy s c then s else lowerClass s c k
      | none => s
    else if mw50 * 100 ≤ budget * 98 then
      match cs.reverse.find? (fun c => c.islands.any (Movable.low s)) with
      | some c => if classBusy s c then s else raiseClass s c
      | none => s
    else s

def execGovernorDecision (mw50us mw1ms inputMw inputMv inputMa t : Nat) (s : State) : Outcome :=
  .next (governor mw50us mw1ms inputMw inputMv inputMa (s.at t))

/-! ## The reference clock (R459) -/

/-- REFCLK_LOSS: every island stops, every loaded pallet halts, and only the identity area is served. -/
def refclkLoss (s : State) : State :=
  if !s.boot.stage.operating then s
  else
    let s := { s with array := { s.array with stopped := List.range 1200 } }
    let s := (List.range 16).foldl (fun s p => if (s.pallet p).isLoaded then haltPallet s p .flushed else s) s
    s.setStage .refLost

def execRefclkLoss (t : Nat) (s : State) : Outcome := .next (refclkLoss (s.at t))

end Sys2Proof.Machine
end

