-- ==== Sys2Proof/Machine/Cpu.lean ====
section
/-! DEFINITION. The micro-core (chapter 02): the RV32IMFC base instructions (R21), the Jx extension (R48 to R54), its waits (R51),
and the ARRIVEs it holds (R30). An operand word is the instruction; a compressed one stands in its low half. -/

namespace Sys2Proof.Machine

/-! ## Registers -/

def Core.getX (c : Core) (r : Nat) : Word := if r = 0 then 0 else NMap.get 0 c.x r
def Core.setX (c : Core) (r : Nat) (v : Word) : Core := if r = 0 then c else { c with x := NMap.put 0 c.x r v }
def Core.getF (c : Core) (r : Nat) : Word := NMap.get 0 c.f r
def Core.setF (c : Core) (r : Nat) (v : Word) : Core := { c with f := NMap.put 0 c.f r v }
def Core.getV (c : Core) (r : Nat) : Lanes := NMap.get 0 c.v r
def Core.setV (c : Core) (r : Nat) (v : Lanes) : Core := { c with v := NMap.put 0 c.v r v }

/-- Accrues exception flags in fflags. -/
def Core.accrue (c : Core) (flags : Nat) : Core := { c with fcsr := c.fcsr ||| BitVec.ofNat 8 (flags % 32) }

/-! ## Running -/

/-- An exception: the pallet faults with cause 1 (R21, R409). -/
def trap (s : State) (b c mcause tval : Nat) : State :=
  brickFault s b 1 { brick := some b, core := some c, pc := (s.core b c).pc, mcause := mcause, tval := tval % 2 ^ 32 }

/-- Runs the instruction of `n` bytes at a micro-core's pc: only in a pallet that is READY or RUNNING, with the island's clock
running and no wait in progress. A pc beyond the brick store is a fetch access fault. `f` has the pallet. -/
def runCore (s : State) (b c n : Nat) (f : State → Nat → State) : State := match s.palletOf b with
  | none => s
  | some p =>
    let v := s.core b c
    if !(s.pallet p).live || s.array.stopped.contains b || v.waiting.isSome then s
    else if 0x200000 < v.pc.toNat + n then trap s b c 1 v.pc.toNat
    else f (s.onCore b c (fun v => { v with started := true })) p

/-- The instruction retires: the pc moves on, and one instruction is counted. -/
def retireTo (s : State) (b c p : Nat) (pc : Word) : State :=
  tally (s.onCore b c (fun v => { v with pc := pc })) (some p) 0x02 1

def retire (s : State) (b c p n : Nat) : State := retireTo s b c p ((s.core b c).pc + BitVec.ofNat 32 n)

/-- Retires with a new value of an x-register. -/
def retireX (s : State) (b c p n rd : Nat) (v : Word) : State := retire (s.onCore b c (fun k => k.setX rd v)) b c p n

/-- Retires with a new value of an f-register, and flags. -/
def retireF (s : State) (b c p n rd : Nat) (r : FRes) : State :=
  retire (s.onCore b c (fun k => (k.setF rd (BitVec.ofNat 32 r.1)).accrue r.2)) b c p n

/-! ## Loads and stores -/

/-- A store to an engine word that no chapter lays out. No layout says through which word a micro-core issues a WR_ACK (R30):
the store issues one, under a tag that is free at the brick, or does nothing, by a free value (log entry 109). -/
def openWordStore (s : State) (b c : Nat) : State :=
  let r := s.fresh 17
  let tag := r.1 / 2
  if r.1 % 2 = 1 && (s.brick b).requests.all (fun q => q.tag ≠ tag) then
    (r.2.onBrick b (fun k => { k with requests := k.requests ++ [{ tag := tag, core := c, isRead := false }] })).onCore b c
      (fun k => { k with acks := k.acks ++ [tag] })
  else r.2

/-- A store to an engine word: GO starts the slot's command; another field takes its value. -/
def engineStore (s : State) (b c a v : Nat) : State :=
  if 0x02001000 ≤ a && a < 0x02001400 then
    let n := (a - 0x02001000) / 64
    let r := s.rackSlot b n
    if a % 64 = 0x30 then (if bitOf v 0 then rackGo r.op b c n r.cmd s else s)
    else s.setRackSlot b n (r.setWord (a % 64) v)
  else if 0x02003000 ≤ a && a < 0x02003200 then
    let n := (a - 0x02003000) / 64
    if a % 64 = 0x24 then (if bitOf v 0 then quantiserGo b c n s else s)
    else s.onBrick b (fun k => k.setQslot n ((k.qslot n).setWord (a % 64) v))
  else openWordStore s b c

/-- A store of 1, 2 or 4 bytes that raises no exception. -/
def localStore (s : State) (b c a n v : Nat) : State :=
  if localRegion a n = .engine then
    let old := (engineWord s b (a / 4 * 4)).getD 0
    engineStore s b c (a / 4 * 4) (setBits old (8 * (a % 4)) (8 * n) v)
  else memStore s b a n v

/-- A load into a register, by the width and sign of its funct3. -/
def execLoadX (s : State) (b c p len f3 rd a : Nat) : State :=
  let n := 2 ^ (f3 % 4)
  match accessFault a n false with
  | some m => trap s b c m a
  | none =>
    let r := localLoad s b a n
    let v : Word := if f3 < 4 then (BitVec.ofNat (8 * n) r.1).signExtend 32 else BitVec.ofNat 32 r.1
    retireX r.2 b c p len rd v

/-- A store of the low bytes of a value. Where it starts a command that faults, the pc stays. -/
def execStoreX (s : State) (b c p len n a v : Nat) : State :=
  match accessFault a n true with
  | some m => trap s b c m a
  | none =>
    let s := localStore s b c a n (v % 2 ^ (8 * n))
    if (s.pallet p).live then retire s b c p len else s

/-! ## Arithmetic -/

/-- OP and OP-IMM; `alt` is funct7 bit 5. -/
def alu (f3 : Nat) (alt : Bool) (a b : Word) : Word :=
  let sh := b.toNat % 32
  match f3 with
  | 0 => if alt then a - b else a + b
  | 1 => a <<< sh
  | 2 => if a.slt b then 1 else 0
  | 3 => if a.ult b then 1 else 0
  | 4 => a ^^^ b
  | 5 => if alt then a.sshiftRight sh else a >>> sh
  | 6 => a ||| b
  | _ => a &&& b

/-- The M extension. -/
def mulDiv (f3 : Nat) (a b : Word) : Word :=
  match f3 with
  | 0 => a * b
  | 1 => BitVec.ofInt 32 (a.toInt * b.toInt / 2 ^ 32)
  | 2 => BitVec.ofInt 32 (a.toInt * (b.toNat : Int) / 2 ^ 32)
  | 3 => BitVec.ofNat 32 (a.toNat * b.toNat / 2 ^ 32)
  | 4 => if b = 0 then BitVec.allOnes 32 else BitVec.ofInt 32 (a.toInt.tdiv b.toInt)
  | 5 => if b = 0 then BitVec.allOnes 32 else BitVec.ofNat 32 (a.toNat / b.toNat)
  | 6 => if b = 0 then a else BitVec.ofInt 32 (a.toInt.tmod b.toInt)
  | _ => if b = 0 then a else BitVec.ofNat 32 (a.toNat % b.toNat)

/-- Branch conditions; none for the two reserved codes. -/
def branch (f3 : Nat) (a b : Word) : Option Bool :=
  match f3 with
  | 0 => some (a == b)
  | 1 => some (a != b)
  | 4 => some (a.slt b)
  | 5 => some !(a.slt b)
  | 6 => some (a.ult b)
  | 7 => some !(a.ult b)
  | _ => none

/-- A field of `n` bits as a sign-extended word. -/
def sext (v n : Nat) : Word := (BitVec.ofNat n v).signExtend 32

def immI (w : Nat) : Word := sext (bitsOf w 20 12) 12
def immS (w : Nat) : Word := sext (bitsOf w 7 5 + bitsOf w 25 7 * 32) 12
def immB (w : Nat) : Word := sext (bitsOf w 8 4 * 2 + bitsOf w 25 6 * 32 + bitsOf w 7 1 * 2048 + bitsOf w 31 1 * 4096) 13
def immU (w : Nat) : Word := BitVec.ofNat 32 (bitsOf w 12 20 * 4096)
def immJ (w : Nat) : Word :=
  sext (bitsOf w 21 10 * 2 + bitsOf w 20 1 * 2048 + bitsOf w 12 8 * 4096 + bitsOf w 31 1 * 2 ^ 20) 21

/-! ## CSRs -/

/-- The value of a CSR, none where the micro-core has none by that number. -/
def csrRead (s : State) (b c p n : Nat) : Option Word :=
  let k := s.core b c
  if n = 1 then some (BitVec.ofNat 32 (k.fcsr.toNat % 32))
  else if n = 2 then some (BitVec.ofNat 32 (k.fcsr.toNat / 32))
  else if n = 3 then some (BitVec.ofNat 32 k.fcsr.toNat)
  else if n = 0xCC0 then some (k.jxstep.zeroExtend 32)
  else if n = 0xCC1 then some (BitVec.ofNat 32 b)
  else if n = 0xCC2 then some (BitVec.ofNat 32 c)
  else if n = 0xCC3 then some (BitVec.ofNat 32 p)
  else none

/-- Writes fflags, frm or fcsr. -/
def csrWrite (k : Core) (n : Nat) (v : Word) : Core :=
  let v := v.toNat
  if n = 1 then { k with fcsr := BitVec.ofNat 8 (k.fcsr.toNat / 32 * 32 + v % 32) }
  else if n = 2 then { k with fcsr := BitVec.ofNat 8 (v % 8 * 32 + k.fcsr.toNat % 32) }
  else if n = 3 then { k with fcsr := BitVec.ofNat 8 v }
  else k

/-- A CSR instruction; `src` is the register's or immediate's value, `rs1` the field. The jx CSRs are read-only. -/
def execCsr (s : State) (b c p len f3 rd rs1 n : Nat) (src : Word) : State :=
  match csrRead s b c p n with
  | none => trap s b c 2 0
  | some old =>
    let op := f3 % 4
    let writes := op = 1 || rs1 ≠ 0
    if writes && 0xC00 ≤ n then trap s b c 2 0
    else
      let v := if op = 1 then src else if op = 2 then old ||| src else old &&& ~~~src
      let s := if writes then s.onCore b c (fun k => csrWrite k n v) else s
      retireX s b c p len rd old

/-! ## Single-precision floating point -/

/-- The rounding mode of an instruction, none where it is reserved. -/
def roundMode (k : Core) (rm : Nat) : Option Nat :=
  let r := if rm = 7 then k.fcsr.toNat / 32 else rm
  if r ≤ 4 then some r else none

/-- Does with the rounding mode, or is illegal. -/
def withRm (s : State) (b c rm : Nat) (f : Nat → State) : State := match roundMode (s.core b c) rm with
  | some r => f r
  | none => trap s b c 2 0

/-- FEQ, FLT, FLE: result and flags. -/
def fpCompare (f3 a b : Nat) : FRes :=
  let x := fdec fp32 a
  let y := fdec fp32 b
  if isNan x || isNan y then (0, if f3 ≠ 2 || isSnan x || isSnan y then 16 else 0)
  else if f3 = 2 then (b2n (fcmp x y = 0), 0)
  else if f3 = 1 then (b2n (flt fp32 a b), 0)
  else (b2n (fle fp32 a b), 0)

/-- OP-FP. -/
def execFp (s : State) (b c p len w : Nat) : State :=
  let k := s.core b c
  let rd := bitsOf w 7 5
  let rm := bitsOf w 12 3
  let r1 := bitsOf w 15 5
  let r2 := bitsOf w 20 5
  let a := (k.getF r1).toNat
  let d := (k.getF r2).toNat
  let toX := fun (s : State) (r : FRes) =>
    retireX (s.onCore b c (fun k => k.accrue r.2)) b c p len rd (BitVec.ofNat 32 r.1)
  let sgn := fun (n : Bool) => (a % 2 ^ 31 + (if n then 2 ^ 31 else 0), 0)
  match bitsOf w 25 7 with
  | 0x00 => withRm s b c rm (fun r => retireF s b c p len rd (fadd fp32 r a d))
  | 0x04 => withRm s b c rm (fun r => retireF s b c p len rd (fsub fp32 r a d))
  | 0x08 => withRm s b c rm (fun r => retireF s b c p len rd (fmul fp32 r a d))
  | 0x0C => withRm s b c rm (fun r => retireF s b c p len rd (fdiv fp32 r a d))
  | 0x2C => if r2 = 0 then withRm s b c rm (fun r => retireF s b c p len rd (fsqrt fp32 r a)) else trap s b c 2 0
  | 0x10 =>
    if rm = 0 then retireF s b c p len rd (sgn (fsign fp32 d))
    else if rm = 1 then retireF s b c p len rd (sgn !(fsign fp32 d))
    else if rm = 2 then retireF s b c p len rd (sgn (fsign fp32 a != fsign fp32 d))
    else trap s b c 2 0
  | 0x14 =>
    if rm = 0 then retireF s b c p len rd (fmin fp32 a d)
    else if rm = 1 then retireF s b c p len rd (fmax fp32 a d)
    else trap s b c 2 0
  | 0x60 =>
    if r2 = 0 then withRm s b c rm (fun r =>
      let v := ftoInt fp32 r a (-(2 ^ 31)) (2 ^ 31 - 1)
      toX s ((BitVec.ofInt 32 v.1).toNat, v.2))
    else if r2 = 1 then withRm s b c rm (fun r =>
      let v := ftoInt fp32 r a 0 (2 ^ 32 - 1)
      toX s (v.1.toNat, v.2))
    else trap s b c 2 0
  | 0x70 =>
    if r2 = 0 && rm = 0 then toX s (a, 0)
    else if r2 = 0 && rm = 1 then toX s (2 ^ fclass fp32 a, 0)
    else trap s b c 2 0
  | 0x50 => if rm ≤ 2 then toX s (fpCompare rm a d) else trap s b c 2 0
  | 0x68 =>
    let x := k.getX r1
    if r2 = 0 then withRm s b c rm (fun r => retireF s b c p len rd (fofInt fp32 r x.toInt))
    else if r2 = 1 then withRm s b c rm (fun r => retireF s b c p len rd (fofInt fp32 r x.toNat))
    else trap s b c 2 0
  | 0x78 => if r2 = 0 && rm = 0 then retireF s b c p len rd ((k.getX r1).toNat, 0) else trap s b c 2 0
  | _ => trap s b c 2 0

/-- The fused multiply-adds, by bits [3:2] of their opcode. -/
def execFma (s : State) (b c p len w : Nat) : State :=
  let k := s.core b c
  let a := (k.getF (bitsOf w 15 5)).toNat
  let d := (k.getF (bitsOf w 20 5)).toNat
  let e := (k.getF (bitsOf w 27 5)).toNat
  let op := bitsOf w 2 2
  let a := if op = 2 || op = 3 then fneg fp32 a else a
  let e := if op = 1 || op = 3 then fneg fp32 e else e
  if bitsOf w 25 2 ≠ 0 then trap s b c 2 0
  else withRm s b c (bitsOf w 12 3) (fun r => retireF s b c p len (bitsOf w 7 5) (ffma fp32 r a d e))

/-! ## Jx: tokens, waits and moves -/

/-- The 64-byte TOKEN flit that a brick holds (R27 and the token payload). -/
def tokenFlit (b p : Nat) (tok : Token) : List Byte :=
  let hdr := b + tok.src * 2 ^ 12 + 2 * 2 ^ 24 + p * 2 ^ 28 + tok.tag % 2 ^ 16 * 2 ^ 32 + 0x10 * 2 ^ 48
  pack [(hdr, 8), (tok.kind, 1), (tok.engines, 1), (tok.passes, 2), (tok.arrId, 4), (tok.page, 8)] ++ padTo 40 tok.args

/-- The token that 56 bytes of payload spell; PASSES is 0. -/
def tokenOf (payload : List Byte) (tag : Nat) : Token :=
  let f := fun (o n : Nat) => ofBytes ((payload.drop o).take n)
  { src := 0, kind := f 0 1, engines := f 1 1 % 128, passes := 0, arrId := f 4 4 % 2 ^ 17, page := f 8 8 % 2 ^ 48,
    args := (payload.drop 16).take 40, tag := tag }

/-- A brick-store address that names a 64-byte line (R50). -/
def lineAddr (a : Nat) : Bool := a % 64 = 0 && a + 64 ≤ 0x200000

/-- The core takes the oldest token of the queue. -/
def takeToken (s : State) (b c p rd dst : Nat) (tok : Token) (rest : List Token) : State :=
  let s := s.onBrick b (fun k => { k.write dst (tokenFlit b p tok) with tokens := rest })
  let s := s.onCore b c (fun k =>
    { k.setX rd (BitVec.ofNat 32 (tok.kind + tok.engines * 256 + tok.passes * 65536)) with
      jxstep := BitVec.ofNat 16 tok.tag, kind := tok.kind })
  retire s b c p 4

/-- Value of a credit counter as JX.CWAIT observes it. The request, response and control credits (0, 1, 3) return as the link
takes the flits, which no command shows: what is observed of them is a free value of 0 to 8 (log entry 111). -/
def observeCredits (s : State) (b k : Nat) : Nat × State :=
  if k = 0 || k = 1 || k = 3 then
    let r := s.fresh 4
    (r.1 % 9, r.2)
  else (credits s b k, s)

/-- The state once a waiting instruction has looked at its condition and waits on: what it observed is drawn. -/
def waitDrawn (s : State) (b : Nat) : Waiting → State
  | .cwait _ k _ => (observeCredits s b k).2
  | _ => s

/-- A waiting instruction, as its conditions stand: none where it waits on. -/
def tryWait (s : State) (b c p : Nat) (w : Waiting) : Option State :=
  let v := s.core b c
  match w with
  | .take rd dst => match (s.brick b).tokens with
    | tok :: rest => some (takeToken s b c p rd dst tok rest)
    | [] => none
  | .put rd src target =>
    if credits s b 2 = 0 then none
    else
      let tok := tokenOf ((s.brick b).bytes (src + 8) 56) v.jxstep.toNat
      let s := if tok.kind = 0 then s else sendToken s b target tok
      some (retireX s b c p 4 rd 0)
  | .cwait rd k n =>
    let o := observeCredits s b k
    if n ≤ o.1 then some (retireX o.2 b c p 4 rd (BitVec.ofNat 32 o.1)) else none
  | .await rd idx n =>
    let x := (s.counter (b * 64 + idx)).count
    if n ≤ x then some (retireX s b c p 4 rd (BitVec.ofNat 32 x)) else none
  | .bwait tag => if v.bulk.any (fun m => m.tag == tag) then none else some (retire s b c p 4)
  | .bmove rd dst src len =>
    match leastBelow 16 (fun i => v.bulk.all (fun m => m.tag ≠ i)) with
    | none => none
    | some tag =>
      let m : BulkMove := { id := v.bulkNext, tag := tag, dst := dst, src := src, len := len }
      let s := s.onCore b c (fun k => { k with bulk := k.bulk ++ [m], bulkNext := k.bulkNext + 1 })
      some (retireX s b c p 4 rd (BitVec.ofNat 32 tag))

/-- Ends a wait at once where its condition holds, or begins it (R51). -/
def waitOn (s : State) (b c p : Nat) (w : Waiting) : State := match tryWait s b c p w with
  | some s => s
  | none => (waitDrawn s b w).onCore b c (fun k => { k with waiting := some w })

/-- JX.TAKE. -/
def jxTake (s : State) (b c p rd rs1 : Nat) : State :=
  let a := ((s.core b c).getX rs1).toNat
  if lineAddr a then waitOn s b c p (.take rd a) else trap s b c 7 a

/-- JX.TAKENB. -/
def jxTakenb (s : State) (b c p rd rs1 : Nat) : State :=
  let a := ((s.core b c).getX rs1).toNat
  if !lineAddr a then trap s b c 7 a
  else match (s.brick b).tokens with
    | tok :: rest => takeToken s b c p rd a tok rest
    | [] => retireX s b c p 4 rd 0

/-- JX.PUT. -/
def jxPut (s : State) (b c p rd rs1 rs2 : Nat) : State :=
  let a := ((s.core b c).getX rs1).toNat
  let d := ((s.core b c).getX rs2).toNat
  if !lineAddr a then trap s b c 5 a
  else if d = 0xFFFFFFFF then waitOn s b c p (.put rd a ((s.rect p).next b))
  else if (s.rect p).has d then waitOn s b c p (.put rd a d)
  else trap s b c 5 d

/-- JX.CWAIT. -/
def jxCwait (s : State) (b c p rd rs1 imm : Nat) : State :=
  let k := ((s.core b c).getX rs1).toNat
  if k < 12 then waitOn s b c p (.cwait rd k imm) else trap s b c 2 0

/-- JX.AWAIT. -/
def jxAwait (s : State) (b c p rd rs1 rs2 : Nat) : State :=
  let i := ((s.core b c).getX rs1).toNat
  if i < 64 then waitOn s b c p (.await rd i ((s.core b c).getX rs2).toNat) else trap s b c 5 i

/-- JX.ARRIVE. -/
def jxArrive (s : State) (b c p rs1 rs2 : Nat) : State :=
  let v := s.core b c
  let k := (v.getX rs1).toNat
  let n := (v.getX rs2).toNat
  if 76800 ≤ k || n = 0 || 65536 ≤ n then trap s b c 7 k
  else retire (coreArrive s b c k n v.jxstep.toNat) b c p 4

/-- JX.TBRLO: the timebase within ±2 ns (R52). -/
def jxTbrlo (s : State) (b c p rd : Nat) : State :=
  let r := s.fresh 8
  let v := s.now + r.1 % 5 - 2
  retireX (r.2.onCore b c (fun k => { k with tbHi := BitVec.ofNat 32 (v / 2 ^ 32) })) b c p 4 rd (BitVec.ofNat 32 v)

/-- JX.TBRHI. -/
def jxTbrhi (s : State) (b c p rd : Nat) : State := retireX s b c p 4 rd (s.core b c).tbHi

/-- JX.BWAIT. -/
def jxBwait (s : State) (b c p rs1 : Nat) : State := waitOn s b c p (.bwait ((s.core b c).getX rs1).toNat)

/-- JX.BMOVE (R50, R53). -/
def jxBmove (s : State) (b c p rd rs1 rs2 rs3 : Nat) : State :=
  let v := s.core b c
  let dst := (v.getX rs1).toNat
  let src := (v.getX rs2).toNat
  let len := (v.getX rs3).toNat
  if dst % 64 ≠ 0 || 0x200000 < dst + len then trap s b c 7 dst
  else if src % 64 ≠ 0 || 0x200000 < src + len || len % 64 ≠ 0 || len < 64 || 262144 < len || (dst < src + len && src < dst + len) then
    trap s b c 7 src
  else waitOn s b c p (.bmove rd dst src len)

/-! ## Jx: vectors (R54) -/

def LaneFmt.ffmt : LaneFmt → FFmt
  | .fp16 => fp16
  | .bf16 => bf16

/-- Lane i of a vector register. -/
def lane (v : Lanes) (i : Nat) : Nat := bitsOf v.toNat (16 * i) 16

def lanesOf (f : Nat → Nat) : Lanes :=
  BitVec.ofNat 64 (sumOf (List.range 4) (fun i => f i % 65536 * 2 ^ (16 * i)))

/-- A lane operation: 0 add, 1 multiply, 2 fused multiply-add, 3 maximum, 4 minimum. R54 says no more of the last two than their
names: with one NaN the other operand is the result, and −0 lies below +0, as in FMAX.S and FMIN.S (DESIGN CHOICE, log entry
112). -/
def laneOp (f : FFmt) (op d x y : Nat) : Nat :=
  if op = 0 then (fadd f 0 x y).1
  else if op = 1 then (fmul f 0 x y).1
  else if op = 2 then (ffma f 0 x y d).1
  else if op = 3 then (fmax f x y).1
  else (fmin f x y).1

/-- A vector arithmetic instruction. No vector instruction touches fflags: R54 is silent on it (DESIGN CHOICE, log entry 112). -/
def jxVector (s : State) (b c p op : Nat) (f : LaneFmt) (vd v1 v2 : Nat) : State :=
  let k := s.core b c
  let r := lanesOf (fun i => laneOp (LaneFmt.ffmt f) op (lane (k.getV vd) i) (lane (k.getV v1) i) (lane (k.getV v2) i))
  retire (s.onCore b c (fun k => k.setV vd r)) b c p 4

/-- JX.VRSUM: lanes added in order, each sum rounded. -/
def jxVrsum (s : State) (b c p : Nat) (f : LaneFmt) (fd v1 : Nat) : State :=
  let l := fun i => widen (LaneFmt.ffmt f) (lane ((s.core b c).getV v1) i)
  let v := f32add (f32add (f32add (l 0) (l 1)) (l 2)) (l 3)
  retire (s.onCore b c (fun k => k.setF fd (BitVec.ofNat 32 v))) b c p 4

/-- JX.VBCAST: the conversion of R64. -/
def jxVbcast (s : State) (b c p : Nat) (f : LaneFmt) (vd fs1 : Nat) : State :=
  let v := narrow (LaneFmt.ffmt f) ((s.core b c).getF fs1).toNat
  retire (s.onCore b c (fun k => k.setV vd (lanesOf (fun _ => v)))) b c p 4

/-- The exception of an 8-byte access of JX.VLD and JX.VST: the brick store alone takes it. -/
def vecFault (a : Nat) (writing : Bool) : Option MCause :=
  if a % 8 ≠ 0 then some (if writing then 6 else 4)
  else if a + 8 ≤ 0x200000 then none
  else some (if writing then 7 else 5)

def jxVld (s : State) (b c p vd rs1 : Nat) (imm : Word) : State :=
  let a := ((s.core b c).getX rs1 + imm).toNat
  match vecFault a false with
  | some m => trap s b c m a
  | none => retire (s.onCore b c (fun k => k.setV vd (BitVec.ofNat 64 (memNat (s.brick b).store a 8)))) b c p 4

def jxVst (s : State) (b c p vs2 rs1 : Nat) (imm : Word) : State :=
  let a := ((s.core b c).getX rs1 + imm).toNat
  match vecFault a true with
  | some m => trap s b c m a
  | none => retire (s.onBrick b (fun k => k.write a (toBytes 8 ((k.core c).getV vs2).toNat))) b c p 4

/-! ## Jx encodings (R49) -/

/-- custom-0. -/
def execCustom0 (s : State) (b c p w : Nat) : State :=
  let rd := bitsOf w 7 5
  let r1 := bitsOf w 15 5
  let r2 := bitsOf w 20 5
  let f7 := bitsOf w 25 7
  match bitsOf w 12 3 with
  | 0 => if f7 = 0 && r2 = 0 then jxTake s b c p rd r1 else trap s b c 2 0
  | 1 => if f7 = 0 && r2 = 0 then jxTakenb s b c p rd r1 else trap s b c 2 0
  | 2 => if f7 = 0 then jxPut s b c p rd r1 r2 else trap s b c 2 0
  | 3 => jxCwait s b c p rd r1 (bitsOf w 20 12)
  | 4 => if f7 = 0 then jxAwait s b c p rd r1 r2 else trap s b c 2 0
  | 5 => if f7 = 0 && rd = 0 then jxArrive s b c p r1 r2 else trap s b c 2 0
  | 6 =>
    if f7 = 0 && r1 = 0 && r2 = 0 then jxTbrlo s b c p rd
    else if f7 = 1 && r1 = 0 && r2 = 0 then jxTbrhi s b c p rd
    else trap s b c 2 0
  | _ => if f7 = 0 && rd = 0 && r2 = 0 then jxBwait s b c p r1 else trap s b c 2 0

/-- custom-2: the vector instructions. The encoding table gives JX.VRSUM and JX.VBCAST no second source: their rs2 field is 0,
and another value is illegal (DESIGN CHOICE, log entry 112). -/
def execCustom2 (s : State) (b c p w : Nat) : State :=
  let rd := bitsOf w 7 5
  let r1 := bitsOf w 15 5
  let r2 := bitsOf w 20 5
  let op := bitsOf w 26 6
  let f := if bitOf w 25 then LaneFmt.bf16 else LaneFmt.fp16
  match bitsOf w 12 3 with
  | 0 =>
    if op ≤ 4 then (if rd < 8 && r1 < 8 && r2 < 8 then jxVector s b c p op f rd r1 r2 else trap s b c 2 0)
    else if op = 5 then (if r1 < 8 && r2 = 0 then jxVrsum s b c p f rd r1 else trap s b c 2 0)
    else if op = 6 then (if rd < 8 && r2 = 0 then jxVbcast s b c p f rd r1 else trap s b c 2 0)
    else trap s b c 2 0
  | 2 => if rd < 8 then jxVld s b c p rd r1 (immI w) else trap s b c 2 0
  | 3 => if r2 < 8 then jxVst s b c p r2 r1 (immS w) else trap s b c 2 0
  | _ => trap s b c 2 0

/-! ## Compressed instructions: their 32-bit forms -/

def encI (op f3 rd rs1 imm : Nat) : Nat := op + rd * 2 ^ 7 + f3 * 2 ^ 12 + rs1 * 2 ^ 15 + imm % 4096 * 2 ^ 20
def encR (f3 f7 rd rs1 rs2 : Nat) : Nat := 0x33 + rd * 2 ^ 7 + f3 * 2 ^ 12 + rs1 * 2 ^ 15 + rs2 * 2 ^ 20 + f7 * 2 ^ 25
def encS (op f3 rs1 rs2 imm : Nat) : Nat :=
  op + imm % 32 * 2 ^ 7 + f3 * 2 ^ 12 + rs1 * 2 ^ 15 + rs2 * 2 ^ 20 + imm / 32 % 128 * 2 ^ 25
def encB (f3 rs1 imm : Nat) : Nat :=
  0x63 + bitsOf imm 11 1 * 2 ^ 7 + bitsOf imm 1 4 * 2 ^ 8 + f3 * 2 ^ 12 + rs1 * 2 ^ 15 + bitsOf imm 5 6 * 2 ^ 25
    + bitsOf imm 12 1 * 2 ^ 31
def encJ (rd imm : Nat) : Nat :=
  0x6F + rd * 2 ^ 7 + bitsOf imm 12 8 * 2 ^ 12 + bitsOf imm 11 1 * 2 ^ 20 + bitsOf imm 1 10 * 2 ^ 21 + bitsOf imm 20 1 * 2 ^ 31

/-- A field of `n` bits sign-extended to 32 bits, as a number. -/
def sx (v n : Nat) : Nat := (sext v n).toNat

/-- The 32-bit instruction that a compressed one stands for, none where it is illegal in RV32FC. -/
def expandC (w : Nat) : Option Nat :=
  let f := bitsOf w
  let rd := f 7 5
  let r2 := f 2 5
  let rd' := 8 + f 2 3
  let rs' := 8 + f 7 3
  let imm6 := f 2 5 + f 12 1 * 32
  let lw := f 6 1 * 4 + f 10 3 * 8 + f 5 1 * 64
  let lwsp := f 4 3 * 4 + f 12 1 * 32 + f 2 2 * 64
  let swsp := f 9 4 * 4 + f 7 2 * 64
  let cj := sx (f 3 3 * 2 + f 11 1 * 16 + f 2 1 * 32 + f 7 1 * 64 + f 6 1 * 128 + f 9 2 * 256 + f 8 1 * 1024 + f 12 1 * 2048) 12
  let cb := sx (f 3 2 * 2 + f 10 2 * 8 + f 2 1 * 32 + f 5 2 * 64 + f 12 1 * 256) 9
  match f 0 2, f 13 3 with
  | 0, 0 =>
    let imm := f 6 1 * 4 + f 5 1 * 8 + f 11 2 * 16 + f 7 4 * 64
    if imm = 0 then none else some (encI 0x13 0 rd' 2 imm)
  | 0, 2 => some (encI 0x03 2 rd' rs' lw)
  | 0, 3 => some (encI 0x07 2 rd' rs' lw)
  | 0, 6 => some (encS 0x23 2 rs' rd' lw)
  | 0, 7 => some (encS 0x27 2 rs' rd' lw)
  | 1, 0 => some (encI 0x13 0 rd rd (sx imm6 6))
  | 1, 1 => some (encJ 1 cj)
  | 1, 2 => some (encI 0x13 0 rd 0 (sx imm6 6))
  | 1, 3 =>
    if imm6 = 0 then none
    else if rd = 2 then
      some (encI 0x13 0 2 2 (sx (f 6 1 * 16 + f 2 1 * 32 + f 5 1 * 64 + f 3 2 * 128 + f 12 1 * 512) 10))
    else some (0x37 + rd * 2 ^ 7 + sx imm6 6 % 2 ^ 20 * 2 ^ 12)
  | 1, 4 => match f 10 2 with
    | 0 => if f 12 1 = 1 then none else some (encI 0x13 5 rs' rs' (f 2 5))
    | 1 => if f 12 1 = 1 then none else some (encI 0x13 5 rs' rs' (f 2 5 + 0x400))
    | 2 => some (encI 0x13 7 rs' rs' (sx imm6 6))
    | _ =>
      if f 12 1 = 1 then none
      else match f 5 2 with
        | 0 => some (encR 0 0x20 rs' rs' rd')
        | 1 => some (encR 4 0 rs' rs' rd')
        | 2 => some (encR 6 0 rs' rs' rd')
        | _ => some (encR 7 0 rs' rs' rd')
  | 1, 5 => some (encJ 0 cj)
  | 1, 6 => some (encB 0 rs' cb)
  | 1, 7 => some (encB 1 rs' cb)
  | 2, 0 => if f 12 1 = 1 then none else some (encI 0x13 1 rd rd (f 2 5))
  | 2, 2 => if rd = 0 then none else some (encI 0x03 2 rd 2 lwsp)
  | 2, 3 => some (encI 0x07 2 rd 2 lwsp)
  | 2, 4 =>
    if f 12 1 = 0 then
      if r2 = 0 then (if rd = 0 then none else some (encI 0x67 0 0 rd 0)) else some (encR 0 0 rd 0 r2)
    else if r2 = 0 then (if rd = 0 then some 0x00100073 else some (encI 0x67 0 1 rd 0))
    else some (encR 0 0 rd rd r2)
  | 2, 6 => some (encS 0x23 2 2 r2 swsp)
  | 2, 7 => some (encS 0x27 2 2 r2 swsp)
  | _, _ => none

/-! ## The base instructions -/

/-- SYSTEM: ECALL, EBREAK and the CSR instructions. -/
def execSystem (s : State) (b c p len w : Nat) : State :=
  let f3 := bitsOf w 12 3
  let r1 := bitsOf w 15 5
  if w = 0x00000073 then trap s b c 11 0
  else if w = 0x00100073 then trap s b c 3 0
  else if f3 = 0 || f3 = 4 then trap s b c 2 0
  else
    execCsr s b c p len f3 (bitsOf w 7 5) r1 (bitsOf w 20 12) (if f3 < 4 then (s.core b c).getX r1 else BitVec.ofNat 32 r1)

/-- One instruction of 32 bits, of which `len` bytes stand in memory. -/
def exec32 (s : State) (b c p len w : Nat) : State :=
  let k := s.core b c
  let rd := bitsOf w 7 5
  let f3 := bitsOf w 12 3
  let f7 := bitsOf w 25 7
  let a := k.getX (bitsOf w 15 5)
  let d := k.getX (bitsOf w 20 5)
  let link := k.pc + BitVec.ofNat 32 len
  match bitsOf w 0 7 with
  | 0x37 => retireX s b c p len rd (immU w)
  | 0x17 => retireX s b c p len rd (k.pc + immU w)
  | 0x6F => retireTo (s.onCore b c (fun v => v.setX rd link)) b c p (k.pc + immJ w)
  | 0x67 =>
    if f3 = 0 then retireTo (s.onCore b c (fun v => v.setX rd link)) b c p ((a + immI w) &&& ~~~1) else trap s b c 2 0
  | 0x63 => match branch f3 a d with
    | none => trap s b c 2 0
    | some t => if t then retireTo s b c p (k.pc + immB w) else retire s b c p len
  | 0x03 => if f3 = 3 || 6 ≤ f3 then trap s b c 2 0 else execLoadX s b c p len f3 rd (a + immI w).toNat
  | 0x23 => if 3 ≤ f3 then trap s b c 2 0 else execStoreX s b c p len (2 ^ f3) (a + immS w).toNat d.toNat
  | 0x13 =>
    if f3 = 1 then (if f7 = 0 then retireX s b c p len rd (alu 1 false a (immI w)) else trap s b c 2 0)
    else if f3 = 5 then
      (if f7 = 0 || f7 = 0x20 then retireX s b c p len rd (alu 5 (f7 = 0x20) a (immI w)) else trap s b c 2 0)
    else retireX s b c p len rd (alu f3 false a (immI w))
  | 0x33 =>
    if f7 = 0 then retireX s b c p len rd (alu f3 false a d)
    else if f7 = 0x20 && (f3 = 0 || f3 = 5) then retireX s b c p len rd (alu f3 true a d)
    else if f7 = 1 then retireX s b c p len rd (mulDiv f3 a d)
    else trap s b c 2 0
  | 0x0F => if f3 = 0 then retire s b c p len else trap s b c 2 0
  | 0x73 => execSystem s b c p len w
  | 0x07 =>
    if f3 ≠ 2 then trap s b c 2 0
    else
      let ad := (a + immI w).toNat
      match accessFault ad 4 false with
      | some m => trap s b c m ad
      | none =>
        let r := localLoad s b ad 4
        retireF r.2 b c p len rd (r.1, 0)
  | 0x27 => if f3 ≠ 2 then trap s b c 2 0 else execStoreX s b c p len 4 (a + immS w).toNat (k.getF (bitsOf w 20 5)).toNat
  | 0x43 => execFma s b c p len w
  | 0x47 => execFma s b c p len w
  | 0x4B => execFma s b c p len w
  | 0x4F => execFma s b c p len w
  | 0x53 => execFp s b c p len w
  | 0x0B => execCustom0 s b c p w
  | 0x2B =>
    if f3 = 0 && bitsOf w 25 2 = 0 then jxBmove s b c p rd (bitsOf w 15 5) (bitsOf w 20 5) (bitsOf w 27 5) else trap s b c 2 0
  | 0x5B => execCustom2 s b c p w
  | _ => trap s b c 2 0

/-- BASE_INSTRUCTION (R21). -/
def baseInstruction (b c w : Nat) (s : State) : State :=
  if w % 4 = 3 then runCore s b c 4 (fun s p => exec32 s b c p 4 w)
  else runCore s b c 2 (fun s p => match expandC (w % 65536) with
    | some e => exec32 s b c p 2 e
    | none => trap s b c 2 0)

def execBaseInstruction (b : BrickNo) (c : CoreNo) (w : Word) (t : Nat) (s : State) : Outcome :=
  .next (baseInstruction b c w.toNat (s.at t))

/-! ## Meanings of the Jx commands -/

def execJxTake (b : BrickNo) (c : CoreNo) (rd rs1 : RegNo) (t : Nat) (s : State) : Outcome :=
  .next (runCore (s.at t) b c 4 (fun s p => jxTake s b c p rd rs1))
def execJxTakenb (b : BrickNo) (c : CoreNo) (rd rs1 : RegNo) (t : Nat) (s : State) : Outcome :=
  .next (runCore (s.at t) b c 4 (fun s p => jxTakenb s b c p rd rs1))
def execJxPut (b : BrickNo) (c : CoreNo) (rd rs1 rs2 : RegNo) (t : Nat) (s : State) : Outcome :=
  .next (runCore (s.at t) b c 4 (fun s p => jxPut s b c p rd rs1 rs2))
def execJxCwait (b : BrickNo) (c : CoreNo) (rd rs1 : RegNo) (imm : BitVec 12) (t : Nat) (s : State) : Outcome :=
  .next (runCore (s.at t) b c 4 (fun s p => jxCwait s b c p rd rs1 imm.toNat))
def execJxAwait (b : BrickNo) (c : CoreNo) (rd rs1 rs2 : RegNo) (t : Nat) (s : State) : Outcome :=
  .next (runCore (s.at t) b c 4 (fun s p => jxAwait s b c p rd rs1 rs2))
def execJxArrive (b : BrickNo) (c : CoreNo) (rs1 rs2 : RegNo) (t : Nat) (s : State) : Outcome :=
  .next (runCore (s.at t) b c 4 (fun s p => jxArrive s b c p rs1 rs2))
def execJxTbrlo (b : BrickNo) (c : CoreNo) (rd : RegNo) (t : Nat) (s : State) : Outcome :=
  .next (runCore (s.at t) b c 4 (fun s p => jxTbrlo s b c p rd))
def execJxTbrhi (b : BrickNo) (c : CoreNo) (rd : RegNo) (s : State) : Outcome :=
  .next (runCore s b c 4 (fun s p => jxTbrhi s b c p rd))
def execJxBwait (b : BrickNo) (c : CoreNo) (rs1 : RegNo) (t : Nat) (s : State) : Outcome :=
  .next (runCore (s.at t) b c 4 (fun s p => jxBwait s b c p rs1))
def execJxBmove (b : BrickNo) (c : CoreNo) (rd rs1 rs2 rs3 : RegNo) (t : Nat) (s : State) : Outcome :=
  .next (runCore (s.at t) b c 4 (fun s p => jxBmove s b c p rd rs1 rs2 rs3))
def execJxVadd (b : BrickNo) (c : CoreNo) (f : LaneFmt) (vd vs1 vs2 : VRegNo) (s : State) : Outcome :=
  .next (runCore s b c 4 (fun s p => jxVector s b c p 0 f vd vs1 vs2))
def execJxVmul (b : BrickNo) (c : CoreNo) (f : LaneFmt) (vd vs1 vs2 : VRegNo) (s : State) : Outcome :=
  .next (runCore s b c 4 (fun s p => jxVector s b c p 1 f vd vs1 vs2))
def execJxVfma (b : BrickNo) (c : CoreNo) (f : LaneFmt) (vd vs1 vs2 : VRegNo) (s : State) : Outcome :=
  .next (runCore s b c 4 (fun s p => jxVector s b c p 2 f vd vs1 vs2))
def execJxVmax (b : BrickNo) (c : CoreNo) (f : LaneFmt) (vd vs1 vs2 : VRegNo) (s : State) : Outcome :=
  .next (runCore s b c 4 (fun s p => jxVector s b c p 3 f vd vs1 vs2))
def execJxVmin (b : BrickNo) (c : CoreNo) (f : LaneFmt) (vd vs1 vs2 : VRegNo) (s : State) : Outcome :=
  .next (runCore s b c 4 (fun s p => jxVector s b c p 4 f vd vs1 vs2))
def execJxVrsum (b : BrickNo) (c : CoreNo) (f : LaneFmt) (fd : RegNo) (vs1 : VRegNo) (s : State) : Outcome :=
  .next (runCore s b c 4 (fun s p => jxVrsum s b c p f fd vs1))
def execJxVbcast (b : BrickNo) (c : CoreNo) (f : LaneFmt) (vd : VRegNo) (fs1 : RegNo) (s : State) : Outcome :=
  .next (runCore s b c 4 (fun s p => jxVbcast s b c p f vd fs1))
def execJxVld (b : BrickNo) (c : CoreNo) (vd : VRegNo) (rs1 : RegNo) (imm : BitVec 12) (t : Nat) (s : State) : Outcome :=
  .next (runCore (s.at t) b c 4 (fun s p => jxVld s b c p vd rs1 (imm.signExtend 32)))
def execJxVst (b : BrickNo) (c : CoreNo) (vs2 : VRegNo) (rs1 : RegNo) (imm : BitVec 12) (t : Nat) (s : State) : Outcome :=
  .next (runCore (s.at t) b c 4 (fun s p => jxVst s b c p vs2 rs1 (imm.signExtend 32)))

/-- JX_WAIT_END (R51): the waiting instruction completes, if its condition holds. -/
def waitEnd (b c : Nat) (s : State) : State := match s.palletOf b, (s.core b c).waiting with
  | some p, some w =>
    if !(s.pallet p).live || s.array.stopped.contains b then s
    else match tryWait s b c p w with
      | some s => s.onCore b c (fun k => { k with waiting := none })
      | none => waitDrawn s b w
  | _, _ => s

def execJxWaitEnd (b : BrickNo) (c : CoreNo) (t : Nat) (s : State) : Outcome := .next (waitEnd b c (s.at t))

/-- BULK_MOVE_DONE (R53): the data is in place, the tag is free, and no ARRIVE waits for the move (R30). -/
def bulkDone (b c tag : Nat) (s : State) : State :=
  match (s.core b c).bulk.find? (fun m => m.tag == tag) with
  | none => s
  | some m =>
    let s := s.onBrick b (fun k => k.write m.dst (k.bytes m.src m.len))
    s.onCore b c (fun k => { k with
      bulk := k.bulk.filter (fun x => x.id ≠ m.id),
      arrives := k.arrives.map (fun (a : HeldArrive) => { a with moves := a.moves.filter (fun i => i ≠ m.id) }) })

def execBulkMoveDone (b : BrickNo) (c : CoreNo) (tag : Fin 16) (s : State) : Outcome := .next (bulkDone b c tag s)

/-- ARRIVE_SEND (R30): the oldest held ARRIVE of a micro-core leaves, once nothing it waits for is outstanding. -/
def arriveSend (b c : Nat) (s : State) : State := match (s.core b c).arrives with
  | [] => s
  | a :: rest =>
    if a.acks.isEmpty && a.moves.isEmpty then
      (s.onCore b c (fun k => { k with arrives := rest })).emit (.arrive a.k a.n a.tag)
    else s

def execArriveSend (b : BrickNo) (c : CoreNo) (t : Nat) (s : State) : Outcome := .next (arriveSend b c (s.at t))

end Sys2Proof.Machine
end

