-- ==== Sys2Proof/Machine/Descs.lean ====
section
/-! DEFINITION. Step descriptors (R309 to R312, R323, R324, R372): their form, the refusal of a whole descriptor, and the entry
of a STEP ring into its step domain. -/

namespace Sys2Proof.Machine

/-! ## Form (R309 to R312) -/

/-- Bytes of a carried result entry (R127). -/
def carriedSize (c : CarriedEntry) : Nat := roundUp (32 + 4 * sumOf c.frames List.length) 8

/-- LENGTH that a descriptor's counts and replay area give. -/
def descLength (d : StepDesc) : Nat :=
  64 + 32 * d.entries.length + 8 * d.hints.length + sumOf d.replay carriedSize

/-- ARR_TARGET under R312. -/
def descTarget (d : StepDesc) (m : Manifest) : Nat :=
  let c := descRule d m
  c.1 + c.2.1 * d.entries.length + c.2.2 * sumOf d.entries (·.ntok)

/-- NTOK of an entry lies in the range its KIND gives. -/
def ntokOk (d : StepDesc) (e : StepEntry) : Bool :=
  if d.kind = 1 then e.ntok = 0
  else if d.kind = 2 then 1 ≤ e.ntok && e.ntok ≤ 64
  else 1 ≤ e.ntok && e.ntok ≤ 64 && e.ntok = sumOf d.replay (fun c => c.frames.length)

/-- A carried entry is laid out as in R127: at most 17 frames of `n` streams, and none with a status that streams none. -/
def carriedOk (n : Nat) (c : CarriedEntry) : Bool :=
  c.frames.length ≤ 17 && c.frames.all (fun f => f.length = n)
    && (c.frames.isEmpty || c.status = .ok || c.status = .formatFallback)

/-- The carried entries are of consecutive steps. -/
def consecutive : List CarriedEntry → Bool
  | a :: b :: rest => a.step + 1 = b.step && consecutive (b :: rest)
  | _ => true

/-- The streams of the frames of a replay area: those of the request it names. -/
def replayStreams (s : State) (d : StepDesc) : Nat := match d.entries with
  | e :: _ => (match s.byHandle e.handle with
    | some x => x.2.nstream
    | none => ((d.replay.flatMap (·.frames)).head?.map List.length).getD 1)
  | [] => 1

/-- No two entries name one handle. -/
def distinctHandles : List StepEntry → Bool
  | [] => true
  | e :: es => es.all (fun x => x.handle ≠ e.handle) && distinctHandles es

/-- A descriptor is well formed, but for its target. -/
def descFormed (s : State) (d : StepDesc) : Bool :=
  1 ≤ d.kind && d.kind ≤ 3 && 1 ≤ d.entries.length && d.entries.length ≤ 512 && d.hints.length ≤ 4096
    && (d.kind ≠ 3 || d.entries.length = 1) && d.length = descLength d && d.entries.all (ntokOk d) && distinctHandles d.entries
    && (d.kind = 3 || d.replay.isEmpty) && consecutive d.replay && d.replay.all (carriedOk (replayStreams s d))

/-- The refusal of a whole descriptor taken from a ring whose entry gives a body of `len` bytes, none where it is not refused
(R311): role, then malformation, then access. -/
def descRefusal (s : State) (o r len : Nat) (d : StepDesc) : Option Status :=
  if s.role = 0 || s.role = 3 then some .admitDenied
  else if !descFormed s d || len ≠ descLength d then some .transportError
  else match (s.pallet d.pallet).loaded with
    | none => some .accessDenied
    | some l =>
      if d.arrTarget ≠ descTarget d l.manifest then some .transportError
      else if !s.ownsPallet o d.pallet || (s.ring o r).pallet ≠ d.pallet.val || d.imageId ≠ l.manifest.imageId
          || l.manifest.kind ≠ (if d.kind = 2 then 2 else 1) then some .accessDenied
      else none

/-! ## Taking descriptors -/

/-- Descriptors visible in a STEP ring and not taken. -/
def State.descsOf (s : State) (k : Nat) : List StepDesc := NMap.get [] s.asc.descs k

def State.setDescs (s : State) (k : Nat) (l : List StepDesc) : State :=
  { s with asc := { s.asc with descs := NMap.put [] s.asc.descs k l } }

/-- Takes the descriptor at HEAD of ring number k, with the body length that its entry gives. -/
def takeDesc (s : State) (k : Nat) : Option (StepDesc × Nat × State) := match s.descsOf k with
  | [] => none
  | d :: ds =>
    let o := k / 64
    let r := k % 64
    let v := s.ring o r
    let len := s.winNat o (v.entryAddr v.head + 8) 4
    some (d, len, (s.setDescs k ds).setRing o r { v with head := (v.head + 1) % 2 ^ 32, taken := v.taken + 1 })

/-- Refuses a taken descriptor (R311). -/
def refuseDesc (s : State) (k : Nat) (d : StepDesc) (st : Status) : State :=
  let x := refusedRecord (s.bump Obj.SCH_DESC_REFUSED d.pallet) d st
  postResult x.2 (k / 64) (k % 64) x.1

/-- While the role is UNASSIGNED or CACHE, every visible descriptor of a ring is taken and refused: `n` bounds their number. -/
def refuseVisible : Nat → Nat → State → State
  | 0, _, s => s
  | n + 1, k, s => match takeDesc s k with
    | none => s
    | some (d, _, s) => refuseVisible n k (refuseDesc s k d .admitDenied)

/-- The cost of a ring's head descriptor (R324): the shares of its resident entries in parts per million, at least 1. -/
def descCost (s : State) (d : StepDesc) : Nat :=
  max 1 (sumOf d.entries (fun e => match s.byHandle e.handle with
    | some x => (s.reqLocal x.1).load.share
    | none => 0))

/-- The classification of a STEP ring, made when it first becomes ready and kept for its life (R323). -/
def ringClassify (s : State) (k : Nat) : Nat × State := match NMap.get? s.asc.ringClass k with
  | some c => (c, s)
  | none =>
    let c := classify s (classKey (k / 64) (s.ring (k / 64) (k % 64)).pallet (k % 64) 0 0 s.moduleNum 0)
    (c.1, { c.2 with asc := { c.2.asc with ringClass := NMap.ins c.2.asc.ringClass k c.1 } })

/-- A ring with a visible descriptor enters its step domain. -/
def enterDomain (s : State) (k : Nat) : State := match s.descsOf k with
  | [] => s
  | d :: _ =>
    let p := (s.ring (k / 64) (k % 64)).pallet
    if s.inOrder p k then s
    else
      let c := ringClassify s k
      fairInsert c.2 p k (descCost s d) (c.2.classWeight c.1) true

/-- STEP: the next visible entry of a STEP ring shows its descriptor. An entry with another opcode puts the ring in ERROR
(log entry 69). -/
def stepVisible (o r : Nat) (d : StepDesc) (s : State) : State :=
  let v := s.ring o r
  let k := o * 64 + r
  let ds := s.descsOf k
  if !(v.active && v.kind == 2 && !v.draining) || (v.visible + 2 ^ 32 - v.head) % 2 ^ 32 ≤ ds.length then s
  else if s.winNat o (v.entryAddr (v.head + ds.length)) 1 ≠ 0x40 then ringError s o r .transportError
  else
    let s := s.setDescs k (ds ++ [d])
    if s.role = 0 || s.role = 3 then refuseVisible (ds.length + 1) k s else enterDomain s k

def execStep (o : OwnerNo) (r : RingNo) (d : StepDesc) (t : Nat) (s : State) : Outcome := .next (stepVisible o r d (s.at t))

end Sys2Proof.Machine
end

