-- ==== Sys2Proof/Machine/Mailbox.lean ====
section
/-! DEFINITION. The CXL memory-device and FM API commands (R361, R376), HDM decoders (R360) and accesses to the windows (R362,
R363). Where only the CXL specification gives the bytes of an answer, they are free values; the fields the manual names lie at
the places that CXL 2.0 gives them. -/

namespace Sys2Proof.Machine

/-! ## Answers -/

/-- Answers a mailbox command; before the mailboxes open nothing is served. -/
def State.mbox (s : State) (o : Nat) (ret : MboxRet) (data : List Byte) : State :=
  if s.running then s.emit (.mailbox o ret data) else s

/-- `n` bytes of an answer that only the CXL specification gives. -/
def cxlBytes (op o n : Nat) : List Byte := (List.range n).map (Config.cxlByte op o)

/-- Puts bytes into an answer at an offset. -/
def putAt (bs : List Byte) (off : Nat) (x : List Byte) : List Byte := bs.take off ++ x ++ bs.drop (off + x.length)

/-- An LD's window in units of 256 MiB. -/
def State.windowUnits (s : State) (o : Nat) : Nat := (s.ld o).hdmMib / 256

/-! ## Memory-device commands (R376) -/

/-- IDENTIFY: vendor, device and serial number. -/
def execIdentify (o : OwnerNo) (s : State) : Outcome :=
  .next (s.mbox o .success (putAt (putAt (cxlBytes 0x0001 o 18) 0 (pack [(0x1F3A, 2), (0x4810, 2)])) 8 (toBytes 8 s.kiln.serial)))

/-- A record of an event log: its handle, the device physical address and memory event type ECC error (R363). -/
def eventRecord (o : Nat) (e : Nat × Nat × Nat) : List Byte :=
  putAt (putAt (putAt (cxlBytes 0x0100 o 128) 0x14 (toBytes 2 e.1)) 0x30 (toBytes 8 e.2.1)) 0x39 (toBytes 1 0)

/-- GET_EVENT_RECORDS: the records of a log, oldest first. -/
def execGetEventRecords (o : LdNo) (log : Fin 4) (s : State) : Outcome :=
  .next (
    let es := NMap.get [] (s.ld o).logs log
    s.mbox o .success (putAt (cxlBytes 0x0100 o 32) 20 (toBytes 2 es.length) ++ es.flatMap (eventRecord o)))

/-- CLEAR_EVENT_RECORDS: the records named, or all. A handle that names no record is invalid, and nothing is cleared. -/
def clearEvents (o log : Nat) (all : Bool) (handles : List Nat) (s : State) : State :=
  let es := NMap.get [] (s.ld o).logs log
  if !s.running then s
  else if all then
    (s.onLd o (fun d => { d with logs := NMap.put [] d.logs log [] })).mbox o .success []
  else if handles.all (fun h => es.any (fun e => e.1 == h)) then
    (s.onLd o (fun d => { d with logs := NMap.put [] d.logs log (es.filter (fun e => !handles.contains e.1)) })).mbox o .success []
  else s.mbox o .invalidInput []

def execClearEventRecords (o : LdNo) (log : Fin 4) (all : Bool) (handles : List Nat) (s : State) : Outcome :=
  .next (clearEvents o log all handles s)

/-- GET_EVENT_INTERRUPT_POLICY: one byte for each of the four logs. -/
def execGetEventInterruptPolicy (o : LdNo) (s : State) : Outcome := .next (s.mbox o .success (padTo 4 (s.ld o).policy))

/-- SET_EVENT_INTERRUPT_POLICY. -/
def setPolicy (o : Nat) (policy : List Byte) (s : State) : State :=
  if !s.running then s
  else if policy.length = 4 then (s.onLd o (fun d => { d with policy := policy })).mbox o .success []
  else s.mbox o .invalidInput []

def execSetEventInterruptPolicy (o : LdNo) (policy : List Byte) (s : State) : Outcome := .next (setPolicy o policy s)

def execGetFwInfo (o : LdNo) (s : State) : Outcome := .next (s.mbox o .success (cxlBytes 0x0200 o 0x50))

/-- GET_TIMESTAMP: TIME64 in the CXL epoch. -/
def execGetTimestamp (o : LdNo) (t : Nat) (s : State) : Outcome :=
  .next (let s := s.at t
    s.mbox o .success (toBytes 8 (Config.cxlTime s.now)))

def execGetSupportedLogs (o : LdNo) (s : State) : Outcome := .next (s.mbox o .success (cxlBytes 0x0400 o 28))

/-- GET_LOG: bytes of a log. -/
def execGetLog (o : LdNo) (log offset length : Nat) (s : State) : Outcome :=
  .next (s.mbox o .success ((List.range length).map (fun i => Config.cxlByte 0x0401 o (log * 2 ^ 64 + offset + i))))

/-- IDENTIFY_MEMORY_DEVICE: total and volatile capacity equal to the allocation, no persistent capacity. -/
def execIdentifyMemoryDevice (o : LdNo) (s : State) : Outcome :=
  .next (s.mbox o .success (putAt (cxlBytes 0x4000 o 0x43) 0x10
    (pack [(s.windowUnits o, 8), (s.windowUnits o, 8), (0, 8)])))

/-- GET_PARTITION_INFO: active volatile capacity equal to the allocation, no persistent capacity, and no change to come. -/
def execGetPartitionInfo (o : LdNo) (s : State) : Outcome :=
  .next (s.mbox o .success (pack [(s.windowUnits o, 8), (0, 24)]))

def execGetHealthInfo (o : LdNo) (s : State) : Outcome := .next (s.mbox o .success (cxlBytes 0x4200 o 18))

def execTransferFw (o : LdNo) (s : State) : Outcome := .next (s.mbox o .unsupported [])
def execActivateFw (o : LdNo) (s : State) : Outcome := .next (s.mbox o .unsupported [])
def execSetTimestamp (o : LdNo) (s : State) : Outcome := .next (s.mbox o .unsupported [])
def execGetPoisonList (o : LdNo) (s : State) : Outcome := .next (s.mbox o .unsupported [])
def execInjectPoison (o : LdNo) (s : State) : Outcome := .next (s.mbox o .unsupported [])
def execClearPoison (o : LdNo) (s : State) : Outcome := .next (s.mbox o .unsupported [])

/-! ## FM API commands (R361) -/

/-- The window size that a Set LD Allocations gives an LD. -/
def newAlloc (s : State) (start : Nat) (mib : List Nat) (o : Nat) : Nat :=
  if start ≤ o then (mib[o - start]?).getD (s.ld o).hdmMib else (s.ld o).hdmMib

/-- An allocation is accepted: multiples of 256 MiB, within the pool, changing no LD whose decoder is committed. -/
def allocOk (s : State) (start : Nat) (mib : List Nat) : Bool :=
  start + mib.length ≤ 16 && mib.all (fun m => m % 256 = 0)
    && sumOf (List.range 16) (newAlloc s start mib) ≤ s.obj Obj.HST_HDM_POOL_MIB 0
    && (List.range 16).all (fun o => !(s.ld o).decoderCommitted || newAlloc s start mib o = (s.ld o).hdmMib)

/-- Applies an allocation to one LD. -/
def setAlloc (start : Nat) (mib : List Nat) (s : State) (o : Nat) : State :=
  let m := newAlloc s start mib o
  (s.onLd o (fun d => { d with hdmMib := m })).setObj Obj.HST_LD_ALLOC_MIB o m

/-- The allocations of LDs, as Get LD Allocations gives them: two U64 each, in units of 256 MiB. -/
def allocBytes (s : State) (start count : Nat) : List Byte :=
  pack [(16, 1), (0, 1), (start, 1), (count, 1)]
    ++ (List.range count).flatMap (fun i => pack [(s.windowUnits (start + i), 8), (0, 8)])

/-- SET_LD_ALLOCATIONS, on the FM-owned LD. -/
def setAllocations (start : Nat) (mib : List Nat) (s : State) : State :=
  if !s.running then s
  else if allocOk s start mib then
    let s := (List.range 16).foldl (setAlloc start mib) s
    s.mbox 16 .success (allocBytes s start mib.length)
  else s.mbox 16 .invalidInput []

def execSetLdAllocations (start : LdNo) (mib : List Nat) (s : State) : Outcome := .next (setAllocations start mib s)

/-- GET_LD_INFO: the size of the pool in bytes and the number of LDs. -/
def execGetLdInfo (s : State) : Outcome :=
  .next (s.mbox 16 .success (pack [(s.obj Obj.HST_HDM_POOL_MIB 0 * 2 ^ 20, 8), (16, 2)] ++ cxlBytes 0x5400 16 1))

def execGetLdAllocations (start : LdNo) (count : Nat) (s : State) : Outcome :=
  .next (s.mbox 16 .success (allocBytes s start (min count (16 - start))))

/-- QOS_TELEMETRY: reads or sets the allocated-bandwidth fractions of LDs from `start`. -/
def qosTelemetry (start : Nat) (set : Option (List Nat)) (s : State) : State :=
  let answer := fun (s : State) (n : Nat) =>
    s.mbox 16 .success (pack [(n, 1), (start, 1)] ++ (List.range n).flatMap (fun i => toBytes 1 (s.ld (start + i)).qosFraction))
  if !s.running then s
  else match set with
    | none => answer s (16 - start)
    | some fs =>
      if start + fs.length ≤ 16 then
        answer (fs.zipIdx.foldl (fun s (e : Nat × Nat) => s.onLd (start + e.2) (fun d => { d with qosFraction := e.1 })) s) fs.length
      else s.mbox 16 .invalidInput []

def execQosTelemetry (start : LdNo) (set : Option (List Nat)) (s : State) : Outcome := .next (qosTelemetry start set s)

/-! ## HDM windows (R360, R362, R363) -/

/-- HDM_DECODER_COMMIT: 1-way interleave, and a granularity that CXL 2.0 permits; else Error Not Committed. -/
def decoderCommit (o iw ig : Nat) (s : State) : State :=
  if iw = 0 && ig ≤ 6 then s.onLd o (fun d => { d with decoderCommitted := true, decoderError := false, decoderIg := ig })
  else s.onLd o (fun d => { d with decoderCommitted := false, decoderError := true })

def execHdmDecoderCommit (o : LdNo) (iw ig : Nat) (s : State) : Outcome := .next (decoderCommit o iw ig s)

/-- The line that holds an HDM address lies in the LD's window. -/
def inWindow (s : State) (o addr : Nat) : Bool := addr / 64 * 64 + 64 ≤ s.winSize o

/-- A read of a line: from the first copy, or the second where the first is bad, which is then rewritten; all-ones where both
are. -/
def memRead64 (o addr : Nat) (bad0 bad1 : Bool) (s : State) : State :=
  let line := addr / 64 * 64
  if bad0 && bad1 then (mirrorLost s o line false).emit (.cxlData o line (List.replicate 64 0xFF))
  else
    let s' := if bad0 then s.bump Obj.HST_MIRROR_CORR o else s
    s'.emit (.cxlData o line (s.winRead o line 64))

def execCxlMemRead (o : LdNo) (addr : Nat) (bad0 bad1 : Bool) (t : Nat) (s : State) : Outcome :=
  if inWindow s o addr then .next (memRead64 o addr bad0 bad1 (s.at t)) else .fault .outsideWindow

/-- A write of a line completes once both copies are stored. -/
def memWrite64 (o addr : Nat) (line : List Byte) (s : State) : State :=
  let a := addr / 64 * 64
  (s.winWrite o a (padTo 64 line)).emit (.cxlDone o a)

def execCxlMemWrite (o : LdNo) (addr : Nat) (line : List Byte) (s : State) : Outcome :=
  if inWindow s o addr then .next (memWrite64 o addr line s) else .fault .outsideWindow

end Sys2Proof.Machine
end

