-- ==== Sys2Proof/Machine/Groups.lean ====
section
/-! DEFINITION. Captured groups of staged objects (R386 to R389): their commit points, the cross-object checks, and what the
application of a group does beside setting its values. -/

namespace Sys2Proof.Machine

def keyOid (k : Nat) : Nat := k / 2 ^ 32
def keyInst (k : Nat) : Nat := k % 2 ^ 32

/-- The value of an instance once a group is applied. -/
def Group.obj (g : Group) (s : State) (oid inst : Nat) : Nat := (NMap.get? g.items (objKey oid inst)).getD (s.obj oid inst)

/-- A group holds an object. -/
def Group.names (g : Group) (oid : Nat) : Bool := g.items.any (fun e => keyOid e.1 == oid)

/-! ## Commit points (R387, R388) -/

/-- Pallets whose rectangle a geometry group changes. -/
def Group.changed (g : Group) (s : State) : List Nat :=
  (List.range 16).filter (fun p => g.obj s Obj.PAL_GEOMETRY p ≠ s.obj Obj.PAL_GEOMETRY p)

/-- No step of a pallet runs. -/
def State.calm (s : State) (p : Nat) : Bool := (s.pallet p).run.isNone

/-- The idle point of the module (R4). -/
def State.idle (s : State) : Bool := s.pallets.all (fun e => e.2.run.isNone)

/-- A group is at its commit point. PAL_IMAGE waits out LOADING and SAVING (R497). -/
def Group.reached (g : Group) (s : State) : Bool := match g.point with
  | .geometry => (g.changed s).all s.calm
  | .palletIdle => match g.pallet with
    | some p => s.calm p && ((s.pallet p).state == .ready || (s.pallet p).state == .empty || (s.pallet p).state == .halted)
    | none => false
  | .stepBoundary => match g.pallet with
    | some p => s.calm p
    | none => s.idle
  | .idle => s.idle
  | _ => false

/-- A captured group keeps steps from starting on a pallet (R47, R388). -/
def Group.holds (g : Group) (s : State) (p : Nat) : Bool := match g.point with
  | .geometry => (g.changed s).contains p
  | .palletIdle => g.pallet == some p
  | .stepBoundary => g.pallet == some p || g.pallet == none
  | .idle => true
  | _ => false

/-! ## Cross-object checks (R389) -/

/-- A brick is marked in ERR_BRICK_FAILED. -/
def State.marked (s : State) (b : Nat) : Bool := bitOf (s.obj Obj.ERR_BRICK_FAILED 0) b

/-- Two rectangles share a brick. -/
def Rect.overlaps (a b : Rect) : Bool :=
  a.size ≠ 0 && b.size ≠ 0 && a.col0 < b.col0 + b.ncol && b.col0 < a.col0 + a.ncol && a.course0 < b.course0 + b.ncourse
    && b.course0 < a.course0 + a.ncourse

/-- A rectangle agrees with R46 by itself, and holds no marked brick (R205, R419). -/
def rectOk (s : State) (r : Rect) : Bool :=
  r.col0 + r.ncol ≤ 40 && r.course0 + r.ncourse ≤ 30 && (r.ncol == 0) == (r.ncourse == 0) && !r.bricks.any s.marked

/-- The variant of a manifest for a number of columns. -/
def variant? (m : Manifest) (ncol : Nat) : Option (Nat × List Nat) := List.find? (fun v => v.1 == ncol) m.variants

/-- A pallet's loaded image runs on a rectangle (R321). -/
def imageFits (s : State) (p : Nat) (r : Rect) : Bool := match (s.pallet p).loaded with
  | none => true
  | some l => (variant? l.manifest r.ncol).isSome && l.manifest.ncourse = r.ncourse

/-- The whole set of 16 rectangles (R46, R321). -/
def geometryOk (s : State) (rects : List Rect) : Bool :=
  rects.all (rectOk s) && rects.zipIdx.all (fun e => imageFits s e.2 e.1)
    && rects.zipIdx.all (fun a => rects.zipIdx.all (fun b => b.2 ≤ a.2 || !a.1.overlaps b.1))

/-- A tree shape (R110). -/
def shapeOk (n shape : Nat) : Bool :=
  let parent := fun (i : Nat) => bitsOf shape (8 * i) 8
  let depths := (List.range n).foldl (fun (ds : List Nat) i => ds ++ [if i = 0 then 0 else ds.getD (parent i) 0 + 1]) []
  parent 0 = 0xFF && (List.range n).all (fun i => i = 0 || parent i < i) && depths.all (· ≤ 16)

/-- The selection objects of a pallet (R102). -/
def selectionOk (g : Group) (s : State) (p : Nat) : Bool :=
  g.obj s Obj.ATT_SINK_PAGES p + g.obj s Obj.ATT_RECENT_PAGES p + g.obj s Obj.ATT_SEL_PAGES p ≤ g.obj s Obj.ATT_DENSE_LIMIT p

/-- The members that an RQS_COPY_GROUP value names. -/
def groupMembers (v : Nat) : List Nat := (List.range 6).map (fun i => bitsOf v (16 * i) 16)

/-- A change of a pallet's copy group suits the requests that would follow it (R154, log entry 76). -/
def copyGroupOk (g : Group) (s : State) (p : Nat) : Bool :=
  let old := s.copyGroupOf p
  let new := groupMembers (g.obj s Obj.RQS_COPY_GROUP p)
  groupChangeOk old new || !(s.requestsOf p).any (fun e => e.2.copyGroup == old)

/-- Two windows share a page. -/
def Window.overlaps (a b : Window) : Bool :=
  a.va / 8192 < b.va / 8192 + b.npages && b.va / 8192 < a.va / 8192 + a.npages

/-- The windows of a pallet with a group applied (R275). -/
def Group.windows (g : Group) (s : State) (p : Nat) : List (Nat × Window) :=
  let new := (g.items.filter (fun e => keyOid e.1 == Obj.RMF_WINDOW && keyInst e.1 / 4096 == p)).map
    (fun e => (keyInst e.1 % 4096, windowOf e.2))
  (s.windows p).filter (fun w => new.all (fun x => x.1 ≠ w.1)) ++ new.filter (fun x => x.2.v)

/-- A mapped window lies in SCRATCH, within its region, and shares no page with another (R275). -/
def windowOk (s : State) (all : List (Nat × Window)) (w : Nat × Window) : Bool :=
  let len := match s.record? s.curEpoch 2 w.2.region with
    | some r => r.length
    | none => 0
  0x200000000000 ≤ w.2.va && w.2.va + w.2.npages * 8192 ≤ 0x400000000000 && (w.2.page0 + w.2.npages) * 8192 ≤ len
    && all.all (fun x => x.1 = w.1 || !x.2.overlaps w.2)

/-- The windows that a group names. -/
def windowsOk (g : Group) (s : State) (p : Nat) : Bool :=
  let all := g.windows s p
  all.all (fun w => (NMap.get? g.items (objKey Obj.RMF_WINDOW (p * 4096 + w.1))).isNone || windowOk s all w)

/-- The checks of a group of a pallet's step boundary. -/
def boundaryOk (g : Group) (s : State) (p : Nat) : Bool :=
  (!(g.names Obj.ATT_SINK_PAGES || g.names Obj.ATT_RECENT_PAGES || g.names Obj.ATT_SEL_PAGES || g.names Obj.ATT_DENSE_LIMIT)
    || selectionOk g s p)
  && (!(g.names Obj.DRF_NODES || g.names Obj.DRF_SHAPE) || shapeOk (g.obj s Obj.DRF_NODES p) (g.obj s Obj.DRF_SHAPE p))
  && (!g.names Obj.RQS_COPY_GROUP || copyGroupOk g s p)
  && (!g.names Obj.RMF_WINDOW || windowsOk g s p)

/-- The pool holds the current allocations of the LDs (R380). -/
def poolOk (g : Group) (s : State) : Bool :=
  sumOf (List.range 16) (fun o => (s.ld o).hdmMib) ≤ g.obj s Obj.HST_HDM_POOL_MIB 0

/-- The sum of R332. -/
def sharesOk (g : Group) (s : State) : Bool := sumOf (List.range 16) (g.obj s Obj.SCH_HBM_SHARE_PM) ≤ 1000

/-- A shaper's commit (R328). -/
def shaperOk' (g : Group) (s : State) : Bool :=
  g.items.all (fun e => s.obj Obj.SCH_QUANTUM 0 ≤ bitsOf e.2 64 32)

/-- A PAL_IMAGE value would load an image into a pallet that holds a marked brick (R419). -/
def markedLoad (s : State) (p v : Nat) : Bool := bitsOf v 0 48 ≠ 0 && (s.rect p).bricks.any s.marked

/-- The checks of a group (R389). -/
def Group.ok (g : Group) (s : State) : Bool := match g.point, g.pallet with
  | .geometry, _ => geometryOk s ((List.range 16).map (fun p => rectOf (g.obj s Obj.PAL_GEOMETRY p)))
  | .stepBoundary, some p => boundaryOk g s p
  | .idle, _ => (!g.names Obj.SCH_HBM_SHARE_PM || sharesOk g s) && (!g.names Obj.HST_HDM_POOL_MIB || poolOk g s)
  | .refill, _ => shaperOk' g s
  | .palletIdle, some p => !markedLoad s p (g.obj s Obj.PAL_IMAGE p)
  | _, _ => true

/-! ## Refusal and application -/

/-- A group has left the waiting groups. -/
def dropGroup (s : State) (g : Group) : State :=
  { s with dict := { s.dict with groups := s.dict.groups.filter (fun x => x.id ≠ g.id) } }

/-- The refusal of a group (R389): every object keeps its value, the first object is named, and it is counted. -/
def refuseGroup (s : State) (g : Group) : State :=
  let s := dropGroup s g
  ({ s with dict := { s.dict with
      refId := g.commit, refKey := ((List.head? g.items).map (fun (e : Nat × Nat) => e.1)).getD 0, refStatus := statusCode .accessDenied } }).bump
    Obj.BRK_COMMIT_REFUSED 0

/-- Before a group changes anything: a final record under the old selection (R438), and the copies of a window's old pages go
(R170, R275). -/
def beforeItem (s : State) (k : Nat) : State :=
  let i := keyInst k
  if keyOid k = Obj.OBS_CNT_SELECT then cntRecord s i 3 false (s.cmdId i)
  else if keyOid k = Obj.OBS_CNT_GLOBAL_SELECT then cntRecord s 16 3 false 0
  else if keyOid k = Obj.RMF_WINDOW then
    let p := i / 4096
    let w := windowOf (s.obj Obj.RMF_WINDOW i)
    let gone := fun (key : Nat) => p * 2 ^ 35 + w.va / 8192 ≤ key && key < p * 2 ^ 35 + w.va / 8192 + w.npages
    if !w.v then s
    else { s with array := { s.array with bricks := s.array.bricks.map (fun (e : Nat × Brick) =>
      (e.1, { e.2 with
        tlb := e.2.tlb.filter (fun key => !gone key), prefetched := e.2.prefetched.filter (fun q => !gone q.1),
        walks := e.2.walks.filter (fun x => !(p * 2 ^ 25 + w.va / 2 ^ 23 ≤ x
          && x ≤ p * 2 ^ 25 + (w.va + w.npages * 8192 - 1) / 2 ^ 23)) })) } }
  else s

/-- The requests that followed a pallet's copy group take the new one (R154). -/
def followGroup (s : State) (p : Nat) (old : List Nat) : State :=
  let new := s.copyGroupOf p
  if old = new then s
  else (s.requestsOf p).foldl (fun s e => if e.2.copyGroup = old then setGroup s e.1 new else s) s

/-- ORDER and CLASSIFY are emptied (R288). -/
def emptyTables (s : State) : State :=
  { s with
    asc := { s.asc with order := [], waiting := [] },
    dict := { s.dict with vals := s.dict.vals.filter (fun e => keyOid e.1 ≠ Obj.ASC_RULE) } }

/-- A role that takes no steps refuses every visible descriptor (R311, R372). -/
def roleChanged (s : State) : State :=
  if s.role = 0 || s.role = 3 then
    s.asc.descs.foldl (fun s e =>
      refuseVisible e.2.length e.1 (orderDrop s (s.ring (e.1 / 64) (e.1 % 64)).pallet e.1)) s
  else s

/-- The entries that lead to a window's leaves become valid (R275). -/
def linkWindow (s : State) (p : Nat) (w : Window) : State :=
  if !w.v then s
  else
    let first := w.va / 2 ^ 23
    let last := (w.va + w.npages * 8192 - 1) / 2 ^ 23
    (List.range (last + 1 - first)).foldl (fun s k => s.linkPage p ((first + k) * 2 ^ 23)) s

/-- What an object's new value does beside standing there; `s0` is the state before the group. -/
def afterItem (s0 s : State) (k : Nat) : State :=
  let i := keyInst k
  let oid := keyOid k
  if oid = Obj.OBS_CNT_SELECT then cntReset s i
  else if oid = Obj.ASC_RULE then s.bump Obj.ASC_UPDATES 0
  else if oid = Obj.OBS_CNT_GLOBAL_SELECT then cntReset s 16
  else if oid = Obj.OBS_PC_PERIOD_NS then { s with obs := { s.obs with pcNext := NMap.put 0 s.obs.pcNext i 0 } }
  else if oid = Obj.OBS_PC_BUF_KIB then
    if s0.obj oid i = s.obj oid i then s else { s with obs := { s.obs with pcBufs := NMap.put [] s.obs.pcBufs i [] } }
  else if oid = Obj.RMF_WINDOW then linkWindow s (i / 4096) (windowOf (s.obj oid i))
  else if oid = Obj.MEM_PREFETCH_KIB then trimPrefetch s i
  else if oid = Obj.TB_SOURCE_ORDER then reselect s
  else if oid = Obj.RQS_COPY_GROUP then followGroup s i (s0.copyGroupOf i)
  else if oid = Obj.ASC_TABLE_BLOCKS then emptyTables s
  else if oid = Obj.BRK_NODE_ROLE then roleChanged s
  else if oid = Obj.BRK_VDP_PORT then
    if s0.obj oid i = s.obj oid i then s else (s.vdp.sessions.map (fun (e : Nat × Session) => e.1)).foldl sendClose s
  else s

/-- Sets the values of a group, with all they do. -/
def setItems (s : State) (g : Group) : State :=
  let s0 := g.items.foldl (fun s e => beforeItem s e.1) s
  let s1 := g.items.foldl (fun s e => s.setObj (keyOid e.1) (keyInst e.1) e.2) s0
  g.items.foldl (fun s e => afterItem s0 s e.1) s1

/-- Applies a group of a step boundary or of the idle point, or refuses it. -/
def applyGroup (s : State) (g : Group) : State := if g.ok s then setItems (dropGroup s g) g else refuseGroup s g

/-- The groups of a pallet's step boundary, in order of capture (R41). -/
def boundaryGroups (s : State) (p : Nat) : State :=
  (s.dict.groups.filter (fun g => g.point == .stepBoundary && g.pallet == some p)).foldl applyGroup s

end Sys2Proof.Machine
end

