-- ==== Sys2Proof/Machine/Pallets.lean ====
section
/-! DEFINITION. Pallet images (R318 to R320, R497), geometry (R45 to R47, R321), balance moves (R322), and the application of
captured groups. -/

namespace Sys2Proof.Machine

/-! ## Unloading and loading (R319) -/

/-- Bricks with their brick stores and accumulator files zeroed. -/
def zeroBricks (s : State) (bs : List Nat) : State := bs.foldl (fun s b => s.setBrick b Brick.reset) s

/-- A pallet becomes EMPTY without an image. -/
def emptyPallet (s : State) (p : Nat) : State :=
  s.onPallet p (fun q => { q with state := .empty, loaded := none, change := none, retest := none })

/-- R354, item 7: unloaded at the idle point without a save, stores zeroed; its saves go too (R303). -/
def unloadPallet (s : State) (p : Nat) : State :=
  let s := zeroBricks s (s.rect p).bricks
  (emptyPallet s p).onPallet p (fun q => { q with unload := false, saves := [] })

/-- The image installed at an address, for the pallet's rectangle; none where the manifest is refused (R319, R497). -/
def loadedFor (s : State) (p image : Nat) : Option Loaded :=
  match (s.pallet p).installed.find? (fun x => x.addr == image) with
  | none => none
  | some x =>
    let m := x.manifest
    let g := s.rect p
    if m.magic ≠ 0x4C50 || m.version ≠ 1 || m.ncourse ≠ g.ncourse || !s.vMapped p image 1 then none
    else (variant? m g.ncol).map (fun v =>
      { addr := image, manifest := m, ncol := g.ncol, entries := v.2, digest := x.digest, keyslot := x.keyslot })

/-- The counters, rack slots and cores of bricks as a pallet enters LOADING: every counter IDLE (R44). -/
def freshBricks (s : State) (bs : List Nat) : State :=
  let s := { s with
    array := { s.array with counters := s.array.counters.filter (fun e => !bs.contains (e.1 / 64)) },
    rmf := { s.rmf with rack := s.rmf.rack.filter (fun e => !bs.contains (e.1 / 16)) } }
  bs.foldl (fun s b => s.setBrick b { Brick.reset with store := (s.brick b).store, acc := (s.brick b).acc }) s

/-- The brick that a march test repeats at the next load (R419). -/
def retestBrick (q : Pallet) : Option Nat := match q.fault with
  | some f => if q.faulted && f.cause = 4 && f.brickV then some f.brick else none
  | none => none

/-- A pallet enters LOADING: counted, and a new first-fault period begins (R410, R497). -/
def enterLoading (s : State) (p : Nat) (l : Loaded) (restore : Option Nat) : State :=
  let s := freshBricks (s.bump Obj.PAL_LOADS p) (s.rect p).bricks
  s.onPallet p (fun q => { q with
    state := .loading, loaded := some l, retest := retestBrick q, faulted := false,
    change := some { target := some l, saveSlot := none, restoreSlot := restore } })

/-! ## PAL_IMAGE (R319, R419, R497) -/

/-- An accepted PAL_IMAGE value acts as its pallet's state gives. -/
def imageAct (s : State) (p : Nat) (v : Nat) (l : Option Loaded) : State :=
  let q := s.pallet p
  let restore := if bitOf v 76 then some (bitsOf v 72 4) else none
  if q.state = .empty then
    match l with
    | some l => enterLoading s p l restore
    | none => s
  else
    let save := if q.state = .ready && bitOf v 68 then some (bitsOf v 64 4) else none
    s.setPallet p { q with state := .saving, change := some { target := l, saveSlot := save, restoreSlot := restore } }

/-- Applies a PAL_IMAGE group. A marked brick refuses the group (R389, R419); a bad manifest refuses the commit, which counts in
PAL_LOAD_REFUSED alone (R497). -/
def applyImage (s : State) (p : Nat) (g : Group) : State :=
  let v := g.obj s Obj.PAL_IMAGE p
  let image := bitsOf v 0 48
  if !g.ok s then refuseGroup (s.bump Obj.PAL_LOAD_REFUSED p) g
  else if image = 0 then imageAct (setItems (dropGroup s g) g) p v none
  else match loadedFor s p image with
    | none => (dropGroup s g).bump Obj.PAL_LOAD_REFUSED p
    | some l => imageAct (setItems (dropGroup s g) g) p v (some l)

/-- PAL_IMAGE_APPLY: the pallet's oldest PAL_IMAGE group, once it is at its idle point. -/
def palImageApply (p : Nat) (s : State) : State :=
  match s.dict.groups.find? (fun g => g.point == .palletIdle && g.pallet == some p) with
  | none => s
  | some g => if g.reached s then applyImage s p g else s

def execPalImageApply (p : PalletNo) (t : Nat) (s : State) : Outcome := .next (palImageApply p (s.at t))

/-- Stores a save: the header's values and every brick's memories by relative number. -/
def savePallet (s : State) (p slot : Nat) : State :=
  let g := s.rect p
  match (s.pallet p).loaded with
  | none => s
  | some l =>
    let v : Save :=
      { imageId := l.manifest.imageId, ncol := g.ncol, ncourse := g.ncourse,
        stores := (List.range g.size).map (fun i => (i, ((s.brick (g.brick i)).store, (s.brick (g.brick i)).acc))) }
    s.onPallet p (fun q => { q with saves := NMap.ins q.saves slot v })

/-- PALLET_SAVE_DONE: the flush and any save are complete; the pallet loads, or stops. Scratch that is not written back yet holds
it (R175). -/
def palletSaveDone (p : Nat) (s : State) : State :=
  let q := s.pallet p
  match q.state, q.change with
  | .saving, some c =>
    if !scratchClean s p then s
    else
      let s := match c.saveSlot with
        | some k => savePallet s p k
        | none => s
      (match c.target with
        | none => emptyPallet s p
        | some l => enterLoading s p l c.restoreSlot)
  | _, _ => s

def execPalletSaveDone (p : PalletNo) (t : Nat) (s : State) : Outcome := .next (palletSaveDone p (s.at t))

/-- The brick store of relative brick `rel` after the load records of a variant (R318). -/
def loadStore (s : State) (p : Nat) (recs : List (Nat × Nat × Nat × Nat)) (rel : Nat) : Mem :=
  (recs.filter (fun e => e.1 = rel)).foldl (fun m e => memWrite m e.2.2.1 (s.spanRead p e.2.2.2 (64 * e.2.1))) []

/-- Loads a variant: its records in order, every other byte zero. -/
def loadVariant (s : State) (p : Nat) (l : Loaded) : State :=
  let g := s.rect p
  let recs := ((List.find? (fun v => v.1 == l.ncol) l.manifest.loads).map (·.2)).getD []
  (List.range g.size).foldl (fun s i =>
    s.setBrick (g.brick i) { Brick.reset with store := loadStore s p recs i }) s

/-- Restores a save whose header agrees with the incoming image and variant. -/
def restoreSave (s : State) (p : Nat) (v : Save) : State :=
  let g := s.rect p
  (List.range g.size).foldl (fun s i =>
    let m := (NMap.get? v.stores i).getD ([], [])
    s.setBrick (g.brick i) { Brick.reset with store := m.1, acc := m.2 }) s

/-- Loads, or restores; a save that does not agree is counted and the image is loaded instead. -/
def loadOrRestore (s : State) (p : Nat) (l : Loaded) (restore : Option Nat) : State := match restore with
  | none => loadVariant s p l
  | some k => match NMap.get? (s.pallet p).saves k with
    | some v =>
      if v.imageId = l.manifest.imageId && v.ncol = l.ncol && v.ncourse = l.manifest.ncourse then restoreSave s p v
      else (loadVariant s p l).bump Obj.PAL_RESTORE_MISMATCH p
    | none => (loadVariant s p l).bump Obj.PAL_RESTORE_MISMATCH p

/-- PALLET_LOAD_DONE: READY, or EMPTY after a repeated march test that failed (R419). -/
def palletLoadDone (p : Nat) (marchOk : Bool) (s : State) : State :=
  let q := s.pallet p
  match q.state, q.change with
  | .loading, some { target := some l, restoreSlot := restore, .. } =>
    (match q.retest, marchOk with
    | some b, false => (emptyPallet (zeroBricks (markFailed s b 1) (s.rect p).bricks) p).bump Obj.PAL_LOAD_REFUSED p
    | _, _ => (loadOrRestore s p l restore).onPallet p (fun q => { q with state := .ready, change := none, retest := none }))
  | _, _ => s

def execPalletLoadDone (p : PalletNo) (marchOk : Bool) (t : Nat) (s : State) : Outcome :=
  .next (palletLoadDone p marchOk (s.at t))

/-! ## Geometry (R46, R47, R321) -/

/-- A pallet whose rectangle has changed passes through SAVING without a save to the variant for its new width (R321). -/
def reloadFor (s : State) (p : Nat) : State := match (s.pallet p).loaded with
  | none => s
  | some l =>
    let g := s.rect p
    match variant? l.manifest g.ncol with
    | none => s
    | some v => s.onPallet p (fun q => { q with
        state := .saving,
        change := some { target := some { l with ncol := g.ncol, entries := v.2 }, saveSlot := none, restoreSlot := none } })

/-- Applies a geometry set, or refuses every PAL_GEOMETRY of it. A set without a commit is a balance move (R322). -/
def applyGeometry (s : State) (g : Group) : State :=
  let moved := g.changed s
  if !g.ok s then (if g.commit = 0 then dropGroup s g else refuseGroup s g)
  else
    let s := moved.foldl reloadFor (setItems (dropGroup s g) g)
    if g.commit ≠ 0 then s
    else
      let now := s.now
      ({ s with array := { s.array with balanceAt := some now } }).bump Obj.PAL_BAL_MOVES 0

/-- GEOMETRY_APPLY: the oldest geometry set, once every pallet it changes is at a step boundary. -/
def geometryApply (s : State) : State := match s.dict.groups.find? (fun g => g.point == .geometry) with
  | none => s
  | some g => if g.reached s then applyGeometry s g else s

def execGeometryApply (t : Nat) (s : State) : Outcome := .next (geometryApply (s.at t))

/-! ## Captured groups (R387, R389) -/

/-- Applies a group that is at its commit point, by its kind. -/
def groupApply (s : State) (g : Group) : State :=
  if !g.reached s then s
  else match g.point, g.pallet with
    | .geometry, _ => applyGeometry s g
    | .palletIdle, some p => applyImage s p g
    | .palletIdle, none => s
    | _, _ => applyGroup s g

/-- COMMIT_GROUP_APPLY: a group, after every group captured before it that is at its commit point too. -/
def commitGroupApply (id : Nat) (s : State) : State :=
  (s.dict.groups.filter (fun g => g.id ≤ id)).foldl groupApply s

def execCommitGroupApply (id t : Nat) (s : State) : Outcome := .next (commitGroupApply id (s.at t))

/-! ## Balance moves (R322) -/

/-- Nanoseconds of [a, b) that a span covers. -/
def spanWithin (a b : Nat) (e : Nat × Nat) : Nat := min b e.2 - max a e.1

/-- Nanoseconds of the last PAL_BAL_WINDOW_US in which a step of a pallet ran. -/
def busyNs (s : State) (p : Nat) : Nat :=
  let q := s.pallet p
  let a := s.now - s.obj Obj.PAL_BAL_WINDOW_US 0 * 1000
  sumOf q.busy (spanWithin a s.now) + (match q.run with
    | some r => spanWithin a s.now (r.tStart, s.now)
    | none => 0)

/-- A pallet takes the brick columns of another: (its new rectangle, the other's). -/
def shiftBoundary (a b : Rect) (k : Nat) : Option (Rect × Rect) :=
  if b.ncol ≤ k then none
  else if a.col0 + a.ncol = b.col0 then
    some ({ a with ncol := a.ncol + k }, { b with col0 := b.col0 + k, ncol := b.ncol - k })
  else if b.col0 + b.ncol = a.col0 then
    some ({ a with col0 := a.col0 - k, ncol := a.ncol + k }, { b with ncol := b.ncol - k })
  else none

/-- A PAL_GEOMETRY word. -/
def Rect.word (r : Rect) : Nat := r.col0 + r.ncol * 2 ^ 6 + r.course0 * 2 ^ 12 + r.ncourse * 2 ^ 17

/-- The smallest move of the boundary that both images have variants for. -/
def balanceMove (s : State) (a b : Nat) : Option (NMap Nat) := match (s.pallet a).loaded, (s.pallet b).loaded with
  | some la, some lb =>
    let ra := s.rect a
    let rb := s.rect b
    (List.range 40).findSome? (fun i => match shiftBoundary ra rb (i + 1) with
      | none => none
      | some (x, y) =>
        if (variant? la.manifest x.ncol).isSome && (variant? lb.manifest y.ncol).isSome then
          some (NMap.ins (NMap.ins [] (objKey Obj.PAL_GEOMETRY a) x.word) (objKey Obj.PAL_GEOMETRY b) y.word)
        else none)
  | _, _ => none

/-- The two busy fractions ask for a move of columns from b to a. -/
def balanceDue (s : State) (a b : Nat) : Bool :=
  let w := s.obj Obj.PAL_BAL_WINDOW_US 0
  s.obj Obj.PAL_BAL_HIGH 0 * w ≤ busyNs s a && busyNs s b ≤ s.obj Obj.PAL_BAL_LOW 0 * w

/-- The balance pair: two pallets of equal courses that touch at one column boundary, in the HYBRID role. -/
def balancePair (s : State) (p d : Nat) : Bool :=
  s.role = 4 && p < 16 && d < 16 && p ≠ d && (s.rect p).course0 = (s.rect d).course0 && (s.rect p).ncourse = (s.rect d).ncourse
    && (s.pallet p).kind = 2 && (s.pallet d).kind = 1

/-- The check at a step boundary of a pallet of the pair: a move is captured as a geometry set of its own. -/
def balanceCheck (s : State) (at' : Nat) : State :=
  let p := s.objField Obj.PAL_BAL_PAIR 0 0 1
  let d := s.objField Obj.PAL_BAL_PAIR 0 1 1
  let rested := match s.array.balanceAt with
    | some a => a + s.obj Obj.PAL_BAL_HOLD_US 0 * 1000 ≤ s.now
    | none => true
  if s.obj Obj.PAL_BAL_ENABLE 0 ≠ 1 || !(at' == p || at' == d) || !balancePair s p d || !rested
      || s.dict.groups.any (fun g => g.point == .geometry) then s
  else
    let move := if balanceDue s p d then balanceMove s p d else if balanceDue s d p then balanceMove s d p else none
    match move with
    | none => s
    | some items =>
      let g : Group := { id := s.dict.groupNext, commit := 0, point := .geometry, pallet := none, items := items }
      { s with dict := { s.dict with groups := s.dict.groups ++ [g], groupNext := s.dict.groupNext + 1 } }

end Sys2Proof.Machine
end

