-- ==== Sys2Proof/Machine/Steps.lean ====
section
/-! DEFINITION. Steps (R13 to R17, R41, R44, R105 to R109, R140, R144, R146, R147, R150, R157, R160, R311 to R317, R493, R494): the
start of a step and the judgement of its entries, held entries, and the step boundary. -/

namespace Sys2Proof.Machine

/-! ## Entries at step start (R313) -/

/-- The arrivals of a refused entry's work (R313). -/
def refusedArrivals (s : State) (run : StepRun) (d : StepEntry) (m : Manifest) : State :=
  let c := descRule run.desc m
  deviceArrivals s run.counter run.tag (c.2.1 + c.2.2 * d.ntok)

/-- Refuses entry i of the running step with a status. A refused entry that consumes its number is a fault in the step of its
request's collective group (R282). -/
def refuseEntry (s : State) (p i : Nat) (st : Status) (nostep : Bool) : State :=
  match (s.pallet p).run, (s.pallet p).loaded with
  | some run, some l => match run.entries[i]? with
    | some e =>
      let s := (endHold s p i).onEntryRun p i (fun e => { e with
        statuses := e.statuses ++ [st], nostep := e.nostep || nostep, ended := true })
      let s := refusedArrivals s run e.d l.manifest
      match e.slot.bind s.request? with
      | some r => if e.nostep || nostep then s else collDetect s r.rid e.d.step st s.now s.moduleNum
      | none => s
    | none => s
  | _, _ => s

/-- A WHOLE move of the request has been offered and not ended (R140). -/
def movingNow (s : State) (slot : Nat) : Bool := match moveOf s slot with
  | some (_, m) => m.state ≠ .waiting
  | none => false

/-- The statuses that refuse an entry of a resident request and consume its number (R313, R147, R354). -/
def refusals (s : State) (slot : Nat) (r : Request) : List Status :=
  (if s.slotRetired r.keyslot then [.keyRetired] else [])
    ++ (if (s.reqLocal slot).release.isSome || (s.reqLocal slot).parked then [.accessDenied] else [])

/-- An entry names no work of its request: not resident in the pallet, the wrong number, a REPLAY and its request not agreeing
(R157, R313). -/
def misnamed (p : Nat) (d : StepDesc) (e : StepEntry) (r : Request) : Bool :=
  r.pallet ≠ p || r.life = .movingIn || e.step ≠ r.nextStep || ((r.life = .awaitReplay) ≠ (d.kind = 3))
    || (d.kind = 3 && (match d.replay with
      | c :: _ => decide (c.step ≠ r.nextStep)
      | [] => false))

/-- An entry is held, from now on (R13, R140). -/
def holdEntry (s : State) (p i : Nat) (why : HeldWhy) : State :=
  s.onEntryRun p i (fun e => { e with held := some why, heldAt := s.now, stalled := 0 })

/-- An entry's work may start: its increment is attached and its pending frame is there; otherwise it is refused or held. -/
def startWork (s : State) (p i : Nat) : State := match (s.pallet p).run with
  | none => s
  | some run => match run.entries[i]? with
    | none => s
    | some e => match e.slot.bind (fun k => (s.request? k).map (fun r => (k, r))) with
      | none => s
      | some (slot, r) =>
        let pend := fun (s : State) => match s.request? slot with
          | some r => if run.desc.kind = 1 && !r.pendValid then refuseEntry s p i .accessDenied false else s
          | none => s
        if !e.d.attach then pend s
        else match findIncrement r e.d.incPos0 with
          | .missing => refuseEntry s p i .accessDenied false
          | .receiving => holdEntry s p i .receiving
          | .ready x =>
            let a := attach s slot x
            match a.1 with
            | some st => refuseEntry a.2 p i st false
            | none => pend a.2

/-- Judges entry i of a step that starts. An entry of a group's step that has been aborted ends with TARGET_DEAD (R282). -/
def judgeEntry (p : Nat) (s : State) (i : Nat) : State := match (s.pallet p).run with
  | none => s
  | some run => match run.entries[i]? with
    | none => s
    | some e => match s.byHandle e.d.handle with
      | none => refuseEntry s p i .accessDenied true
      | some (slot, r) =>
        if misnamed p run.desc e.d r then refuseEntry s p i .accessDenied true
        else
          let l := s.reqLocal slot
          let blocks := nextBlocks s slot r
          let s := s.onRequest slot (fun r => { r with blocks := blocks })
          let s := s.setLocal slot { l with update := none, fallbacks := 0, written := 0 }
          let cancel := if l.cancel = some e.d.step then [Status.cancelledDropped] else []
          let s := s.onEntryRun p i (fun e => { e with blocks := blocks, statuses := cancel, nostep := run.desc.kind = 3 })
          let s := if l.uncorr then markEntry s p i .uncorrectable else s
          let aborted := if s.abortedStep r.rid e.d.step && run.desc.kind ≠ 3 then [Status.targetDead] else []
          match aborted ++ refusals s slot r with
          | [] =>
            if movingNow s slot then holdEntry s p i .moving else startWork s p i
          | sts => refuseEntry (s.onEntryRun p i (fun e => { e with statuses := e.statuses ++ sts })) p i (firstStatus sts) false

/-! ## Step start (R314) -/

/-- A RESULT ring holds a record of the pallet (R373). -/
def recordHeld (s : State) (p : Nat) : Bool := s.host.rings.any (fun e => e.2.heldRecs.any (fun h => h.1 == p))

/-- The coded copy of a request of the pallet is to be captured now: the next step waits for it (R151). -/
def copyDue (s : State) (p : Nat) : Bool := (s.requestsOf p).any (fun e =>
  (s.reqLocal e.1).refreshDue && (s.reqLocal e.1).refresh.isNone && e.2.life ≠ .movingIn)

/-- A step may start: the pallet is READY at its boundary, nothing captured waits for it (R388), no record is held (R373), no
copy is to be captured first (R151), and the next counter is IDLE (R314). -/
def canStart (s : State) (p : Nat) : Bool :=
  let q := s.pallet p
  q.state = .ready && q.run.isNone && !q.unload && !s.dict.groups.any (fun g => g.holds s p) && !recordHeld s p && !copyDue s p
    && (match q.loaded with
      | some l => decide ((s.counter (stepCounter s p l (q.seq + 1))).state = .idle)
      | none => false)

/-- Starts a step: the counter is armed under its tag, the counts of a per-command set are reset (R438), and every entry is
judged. -/
def startStep (s : State) (p o r : Nat) (d : StepDesc) (l : Loaded) : State :=
  let seq := (s.pallet p).seq + 1
  let tag := seq % 65536
  let k := stepCounter s p l seq
  let run : StepRun :=
    { o := o, r := r, desc := d, tStart := s.now, tag := tag, epoch := s.curEpoch, counter := k,
      entries := d.entries.map (EntryRun.start s), doneAt := none, doneSeen := false, discarded := false }
  let s := s.onPallet p (fun q => { q with state := .running, seq := seq, run := some run })
  let s := counterArm k tag d.arrTarget s
  let s := if s.perCommand p then cntReset s p else s
  let s := traceSample s 1 p (p + seq % 2 ^ 32 * 2 ^ 8)
  (List.range d.entries.length).foldl (judgeEntry p) s

/-- STEP_START: the step domain is popped; the descriptor is refused whole, or its step starts. A ring with another visible
descriptor takes its place again. -/
def stepStart (p : Nat) (s : State) : State :=
  if !canStart s p then s
  else
    let x := orderPop s p (fun _ => true)
    match x.1 with
    | none => x.2
    | some e => match takeDesc x.2 e.entity with
      | none => x.2
      | some (d, len, s) =>
        let k := e.entity
        let s := enterDomain s k
        match descRefusal s (k / 64) (k % 64) len d, (s.pallet p).loaded with
        | some st, _ => refuseDesc s k d st
        | none, some l => startStep s p (k / 64) (k % 64) d l
        | none, none => s

def execStepStart (p : PalletNo) (t : Nat) (s : State) : Outcome := .next (stepStart p (s.at t))

/-- The work of a held entry may start: its wait is counted, or goes on where the entry is held again. -/
def resumeEntry (s : State) (p i : Nat) (e : EntryRun) : State :=
  let s := startWork (s.onEntryRun p i (fun e => { e with held := none })) p i
  let again := match (s.pallet p).run with
    | some run => (match run.entries[i]? with
      | some e => e.held.isSome
      | none => false)
    | none => false
  if again then s.onEntryRun p i (fun x => { x with heldAt := e.heldAt, stalled := e.stalled })
  else stallOver s p 5 e.heldAt e.stalled

/-- HELD_ENTRY_RESUME: what a held entry waited for has happened. -/
def heldResume (p i : Nat) (s : State) : State := match (s.pallet p).run with
  | none => s
  | some run => match run.entries[i]? with
    | none => s
    | some e => match e.held, e.slot.bind (fun k => (s.request? k).map (fun r => (k, r))) with
      | some .moving, some (slot, _) =>
        if movingNow s slot then s else resumeEntry s p i e
      | some .receiving, some (_, r) => (match findIncrement r e.d.incPos0 with
        | .receiving => s
        | _ => resumeEntry s p i e)
      | _, _ => s

def execHeldEntryResume (p : PalletNo) (e t : Nat) (s : State) : Outcome := .next (heldResume p e (s.at t))

/-! ## The step boundary (R41) -/

/-- The entry's work has ended (R494): it was verified or refused, or no call of its prefill or replay work is left. -/
def workEnded (s : State) (run : StepRun) (e : EntryRun) : Bool :=
  e.ended || (run.desc.kind ≠ 1 && e.held.isNone && !s.req.calls.any (fun c => c.call.handle == e.d.handle))

/-- The status of an entry at the boundary, before its commit (R315, R317, R494). J is T_DONE, or the instant of DONE. -/
def endStatus (s : State) (run : StepRun) (e : EntryRun) : Status :=
  let j := if e.tDone ≠ 0 then e.tDone else run.doneAt.getD s.now
  firstStatus (e.statuses ++ (if workEnded s run e then [] else [.flushed])
    ++ (if e.d.deadline ≠ 0 && e.d.deadline < j then [.deadlineMissed] else []))

/-- What an entry gives at the boundary: its status, the frames it streams, and STOPPED. -/
structure EntryEnd where
  status : Status
  frames : List (List Nat)
  stopped : Bool
  deriving DecidableEq, Repr

/-- Commits an entry (R105 to R107, R157): nothing unless its status is OK; a commit that fails gives ADMIT_DENIED. A REPLAY entry
never carries FORMAT_FALLBACK. -/
def commitEntry (s : State) (p : Nat) (run : StepRun) (e : EntryRun) : EntryEnd × State :=
  let st := endStatus s run e
  match e.slot with
  | none => ({ status := st, frames := [], stopped := false }, s)
  | some slot =>
    if st ≠ .ok then ({ status := st, frames := [], stopped := false }, s)
    else
      let c := if run.desc.kind = 1 then commitDecode s slot e
        else if run.desc.kind = 2 then commitPrefill s slot e
        else commitReplay slot e.fresh 0 run.desc.replay s
      if !c.1 then ({ status := .admitDenied, frames := [], stopped := false }, c.2)
      else
        let out := if run.desc.kind = 1 then emittedOf e else ([], false)
        let s := freeDraft c.2 slot
        let s := s.bumpBy Obj.SMP_FRAMES_EMITTED p out.1.length
        let s := if out.2 then s.bump Obj.SMP_STOPS p else s
        let s := if run.desc.kind = 3 && e.d.last then s.onRequest slot (fun r => { r with life := .resident }) else s
        let note := run.desc.kind ≠ 3 && fallbackNote s p slot
        ({ status := if note then .formatFallback else .ok, frames := out.1, stopped := out.2 }, s)

/-- OFFER of the positions that a prefill entry committed (R144). -/
def sendIncrement (s : State) (slot : Nat) (e : StepEntry) (pos0 : Nat) : State := match s.request? slot with
  | none => s
  | some r =>
    let n := r.ctxlen - pos0
    let u := incrementUnits s r pos0 n
    let x := newXid s
    let te := s.now + s.obj Obj.RQS_OFFER_TIMEOUT 0
    let b := offerBytes x.2 1 (b2n e.last) pos0 n u.1.length r.keyslot e.dstPallet u.2 te (if e.last then r.pending else [])
    let m : IncOut :=
      { rid := r.rid, xid := x.1, handle := r.handle, dst := e.dstMod, tExpire := te, pulling := false, tPull := 0, units := u.1 }
    let s := { b.2 with req := { b.2.req with incs := b.2.req.incs ++ [m] } }
    sendState (s.bump Obj.RQS_OFFERS 0) (.handover 1 r.rid) e.dstMod r.keyslot
      (hoHeader 1 .ok x.1 r.rid r.handle e.dstHandle s.moduleNum e.dstMod r.homeSeq ++ b.1)

/-- A refresh of the coded copy falls due (R150). -/
def refreshPoint (s : State) (slot before : Nat) (x : EntryEnd) : State := match s.request? slot with
  | none => s
  | some r =>
    if (r.nextStep ≠ before && r.nextStep % 64 = 0) || x.stopped || x.status = .cancelledDropped then
      s.onLocal slot (fun l => { l with refreshDue := true })
    else s

/-- An entry of a collective group's step that would end with a status other than OK or FORMAT_FALLBACK (R282): the fault is
detected, and the entry carries the first of its own status and TARGET_DEAD (R317). -/
def groupEnd (s : State) (e : EntryRun) (x : EntryEnd) : EntryEnd × State := match e.slot.bind s.request? with
  | none => (x, s)
  | some r =>
    if e.nostep || x.status = .ok || x.status = .formatFallback then (x, s)
    else if (s.groupOf s.curEpoch r.rid).isNone then (x, s.searched 1)
    else ({ x with status := firstStatus [x.status, .targetDead] },
      collDetect s r.rid e.d.step x.status s.now s.moduleNum)

/-- Ends one entry: its commit, its part of the record, its number, and what follows from them. The boundary of a REPLAY step that
named the request is its last one too (R130). -/
def closeEntry (p : Nat) (run : StepRun) (s : State) (e : EntryRun) : List Byte × State :=
  let before := (e.slot.bind s.request?).map (fun r => (r.nextStep, r.ctxlen))
  let c := commitEntry s p run e
  let g := groupEnd c.2 e c.1
  let x := g.1
  let y := recordEntry (countStatus g.2 p x.status) e (recordStep run.desc e.d) x.status e.nostep x.frames x.stopped
  match e.slot, before with
  | some slot, some b =>
    let now := y.2.now
    let s := if !e.nostep then consumeStep y.2 slot
      else if run.desc.kind = 3 && x.status ≠ .accessDenied then y.2.onRequest slot (fun r => { r with tLast := now })
      else y.2
    let s := refreshPoint s slot b.1 x
    let s := s.onLocal slot (fun l => { l with fallbacks := 0, written := 0 })
    let done := x.status = .ok || x.status = .formatFallback
    (y.1, if run.desc.kind = 2 && e.d.offer && done then sendIncrement s slot e.d b.2 else s)
  | _, _ => y

/-- Requests of a retired key slot are freed at a boundary at which no step names them (R354, item 3): what waited for them ends
with KEY_RETIRED. -/
def freeRetired (s : State) (p : Nat) : State :=
  ((s.requestsOf p).filter (fun e => s.slotRetired e.2.keyslot)).foldl (fun s e =>
    let s := endCalls s e.2.handle .keyRetired
    let s := match moveOf s e.1 with
      | some (_, m) => complete (dropMove s e.2.rid) m.source 0x06 .keyRetired 0
      | none => s
    let s := match (s.reqLocal e.1).release with
      | some src => complete s src 0x04 .keyRetired 0
      | none => s
    freeRequest { s with req := { s.req with into := s.req.into.filter (fun m => m.slot ≠ e.1) } } e.1) s

/-- What takes effect on a pallet at its step boundary, beside the step's own end: requests, draft pages out of their window
(R109), staged groups, leaf switches, retirement, unloading and balance. -/
def atBoundary (s : State) (p : Nat) : State :=
  let s := (s.requestsOf p).foldl (fun s e => if e.2.life = .movingIn then s else freeDraft s e.1) (boundaryRequests s p)
  let s := boundaryGroups s p
  let s := freeRetired (switchAll s p) p
  let s := if (s.pallet p).unload then unloadPallet s p else s
  balanceCheck s p

/-- The comparison with the pool's median (R160). -/
def straggler (s : State) (p : Nat) (run : StepRun) : State :=
  let m := s.obj Obj.RQS_POOL_MEDIAN p
  let took := s.now - run.tStart
  if m = 0 || took * 1000 ≤ m * (1000 + s.obj Obj.RQS_STRAGGLER_MARGIN 0) then s.onPallet p (fun q => { q with slow := 0 })
  else if (s.pallet p).slow + 1 < s.obj Obj.RQS_STRAGGLER_STEPS 0 then s.onPallet p (fun q => { q with slow := q.slow + 1 })
  else
    let s := s.onPallet p (fun q => { q with slow := 0 })
    (s.bump Obj.RQS_STRAGGLER_EVENTS 0).raise 0x41 [(p, 1), (0, 3), (m, 4), (took, 4)]

/-- The end of a step: entries, record, RELEASE of its counter, counts, and the pallet READY again. -/
def endStep (s : State) (p : Nat) (run : StepRun) : State :=
  let r := run.entries.foldl (fun (acc : List (List Byte) × State) e =>
    let x := closeEntry p run acc.2 e
    (acc.1 ++ [x.1], x.2)) ([], s.endWork p)
  let s := run.entries.foldl (fun s e => endStepCalls s e.d.handle e.d.step .flushed) r.2
  let s := postRun s run (resultRecord run.desc.batch 0 run.tStart s.now r.1)
  let s := if run.doneSeen then releaseTagged s p run.tag else s
  let s := cntStepEnd s p 1
  let s := traceSample s 1 p (p + 2 ^ 4 + s.cmdId p % 2 ^ 32 * 2 ^ 8)
  let now := s.now
  let s := s.onPallet p (fun q => { q with
    state := .ready, run := none, busy := (run.tStart, now) :: q.busy.filter (fun b => now ≤ b.2 + 1000000000) })
  straggler s p run

/-- STEP_BOUNDARY: the counter is DONE and no token of the step remains. -/
def stepBoundary (p : Nat) (s : State) : State := match (s.pallet p).run with
  | none => s
  | some run => if run.doneAt.isSome && noTokens s p run.tag then atBoundary (endStep s p run) p else s

def execStepBoundary (p : PalletNo) (t : Nat) (s : State) : Outcome := .next (stepBoundary p (s.at t))

end Sys2Proof.Machine
end

