-- ==== Sys2Proof/Machine/Wire.lean ====
section
/-! DEFINITION. The sender's answers to ACK, NAK and a failed flow (R248, R250), with what the end of a message does to the
operation it serves, and a module's death (R281). -/

namespace Sys2Proof.Machine

/-- What the end of a message does to the operation it serves. -/
def finAll : Fin' := fun m r s => match m with
  | .entry q n => entryFin q n r s
  | .rack b n tag => rackFin b n tag r s
  | .gather tag => gatherFin tag r s
  | .handover typ rid => handoverFin typ rid r s
  | .copyWrite slot i k => copyWriteFin slot i k r s
  | _ => s

def execAck (port : PortNo) (pkt : Pkt) (t : Nat) (s : State) : Outcome :=
  .next (gateAnswer (s.at t) port 7 pkt (onAck finAll pkt))
def execNakSeq (port : PortNo) (pkt : Pkt) (t : Nat) (s : State) : Outcome :=
  .next (gateAnswer (s.at t) port 8 pkt (onNakSeq finAll pkt))
def execNakNotReady (port : PortNo) (pkt : Pkt) (t : Nat) (s : State) : Outcome :=
  .next (gateAnswer (s.at t) port (8 + 256) pkt (onNakNotReady finAll pkt))
def execNakNoFlow (port : PortNo) (pkt : Pkt) (t : Nat) (s : State) : Outcome :=
  .next (gateAnswer (s.at t) port (8 + 256 * 2) pkt (onNakNoFlow pkt))
def execNakStatus (port : PortNo) (pkt : Pkt) (t : Nat) (s : State) : Outcome :=
  .next (gateAnswer (s.at t) port (8 + 256 * 3) pkt (onNakStatus finAll pkt))
def execFlowFail (flow t : Nat) (s : State) : Outcome := .next (flowFail finAll flow (s.at t))

/-! ## The death of a module (R281) -/

/-- An entry of a send queue addressed to a module, not ended. -/
def QEntry.toModule (m : Nat) (e : QEntry) : Bool := e.w.dstMod == m && e.ended.isNone && e.op < 0x20

/-- A queue holds an outstanding entry to a module. -/
def Queue.toModule (m : Nat) (v : Queue) : Bool := v.typ == 0 && v.entries.any (QEntry.toModule m)

/-- A mapped window of the pallet lies onto a region whose HOME is the module under a held epoch. -/
def windowTo (s : State) (p m : Nat) : Bool :=
  (s.windows p).any (fun w => s.rmf.epochs.any (fun e => match s.record? e.number 2 w.2.region with
    | some r => r.home == m
    | none => false))

/-- The pallets that a module's death halts. -/
def deadPallets (s : State) (m : Nat) : List Nat :=
  (List.range 16).filter (fun p =>
    s.rmf.rack.any (fun e => e.2.busy && e.2.dst == m && e.2.pallet == p)
    || s.trn.queues.any (fun e => e.2.pallet == p && Queue.toModule m e.2)
    || windowTo s p m)

/-- The messages to a module that handovers and copies have outstanding. -/
def deadMessages (s : State) (m : Nat) : List MsgFor :=
  (messagesOf ((s.trn.flows.filter (fun e => e.2.dst == m)).flatMap (fun e => e.2.unacked ++ e.2.queued)
    ++ (s.trn.waiting.filter (fun w => w.1 == m)).flatMap (fun w => w.2.2.2))).filter (fun x => match x with
      | .handover _ _ | .copyWrite _ _ _ | .homeMirror _ => true
      | _ => false)

/-- The operations outstanding to a module: rack commands, gather reads, work queue entries, handover and copy messages, and
image reads. -/
def deadCount (s : State) (m : Nat) : Nat :=
  countIf s.rmf.rack (fun e => e.2.busy && e.2.dst == m)
  + countIf s.rmf.gathers (fun g => g.dst == m)
  + sumOf s.trn.queues (fun e => if e.2.typ = 0 then countIf e.2.entries (QEntry.toModule m) else 0)
  + (deadMessages s m).length
  + countIf s.req.into (fun x => x.srcMod == m && x.state == .pulling && x.kind ≠ .rebuild)

/-- The entries to a module end with TARGET_DEAD, and with them their queues' other entries FLUSHED. A queue that flushes already
completes them in their order. -/
def deadQueues (s : State) (m : Nat) : State :=
  (s.trn.queues.filter (fun e => Queue.toModule m e.2)).foldl (fun s e =>
    let s := s.onQueue e.1 (fun v => { v with
      entries := v.entries.map (fun x => if x.toModule m then { x with ended := some .targetDead } else x) })
    if (s.queue e.1).state = 2 then flushedOut (completeHead ((s.queue e.1).entries.length + 1) e.1 s) e.1
    else queueError s e.1 none .targetDead) s

/-- The flows to a module close, and the messages that wait for a flow to it end. -/
def deadFlows (s : State) (m : Nat) : State :=
  let s := (s.trn.flows.filter (fun e => e.2.dst == m)).foldl (fun s e => closeFlow s finAll e.1 .targetDead) s
  let gone := s.trn.waiting.filter (fun w => w.1 == m)
  let s := { s with trn := { s.trn with waiting := s.trn.waiting.filter (fun w => w.1 ≠ m) } }
  (messagesOf (gone.flatMap (fun w => w.2.2.2))).foldl (fun s x => finAll x (some .targetDead) s) s

/-- The rack commands and gather reads to a module end. -/
def deadRack (s : State) (m : Nat) : State :=
  let s := endGathers s (fun g => g.dst == m)
  (s.rmf.rack.filter (fun e => e.2.busy && e.2.dst == m)).foldl (fun s e => rackEnd s (e.1 / 16) (e.1 % 16) .targetDead) s

/-- A refresh whose member has died is counted once as degraded (R153). -/
def deadCopies (s : State) (m : Nat) : State :=
  s.req.locals.foldl (fun s e => match s.request? e.1, e.2.refresh with
    | some r, some _ =>
      if r.copyGroup.contains m && (liveMembers s r.copyGroup).length = 5 then s.bump Obj.RQS_COPY_DEGRADED 0 else s
    | _, _ => s) s

/-- The collective groups in which the module is a member or ACCEL abort the step they run (R282). -/
def deadGroups (s : State) (m : Nat) : State :=
  s.req.requests.foldl (fun s e => match s.groupOf s.curEpoch e.2.rid, s.entryOf e.2.pallet e.1 with
    | some g, some (_, x) =>
      if x.nostep then s
      else if g.members.contains m || g.accel = m then collDetect s e.2.rid x.d.step .targetDead s.now s.moduleNum else s
    | _, _ => s) s

/-- RMF_DEAD becomes 1 for a module. -/
def declareDead (m : Nat) (s : State) : State :=
  if s.dead m then s
  else
    let halts := deadPallets s m
    let s := (s.bumpBy Obj.RMF_TARGET_DEAD 0 (deadCount s m)).setObj Obj.RMF_DEAD m 1
    let s := deadCopies s m
    let s := deadRack (deadFlows (deadQueues s m) m) m
    let s := moveDead s m
    let s := halts.foldl (fun s p => palletFault s p 6 FaultAt.nowhere) s
    deadGroups s m

/-- RMF_DEAD_SET. -/
def rmfDeadSet (via : Via) (m : Nat) (s : State) : State :=
  s.objWrite via (s.isPriv via) (fun s => (declareDead m s, .ok, []))

def execRmfDeadSet (via : Via) (m t : Nat) (s : State) : Outcome := .next (rmfDeadSet via m (s.at t))

end Sys2Proof.Machine
end

