-- ==== Sys2Proof/Machine/Tenancy.lean ====
section
/-! DEFINITION. Tenants and key slots (chapter 14): assignment, attestation reports, key release and install, pallet images, and
retirement with its drain. -/

namespace Sys2Proof.Machine

/-! ## Who may write (R335, R344, R357) -/

/-- The slot's assignment lists the LD. -/
def assignmentLists (s : State) (k o : Nat) : Bool := bitOf (s.kslot k).lds o

/-- The slot's assignment or its tenant lists the LD. -/
def slotLists (s : State) (k o : Nat) : Bool :=
  assignmentLists s k o || (match (s.slotTenant k).bind s.tenant? with
    | some t => bitOf t.lds o
    | none => false)

/-- An access through a view that may name a slot: privileged, or an LD that passes a test. -/
def slotAccess (s : State) (via : Via) (test : Nat → Bool) : Bool :=
  s.isPriv via || (match viaLd via with
    | some o => test o
    | none => false)

/-! ## Assignment (R344) -/

/-- SEC_SLOT_ASSIGN. Slot 0 is never assigned. -/
def slotAssign (k gen lds : Nat) (s : State) : Status × State :=
  let v := s.kslot k
  if k = 0 || gen = 0 || gen = v.lastGen || v.state ≠ .empty then (.accessDenied, s)
  else (.ok, s.setKslot k { v with state := .assigned, gen := gen, lds := lds })

def secSlotAssign (via : Via) (k gen lds : Nat) (s : State) : State :=
  s.objWrite via (s.isPriv via) (fun s =>
    let r := slotAssign k gen lds s
    (r.2, r.1, []))

def execSecSlotAssign (via : Via) (slot : SlotNo) (gen lds : Nat) (s : State) : Outcome :=
  .next (secSlotAssign via slot gen lds s)

/-! ## Attestation (R345, R347) -/

/-- Why a request that names a slot is refused (R345, R347). -/
def attestRefusal (s : State) (k : Nat) : Option Status :=
  if !s.kiln.identity then some .accessDenied
  else if k = 0 then none
  else match (s.kslot k).state with
    | .empty => some .accessDenied
    | .installing => some .notReady
    | .retiring | .drained => some .keyRetired
    | _ => none

/-- A request is queued: up to 16, the one in service among them. -/
def attestRequest (via : Via) (k nonce : Nat) (s : State) : Status × State :=
  if 1024 ≤ k then (.transportError, s)
  else match attestRefusal s k with
    | some st => (st, s)
    | none =>
      if 16 ≤ s.kiln.attestQ.length then (.notReady, s)
      else (.ok, { s with kiln := { s.kiln with attestQ := s.kiln.attestQ ++ [(k, nonce, via)] } })

/-- SEC_ATTEST_REQ: an unauthenticated session may ask with slot 0 alone (R335). -/
def secAttestReq (via : Via) (slot nonce : Nat) (s : State) : State :=
  s.objWrite via (slot = 0 || slotAccess s via (assignmentLists s slot)) (fun s =>
    let r := attestRequest via slot nonce s
    (r.2, r.1, []))

def execSecAttestReq (via : Via) (slot nonce t : Nat) (s : State) : Outcome :=
  .next (secAttestReq via slot nonce (s.at t))

/-- Codes of PAL_STATE (R332). -/
def palStateCode : PalState → Nat
  | .empty => 0 | .loading => 1 | .ready => 2 | .running => 3 | .saving => 4 | .halted => 5

/-- PAL_IMAGE_ID: the loaded image's. -/
def palImageId (q : Pallet) : Nat := match q.loaded with
  | some l => l.manifest.imageId
  | none => 0

/-- A TENANT entry of a report: zero where unused (R347). -/
def tenantEntry (s : State) (i : Nat) : List Byte := match s.tenant? i with
  | none => zeros 96
  | some t =>
    pack [(t.id, 8), (t.consent + t.pallets * 2 ^ 8, 4), (t.lds, 4)] ++ zeros 16 ++ toBytes 64 t.policyDigest

/-- A PALLET entry of a report (R347). -/
def palletEntry (s : State) (p : Nat) : List Byte :=
  let q := s.pallet p
  let digest := match q.loaded with
    | some l => l.digest
    | none => 0
  pack [(palImageId q, 8), ((s.palletTenant p).getD 15 + palStateCode q.state * 2 ^ 4, 4), (0, 4)] ++ toBytes 64 digest

/-- The report's bytes before its signature: 0x1520 bytes (R347). -/
def reportBody (s : State) (k nonce tExpire ek : Nat) : List Byte :=
  let n := s.kiln
  pack [(0x4154, 2), (1, 1), (0, 1), (35200, 4)] ++ toBytes 32 nonce
    ++ pack [(s.now, 8), (0xB0, 1), (s.role, 1), (s.moduleNum, 2), (s.tbBound, 4), (0, 8)]
    ++ toBytes 64 n.deviceId ++ toBytes 64 (Config.identityPk n.deviceId) ++ n.meas.flatMap (toBytes 64)
    ++ pack [(n.kilnSvn, 2), (n.fwSvn, 2), (n.cfgSvn + s.gates * 2 ^ 16, 4)] ++ zeros 56
    ++ toBytes 64 n.cfgSigner
    ++ pack [(if k = 0 then 0 else k + (s.kslot k).gen * 2 ^ 10, 4), (0, 4), (tExpire, 8)] ++ zeros 176
    ++ toBytes 1568 ek
    ++ (List.range 16).flatMap (tenantEntry s) ++ (List.range 16).flatMap (palletEntry s)

/-- The Kiln signs the oldest request's report (R345): ASSIGNED and RESERVED take a new key pair, and with it RESERVED. A request
that its slot's state refuses by now completes with that status. The slot keeps the digest of the whole report (R348). -/
def reportSigned (sig : List Byte) (s : State) : State := match s.kiln.attestQ with
  | [] => s
  | (k, nonce, via) :: rest =>
    let s := { s with kiln := { s.kiln with attestQ := rest } }
    match attestRefusal s k with
    | some st => completeObject s via Obj.SEC_ATTEST_REQ 0 st 0
    | none =>
      let live := k ≠ 0 && (s.kslot k).state ≠ .active
      let pair := s.newId
      let s := if live then pair.2 else s
      let expire := if live then s.now + s.obj Obj.SEC_EK_LIFE_S 0 * 1000000000 else 0
      let report := reportBody s k nonce expire (if live then Config.encapKey pair.1 else 0) ++ padTo 29792 sig
      let s := { s with kiln := { s.kiln with report := ofBytes report } }
      let s := if k = 0 then s else s.onKslot k (fun v => { v with reportDigest := digest64 report })
      let s := if live then s.onKslot k (fun v => { v with state := .reserved, ekExpire := expire }) else s
      completeObject (s.bump Obj.SEC_ATTEST_REPORTS 0) via Obj.SEC_ATTEST_REQ 0 .ok 0

def execAttestReportSigned (sig : List Byte) (t : Nat) (s : State) : Outcome := .next (reportSigned sig (s.at t))

/-- EK_EXPIRY: the decapsulation key is erased. -/
def ekExpiry (k : Nat) (s : State) : State :=
  let v := s.kslot k
  if v.state = .reserved && v.ekExpire ≤ s.now then
    s.setKslot k { v with state := .assigned, reportDigest := 0, ekExpire := 0 }
  else s

def execEkExpiry (slot : SlotNo) (t : Nat) (s : State) : Outcome := .next (ekExpiry slot (s.at t))

/-! ## Key release (R348 to R350) -/

/-- The first checks of a release (R348). -/
def releaseOk (s : State) (magic version k gen digest : Nat) : Bool :=
  let v := s.kslot k
  s.kiln.identity && magic = 0x4B52 && version = 1 && v.state = .reserved && v.gen = gen && v.reportDigest = digest
    && s.now ≤ v.ekExpire

/-- SEC_KEY_RELEASE: the slot enters INSTALLING, or the release is refused and the slot is unchanged. -/
def keyRelease (via : Via) (magic version k gen digest : Nat) (s : State) : Status × State :=
  if releaseOk s magic version k gen digest then
    (.ok, s.onKslot k (fun v => { v with state := .installing, release := some via }))
  else (if s.slotRetired k then .keyRetired else .accessDenied, s.bump Obj.SEC_RELEASE_REFUSED 0)

def secKeyRelease (via : Via) (magic version slot gen digest : Nat) (s : State) : State :=
  s.objWrite via (slotAccess s via (slotLists s slot)) (fun s =>
    let r := keyRelease via magic version slot gen digest s
    (r.2, r.1, []))

def execSecKeyRelease (via : Via) (magic version : Nat) (slot : SlotNo) (gen digest t : Nat) (s : State) : Outcome :=
  .next (secKeyRelease via magic version slot gen digest (s.at t))

/-- The 128 bytes of a policy (R349). -/
def policyBytes (p : Policy) : List Byte :=
  pack [(p.tenantId, 8), (p.consent + p.pallets * 2 ^ 8, 4), (p.lds, 4), (p.minFwSvn, 2), (p.minKilnSvn, 2)] ++ zeros 12
    ++ toBytes 64 p.imageSigner ++ zeros 32

/-- The tenant index a policy would hold: the resident tenant's with its TENANT_ID, or the lowest free. -/
def tenantIndex (s : State) (p : Policy) : Option Nat :=
  match (List.find? (fun e => e.2.id == p.tenantId) s.keys.tenants).map (·.1) with
  | some i => some i
  | none => leastBelow 16 (fun i => (s.tenant? i).isNone)

/-- The bundle checks (R349, R350). A seventeenth tenant has no index and is refused. -/
def bundleOk (s : State) (tagOk : Bool) (p : Policy) : Bool :=
  tagOk && !p.reserved && p.tenantId ≠ 0 && p.pallets ≠ 0
    && p.minFwSvn ≤ s.kiln.fwSvn && p.minKilnSvn ≤ s.kiln.kilnSvn
    && s.keys.tenants.all (fun e =>
      if e.2.id = p.tenantId then
        e.2.pallets = p.pallets && e.2.lds = p.lds && e.2.consent = p.consent && e.2.signer = p.imageSigner
      else e.2.pallets &&& p.pallets = 0 && e.2.lds &&& p.lds = 0)
    && (tenantIndex s p).isSome

/-- What the gates that are closed keep clear (R353, R432): the trace is OFF and its buffer zero, sample and counter buffers are
zero, the selections of the OBS outputs are 0. -/
def clearGated (s : State) : State :=
  let s := if s.gate 0 then s else
    { s with obs := { s.obs with
      trace := [], traceNext := 0, traceWrapped := false, traceMark := 0, traceSince := 0, traceMatches := 0, traceState := 0,
      postLeft := 0, tTrigger := 0, extra := [] } }
  let s := if s.gate 1 then s else { s with obs := { s.obs with pcBufs := [], cntBufs := [] } }
  let s := if s.gate 2 then s else s.setObj Obj.OBS_MUX_SEL 0 0
  if s.gate 3 || s.boot.tapIr ≠ 0 then s else { s with boot := { s.boot with tapIr := 0xFF } }

/-- The gates that are open in `before` and no longer. -/
def gatesClosed (before : Nat) (s : State) : Nat := countIf (List.range 4) (fun g => bitOf before g && !s.gate g)

/-- A tenant takes its index, if it is not resident already; the gates it closes are counted and what they gate is cleared. -/
def makeResident (s : State) (i : Nat) (p : Policy) : State :=
  if (s.tenant? i).isSome then s
  else
    let before := s.gates
    let t : Tenant :=
      { id := p.tenantId, consent := p.consent, pallets := p.pallets, lds := p.lds, signer := p.imageSigner,
        policyDigest := digest64 (policyBytes p) }
    let s := { s with keys := { s.keys with tenants := NMap.ins s.keys.tenants i t } }
    clearGated (s.bumpBy Obj.SEC_GATE_CLOSED 0 (gatesClosed before s))

/-! ## Retirement (R354 to R356) -/

/-- A slot holds its tenant resident (R350). -/
def KeySlot.holds (v : KeySlot) : Bool :=
  v.state == .installing || v.state == .active || v.state == .retiring || v.state == .drained

/-- Another of the tenant's slots keeps its pallets: one that is ACTIVE or INSTALLING. -/
def keptElsewhere (s : State) (k i : Nat) : Bool :=
  s.keys.slots.any (fun e => e.1 ≠ k && e.2.tenant == some i && (e.2.state == .active || e.2.state == .installing))

/-- The pallets that retiring a slot unloads (R354, item 7). -/
def slotPallets (s : State) (k : Nat) : List Nat := match s.slotTenant k with
  | none => []
  | some i => match s.tenant? i with
    | none => []
    | some t => if keptElsewhere s k i then [] else (List.range 16).filter (bitOf t.pallets)

/-- The requests of a slot. -/
def slotRequests (s : State) (k : Nat) : List (Nat × Request) := s.req.requests.filter (fun e => e.2.keyslot == k)

/-- A running step's entry for a request of a retired slot carries KEY_RETIRED, and its work ends (R354, item 2, R493); calls that
have not started are answered with it (item 5). -/
def retireEntry (s : State) (slot : Nat) (r : Request) : State := match s.entryOf r.pallet slot with
  | none => s
  | some (i, _) =>
    let waits := fun (c : CallRun) => c.call.handle == r.handle && !c.serving
    let s := failEntry s r.pallet i .keyRetired
    let s := (s.req.calls.filter waits).foldl (fun s c => refuseCall s c .keyRetired) s
    { s with req := { s.req with calls := s.req.calls.filter (fun c => !waits c) } }

/-- The queues and registrations whose KEYID names a slot (R354, item 4). -/
def retireQueues (s : State) (k : Nat) : State :=
  let mine := fun (keyId : Nat) => keyId ≠ 0 && bitsOf keyId 0 10 == k
  let s := (s.trn.queues.filter (fun e => mine e.2.keyId)).foldl (fun s e => queueError s e.1 none .keyRetired) s
  (s.trn.regs.filter (fun e => mine e.2.keyId && e.2.state == 1)).foldl (fun s e => startRevoke s e.1 none) s

/-- A slot's pallets are unloaded at their idle points: at once where no step runs. -/
def retirePallets (s : State) (ps : List Nat) : State :=
  ps.foldl (fun s p =>
    if (s.pallet p).state = .empty then s
    else if (s.pallet p).run.isNone then unloadPallet s p
    else s.onPallet p (fun q => { q with unload := true })) s

/-- The drain starts (R354). -/
def startDrain (s : State) (k : Nat) : State :=
  let now := s.now
  let s := (s.onKslot k (fun v => { v with state := .retiring, tRetire := now })).bump Obj.SEC_RETIREMENTS 0
  let lds := match (s.slotTenant k).bind s.tenant? with
    | some t => (List.range 16).filter (bitOf t.lds)
    | none => []
  let s := lds.foldl (fun s o => postEvent s o 0x84 .keyRetired k 0) s
  let s := (slotRequests s k).foldl (fun s e => retireEntry s e.1 e.2) s
  let s := retireQueues s k
  let s := ((List.range 16).filter (fun p => (s.pallet p).run.isNone)).foldl freeRetired s
  retirePallets s (slotPallets s k)

/-- A slot no longer holds its tenant. With the tenant's last slot it stops being resident, its installed images go, and what
gates was closed is cleared before a gate opens (R350, R353). -/
def leaveTenant (s : State) (k : Nat) : State := match s.slotTenant k with
  | none => s
  | some i =>
    let s := s.onKslot k (fun v => { v with tenant := none })
    if s.keys.slots.any (fun e => e.2.tenant == some i) then s
    else
      let s := clearGated s
      { s with keys := { s.keys with tenants := NMap.del s.keys.tenants i } }

/-- A slot becomes EMPTY: LAST_GEN takes GEN. -/
def emptySlot (s : State) (k : Nat) : State :=
  s.onKslot k (fun v => { KeySlot.reset with lastGen := v.gen })

/-- A retire of a slot (R345). -/
def retireSlot (k : Nat) (s : State) : State := match (s.kslot k).state with
  | .assigned | .reserved => emptySlot (s.bump Obj.SEC_RETIREMENTS 0) k
  | .installing => s.onKslot k (fun v => { v with retireWaits := true })
  | .active => startDrain s k
  | _ => s

/-- SEC_RETIRE: by the rack fabric manager, or by an LD of the slot. -/
def secRetire (via : Via) (k : Nat) (s : State) : State :=
  s.objWrite via (slotAccess s via (slotLists s k)) (fun s =>
    if k = 0 then (s, .accessDenied, []) else (retireSlot k s, .ok, []))

def execSecRetire (via : Via) (slot : SlotNo) (t : Nat) (s : State) : Outcome := .next (secRetire via slot (s.at t))

/-- The bundle checks pass: the slot is ACTIVE with its tenant. -/
def installKeys (s : State) (k : Nat) (keys : SlotKeys) (p : Policy) : State := match tenantIndex s p with
  | none => s
  | some i =>
    let s := makeResident s i p
    (s.onKslot k (fun v => { v with
      state := .active, tenant := some i, reportDigest := 0, ekExpire := 0, distributed := false, release := none,
      xts := keys.xts, link := keys.link, model := keys.model })).bump
      Obj.SEC_RELEASES_OK 0

/-- KEY_INSTALL_DONE: a retire that waited takes effect (R345). -/
def keyInstallDone (k : Nat) (tagOk : Bool) (keys : SlotKeys) (p : Policy) (s : State) : State :=
  let v := s.kslot k
  if v.state ≠ .installing then s
  else
    let ok := bundleOk s tagOk p
    let s := if ok then installKeys s k keys p
      else (s.setKslot k { v with state := .assigned, reportDigest := 0, ekExpire := 0, release := none }).bump
        Obj.SEC_RELEASE_REFUSED 0
    let s := match v.release with
      | some via => completeObject s via Obj.SEC_KEY_RELEASE 0 (if ok then .ok else .accessDenied) 0
      | none => s
    if v.retireWaits then retireSlot k (s.onKslot k (fun v => { v with retireWaits := false })) else s

def execKeyInstallDone (slot : SlotNo) (tagOk : Bool) (bundle : KeyBundle) (t : Nat) (s : State) : Outcome :=
  .next (keyInstallDone slot tagOk bundle.keys bundle.policy (s.at t))

/-- KEY_DISTRIBUTION_DONE: the copies are in the controllers and the ports (R346). -/
def keysDistributed (k : Nat) (s : State) : State :=
  if (s.kslot k).state = .active then s.onKslot k (fun v => { v with distributed := true }) else s

def execKeyDistributionDone (slot : SlotNo) (t : Nat) (s : State) : Outcome := .next (keysDistributed slot (s.at t))

/-- A transport packet under the slot's KEYID that is not acknowledged. -/
def Held.under (k : Nat) (h : Held) : Bool := h.pkt.keyId ≠ 0 && bitsOf h.pkt.keyId 0 10 == k

/-- Operations that have started for a pallet and not ended: rack commands, gather reads, placements and reads of host pages (R354,
item 5). -/
def opsOf (s : State) (p : Nat) : Bool :=
  s.rmf.rack.any (fun e => e.2.busy && e.2.pallet == p)
    || s.rmf.gathers.any (fun g => g.pallet == p)
    || s.mem.placements.any (fun x => x.cmd.pallet.val == p)
    || s.host.dmas.any (fun d => match d.purpose with
      | .page q _ => q == p
      | _ => false)

/-- The drain is complete (R355). -/
def drained (s : State) (k : Nat) : Bool :=
  let mine := fun (keyId : Nat) => keyId ≠ 0 && bitsOf keyId 0 10 == k
  (slotRequests s k).isEmpty
    && (slotPallets s k).all (fun p => (s.pallet p).state == .empty)
    && (slotPallets s k).all (fun p => !opsOf s p)
    && s.trn.queues.all (fun e => !mine e.2.keyId || e.2.state == 0 || e.2.state == 3)
    && s.trn.regs.all (fun e => !mine e.2.keyId || e.2.state == 0 || e.2.state == 3)
    && s.trn.flows.all (fun e => (e.2.unacked ++ e.2.queued).all (fun h => !h.under k))
    && s.trn.waiting.all (fun w => w.2.2.2.all (fun h => !h.under k))

/-- The slot is DRAINED; T_D is recorded. -/
def setDrained (s : State) (k : Nat) : State :=
  let now := s.now
  s.onKslot k (fun v => { v with state := .drained, tD := now })

/-- DRAIN_COMPLETE. -/
def drainComplete (k : Nat) (s : State) : State :=
  if (s.kslot k).state = .retiring && drained s k then setDrained s k else s

def execDrainComplete (slot : SlotNo) (t : Nat) (s : State) : Outcome := .next (drainComplete slot (s.at t))

/-- The pallets that still hold work of a slot: a step naming one of its requests, an operation, or an image to unload. -/
def slotWork (s : State) (k : Nat) : List Nat :=
  (List.range 16).filter (fun p =>
    ((slotPallets s k).contains p && ((s.pallet p).state ≠ .empty || opsOf s p))
    || (slotRequests s k).any (fun e => e.2.pallet == p && s.inStep p e.1))

/-- The flows that hold packets under a slot's KEYID close, and its waiting messages end. -/
def closeUnder (s : State) (k : Nat) : State :=
  let s := (s.trn.flows.filter (fun e => (e.2.unacked ++ e.2.queued).any (fun h => h.under k))).foldl
    (fun s e => closeFlow s finAll e.1 .keyRetired) s
  let gone := s.trn.waiting.filter (fun w => w.2.2.2.any (fun h => h.under k))
  let s := { s with trn := { s.trn with waiting := s.trn.waiting.filter (fun w => !w.2.2.2.any (fun h => h.under k)) } }
  (messagesOf (gone.flatMap (fun w => w.2.2.2))).foldl (fun s x => finAll x (some .keyRetired) s) s

/-- The queues still flushing, and the registrations still revoking, end. -/
def forceQueues (s : State) (k : Nat) : State :=
  let mine := fun (keyId : Nat) => keyId ≠ 0 && bitsOf keyId 0 10 == k
  let s := (s.trn.queues.filter (fun e => mine e.2.keyId && e.2.state == 2)).foldl (fun s e =>
    let s := s.onQueue e.1 (fun v => { v with
      entries := v.entries.map (fun x => if x.ended.isNone then { x with ended := some .keyRetired } else x) })
    let s := completeHead (e.2.entries.length + 1) e.1 s
    s.onQueue e.1 (fun v => { v with state := 3 })) s
  (s.trn.regs.filter (fun e => mine e.2.keyId && e.2.state == 2)).foldl (fun s e =>
    revokeDrained e.1 (s.setReg e.1 { s.reg e.1 with inflight := 0 })) s

/-- The rack commands, gather reads and reads of host pages of the pallets end (R355). -/
def forceOps (s : State) (ps : List Nat) : State :=
  let s := (s.rmf.rack.filter (fun e => e.2.busy && ps.contains e.2.pallet)).foldl
    (fun s e => rackEnd s (e.1 / 16) (e.1 % 16) .keyRetired) s
  endDmas (endGathers s (fun g => ps.contains g.pallet)) (fun d => match d.purpose with
    | .page q _ => ps.contains q
    | _ => false)

/-- The placements of the pallets end (R355). -/
def forcePlacements (s : State) (ps : List Nat) : State :=
  let gone := s.mem.placements.filter (fun x => ps.contains x.cmd.pallet.val)
  gone.foldl (fun s x => complete (dropPlacement s x) x.source 0x07 .keyRetired x.cmd.tag) s

/-- DRAIN_FORCED: SEC_DRAIN_MAX_MS has passed (R355). -/
def drainForced (k : Nat) (s : State) : State :=
  let v := s.kslot k
  if v.state ≠ .retiring || drained s k || s.now < v.tRetire + s.obj Obj.SEC_DRAIN_MAX_MS 0 * 1000000 then s
  else
    let ps := slotPallets s k
    let s := ((slotWork s k).filter (fun p => (s.pallet p).state ≠ .halted)).foldl
      (fun s p => palletFault s p 7 FaultAt.nowhere) s
    let s := forceQueues (closeUnder s k) k
    let s := forcePlacements (forceOps s ps) ps
    let s := (List.range 16).foldl freeRetired s
    let s := retirePallets s ps
    let s := (s.bump Obj.SEC_DRAIN_FORCED 0).raise 0x80 [(k, 2), (v.gen, 1)]
    setDrained s k

def execDrainForced (slot : SlotNo) (t : Nat) (s : State) : Outcome := .next (drainForced slot (s.at t))

/-- Frames under a slot's old key are freed without clearing, and the images they held are gone (R356). -/
def freeUnder (s : State) (k : Nat) : State :=
  let s := (s.mem.leaves.filter (fun e => e.2.keyslot == k)).foldl
    (fun s e => (s.invalidateLeaf (e.1 / 2 ^ 35) e.1).unmapKey e.1) s
  (List.range 16).foldl (fun s p => s.onPallet p (fun q => { q with
    installed := q.installed.filter (fun x => x.keyslot ≠ k) })) s

/-- ZEROISE: 500 µs after T_D. -/
def zeroise (k : Nat) (s : State) : State :=
  let v := s.kslot k
  if v.state = .drained && v.tD + 500000 ≤ s.now then
    emptySlot (leaveTenant (freeUnder (s.bump Obj.SEC_ZEROISED 0) k) k) k
  else s

def execZeroise (slot : SlotNo) (t : Nat) (s : State) : Outcome := .next (zeroise slot (s.at t))

/-! ## Pallet images (R351) -/

/-- The ACTIVE slot of the tenant that owns a pallet, the lowest; else the status that refuses work under its slots. -/
def ownerSlot (s : State) (p : Nat) : Except Status Nat := match s.palletTenant p with
  | none => .error .accessDenied
  | some i =>
    let mine := fun (f : KeySlot → Bool) => (List.find? (fun e => e.2.tenant == some i && f e.2) s.keys.slots).map (·.1)
    match mine (fun v => v.state == .active) with
    | some k => .ok k
    | none => .error (if (mine (fun v => v.state == .retiring || v.state == .drained)).isSome then .keyRetired else .accessDenied)

/-- SEC_IMAGE_INSTALL: accepted, and judged once decrypted. -/
def imageInstall (via : Via) (p src dst tag : Nat) (s : State) : Status × State := match ownerSlot s p with
  | .error st => (st, s)
  | .ok k =>
    let x : Install := { src := src, dst := dst, tag := tag, keyslot := k, via := via }
    (.ok, s.onPallet p (fun q => { q with installs := q.installs ++ [x] }))

def secImageInstall (via : Via) (p src dst tag : Nat) (s : State) : State :=
  s.objWrite via (slotAccess s via (fun o => s.ownsPallet o p)) (fun s =>
    let r := imageInstall via p src dst tag s
    (r.2, r.1, []))

def execSecImageInstall (via : Via) (p : PalletNo) (src dst tag t : Nat) (s : State) : Outcome :=
  .next (secImageInstall via p src dst tag (s.at t))

/-- The checks of an image as its body is decrypted (R337, R338, R351): it is an encrypted PALLET image, its digest is the
body's, its signer the tenant's, its IMAGE_ID the manifest's. -/
def installOk (s : State) (p : Nat) (chk : ImageCheck) (m : Manifest) (body : List Byte) : Bool :=
  imageValid 4 chk && chk.enc && chk.bodyDigest = digest64 body && chk.imageId = m.imageId && (match (s.palletTenant p).bind s.tenant? with
    | some t => t.signer = chk.signer
    | none => false)

/-- IMAGE_INSTALL_DONE: the oldest install of the pallet. The body stands at DST; or the frames written are freed. -/
def imageInstallDone (p : Nat) (chk : ImageCheck) (m : Manifest) (body : List Byte) (s : State) : State :=
  match (s.pallet p).installs with
  | [] => s
  | x :: rest =>
    let s := s.onPallet p (fun q => { q with
      installs := rest, installed := q.installed.filter (fun y => y.addr ≠ x.dst) })
    let refused := fun (s : State) =>
      let s := s.unmapRange p (x.dst / 8192) (ceilDiv (x.dst % 8192 + body.length) 8192)
      completeObject (s.bump Obj.SEC_IMAGE_REFUSED 0) x.via Obj.SEC_IMAGE_INSTALL 0 .accessDenied 0
    if !installOk s p chk m body then refused s
    else match ensureRange s p x.dst body.length x.keyslot with
      | none => refused s
      | some s =>
        let y : Installed := { addr := x.dst, manifest := m, length := body.length, digest := chk.digest, keyslot := x.keyslot }
        let s := (s.vWrite p x.dst body).onPallet p (fun q => { q with installed := q.installed ++ [y] })
        completeObject s x.via Obj.SEC_IMAGE_INSTALL 0 .ok x.dst

def execImageInstallDone (p : PalletNo) (chk : ImageCheck) (m : Manifest) (body : List Byte) (t : Nat) (s : State) : Outcome :=
  .next (imageInstallDone p chk m body (s.at t))

end Sys2Proof.Machine
end

