-- ==== Sys2Proof/Machine/Observe.lean ====
section
/-! DEFINITION. The instruments of chapter 19: program-counter samples (R434 to R436), interval records (R438), the trace
(R441 to R444), the OBS outputs (R445); the test port (R482), the management ports, module health (R428) and MOD_FAULT_N
(R430, R431). -/

namespace Sys2Proof.Machine

/-! ## Program-counter samples -/

/-- The k-th brick of the claim ring (R38, R434). -/
def Rect.ringBrick (g : Rect) (k : Nat) : Nat :=
  let row := k / g.ncol
  let col := k % g.ncol
  (g.course0 + row) * 40 + g.col0 + (if row % 2 = 0 then col else g.ncol - 1 - col)

/-- STATE of a core in a sampled cycle (R435). Of a core that runs, the model does not time the cycle, so which of RUN, BANK,
FETCH and CLOCK it is in is a free value. -/
def coreState (s : State) (p : Nat) (c : Core) : Nat × State :=
  if (s.pallet p).state == .halted then (8, s)
  else if !c.started then (9, s)
  else match c.waiting with
    | some (.take _ _) => (1, s)
    | some (.put _ _ _) => (2, s)
    | some (.cwait _ _ _) => (2, s)
    | some (.await _ _ _) => (3, s)
    | some (.bwait _) => (4, s)
    | some (.bmove _ _ _ _) => (4, s)
    | none =>
      let f := s.fresh 2
      (if f.1 = 0 then 0 else f.1 + 4, f.2)

/-- The stall cause of a core's token, 0 to 6; none for a core that holds no token. The model keeps no stall by token, so it is
a free value. -/
def coreCause (s : State) (st : Nat) : Nat × State :=
  if st = 8 || st = 9 then (0, s)
  else
    let f := s.fresh 3
    (f.1 % 7, f.2)

/-- The sample of one micro-core (R435). -/
def pcEntry (s : State) (p b c seq : Nat) : List Byte × State :=
  let k := s.core b c
  let st := coreState s p k
  let mc := coreCause st.2 st.1
  (pack [(k.pc.toNat, 4), (b + c * 2 ^ 11 + st.1 * 2 ^ 19 + mc.1 * 2 ^ 23, 4), (s.cmdId p, 4), (seq, 4), (s.now, 8),
    (k.kind, 1), (0, 7)], mc.2)

/-- Samples of OBS_PC_BUF. -/
def State.pcCapacity (s : State) (p : Nat) : Nat := s.obj Obj.OBS_PC_BUF_KIB p * 32

/-- PC_SAMPLE (R434, R436): at an instant of the period; one that finds 64 samples in flight is dropped, and still counts. No
sample is taken while the PROFILE gate is closed, and the instants go on (R432). -/
def pcSample (p : Nat) (full : Bool) (s : State) : State :=
  let period := s.obj Obj.OBS_PC_PERIOD_NS p
  let g := s.rect p
  if period = 0 || s.now % period ≠ 0 || g.size = 0 then s
  else
    let n := NMap.get 0 s.obs.pcNext p
    let s := { s with obs := { s.obs with pcNext := NMap.put 0 s.obs.pcNext p (n + 1) } }
    if !s.profileOn then s
    else if full then s.bump Obj.OBS_PC_DROPPED p
    else
      let s := s.bump Obj.OBS_PC_SAMPLES p
      let seq := s.obj Obj.OBS_PC_SAMPLES p
      let e := pcEntry s p (g.ringBrick (n % g.size)) (n / g.size % 256) seq
      let s := e.2
      { s with obs := { s.obs with
        pcBufs := NMap.put [] s.obs.pcBufs p
          (memWrite (NMap.get [] s.obs.pcBufs p) ((seq - 1) % s.pcCapacity p * 32) e.1) } }

def execPcSample (p : PalletNo) (inflightFull : Bool) (t : Nat) (s : State) : Outcome :=
  .next (pcSample p.val inflightFull (s.at t))

/-! ## Interval records -/

/-- COUNTER_INTERVAL_RECORD (R438): at an instant of a pallet's interval, or of the global set's 100 µs. -/
def intervalRecord (set : Option Nat) (s : State) : State := match set with
  | some p =>
    let i := s.obj Obj.OBS_CNT_INTERVAL_NS p
    if i = 0 || s.now % i ≠ 0 then s else cntRecord s p 2 (s.pallet p).run.isSome (s.cmdId p)
  | none =>
    if s.now % 100000 ≠ 0 then s else cntRecord s 16 2 (s.pallets.any (fun e => e.2.run.isSome)) 0

def execCounterIntervalRecord (set : Option PalletNo) (t : Nat) (s : State) : Outcome :=
  .next (intervalRecord (set.map Fin.val) (s.at t))

/-! ## The trace -/

/-- The bits of OBS_TRACE_CTRL that a write sets: SIZE, SRC_EN, PALLETS, NODE, PORT and ALL_PORTS (R441). -/
def ctrlStored (v : Nat) : Nat :=
  bitsOf v 1 2 * 2 + bitsOf v 32 32 * 2 ^ 32 + bitsOf v 96 17 * 2 ^ 96

/-- The parts of OBS_TRACE_TRIGGER that a match needs (R443, R444): MODE is not 0 and not reserved; one that matches has a
TSRC of 1 to 9 and a COUNT. -/
def triggerOk (g : Nat) : Bool :=
  let mode := bitsOf g 4 4
  1 ≤ mode && mode ≤ 3 && (mode == 2 || (1 ≤ bitsOf g 0 4 && bitsOf g 0 4 ≤ 9 && 1 ≤ bitsOf g 8 8))

/-- OFF to ARMED (R444). -/
def traceStart (s : State) : State :=
  traceMarker { s with obs := { s.obs with
    trace := [], traceNext := 0, traceWrapped := false, traceMark := 0, traceSince := 0, traceMatches := 0, traceState := 1,
    postLeft := 0, tTrigger := 0, extra := [] } }

/-- A write of OBS_TRACE_CTRL (R441, R444): refused outside OFF, and while the TRACE gate is closed (R353). -/
def traceCtrl (v : Nat) (s : State) : State × Status × List Byte :=
  if s.obs.traceState ≠ 0 || !s.gate 0 then (s, .accessDenied, [])
  else if bitsOf v 32 1 ≠ 0 || bitsOf v 42 6 ≠ 0 then (s, .transportError, [])
  else
    let s' := s.setObj Obj.OBS_TRACE_CTRL 0 (ctrlStored v)
    if !bitOf v 0 then (s', .ok, [])
    else if s.obj Obj.OBS_TRACE_POST 0 < s'.traceCapacity && triggerOk (s.obj Obj.OBS_TRACE_TRIGGER 0) then
      (traceStart s', .ok, [])
    else (s, .transportError, [])

def traceArm (via : Via) (v : Nat) (s : State) : State := s.objWrite via (s.isPriv via) (traceCtrl v)

def execTraceArm (via : Via) (ctrl : BitVec 128) (t : Nat) (s : State) : Outcome :=
  .next (traceArm via ctrl.toNat (s.at t))

/-- OBS_TRACE_CTRL as it reads: ARM, NEXT and WRAPPED show the trace (R441). -/
def State.traceCtrlWord (s : State) : Nat :=
  s.obj Obj.OBS_TRACE_CTRL 0 + b2n (decide (s.obs.traceState ≠ 0)) + s.obs.traceNext % 2 ^ 21 * 2 ^ 64
    + b2n s.obs.traceWrapped * 2 ^ 85

/-- TRACE_TIME_TRIGGER (R443): the first cycle at or past T_AT; after a trigger the condition counts as extra, once. -/
def timeTrigger (s : State) : State :=
  let g := s.obj Obj.OBS_TRACE_TRIGGER 0
  let due := bitsOf g 192 64
  if !((bitsOf g 4 4 == 2 || bitsOf g 4 4 == 3) && due ≤ s.now && s.gate 0) then s
  else if s.obs.traceState = 1 then traceFire (traceMarker s)
  else if 2 ≤ s.obs.traceState && s.obs.tTrigger < due then
    traceExtra (if s.traceWrites then traceMarker s else s)
  else s

def execTraceTimeTrigger (t : Nat) (s : State) : Outcome := .next (timeTrigger (s.at t))

/-- The pallet or the port that a sample's payload names (R442). -/
def sampleUnit (s : State) (src payload : Nat) : Nat := match src with
  | 1 => bitsOf payload 0 4
  | 2 => bitsOf payload 36 4
  | 3 => match NMap.get? s.req.requests (bitsOf payload 24 16) with
    | some r => r.pallet
    | none => 16
  | 4 => (s.palletOf (bitsOf payload 0 11)).getD 16
  | 5 => bitsOf payload 0 4
  | 6 => (s.palletOf (bitsOf payload 0 11)).getD 16
  | 8 => bitsOf payload 36 4
  | _ => 0

/-- TRACE_TRIGGER (R444): a sample of a source the trace records. -/
def traceTrigger (src payload : Nat) (s : State) : State :=
  if 1 ≤ src && src ≤ 9 then traceSample s src (sampleUnit s src payload) payload else s

def execTraceTrigger (src : Nat) (payload : BitVec 40) (t : Nat) (s : State) : Outcome :=
  .next (traceTrigger src payload.toNat (s.at t))

/-- TRACE_FREEZE (R444): R has reached zero. -/
def traceFreeze (s : State) : State :=
  if s.obs.traceState = 2 && s.obs.postLeft = 0 then { s with obs := { s.obs with traceState := 3 } } else s

def execTraceFreeze (s : State) : Outcome := .next (traceFreeze s)

/-- The size of OBS_TRACE_BUF in bytes. -/
def State.traceSize (s : State) : Nat := s.traceCapacity * 8

/-- The bytes of the trace buffer that lie in a range; it reads as zero while the TRACE gate is closed (R353). -/
def State.traceBytes (s : State) (off n : Nat) : List Byte :=
  if !s.gate 0 then zeros n
  else (List.range n).map (fun i => BitVec.ofNat 8 (bitsOf (NMap.get 0 s.obs.trace ((off + i) / 8)) (8 * ((off + i) % 8)) 8))

/-- A read of a range of OBS_TRACE_BUF has returned its data: one that covers the last byte of a frozen buffer sets OFF. -/
def traceReadDone (s : State) (off n : Nat) : State :=
  if s.obs.traceState = 3 && 0 < n && off + n = s.traceSize then { s with obs := { s.obs with traceState := 0 } } else s

/-! ## The OBS outputs -/

/-- A selection of R445. -/
def selectionValid (v : Nat) : Bool :=
  let i := bitsOf v 0 12
  match bitsOf v 12 4 with
  | 0 => i = 0
  | 1 => i < 1200
  | 2 => i < 1200
  | 3 => i < 16
  | 4 => bitsOf i 0 4 < 12 && bitsOf i 4 8 ≤ 5
  | 5 => 3 ≤ i && i ≤ 64
  | 6 => i ≤ 1
  | 7 => i ≤ 10
  | _ => false

/-- A write of OBS_MUX_SEL (R445): refused while the OBS gate is closed (R353); every selection is valid or none changes. -/
def muxSelect (v : Nat) (s : State) : State × Status × List Byte :=
  if !s.gate 2 then (s, .accessDenied, [])
  else if (List.range 16).all (fun k => selectionValid (bitsOf v (16 * k) 16)) then
    (s.setObj Obj.OBS_MUX_SEL 0 (v % 2 ^ 256), .ok, [])
  else (s, .transportError, [])

/-- OBS_MUX_SEL as selections, one a command operand. -/
def obsMuxSel (via : Via) (sel : List Nat) (s : State) : State :=
  s.objWrite via (s.isPriv via) (fun s =>
    if sel.length ≠ 16 || sel.any (fun x => 65536 ≤ x) then (s, .transportError, [])
    else muxSelect (ofBytes (pack (sel.map (fun x => (x, 2))))) s)

def execObsMuxSel (via : Via) (sel : List Nat) (s : State) : Outcome := .next (obsMuxSel via sel s)

/-- The level of an output whose selected signal is a level of the state (R445); none for a signal that the model does not time
(an array issuing, delivered power, frames and pulses). The 20 ns latency and OBS_CLK (R446) are timing. -/
def State.obsPin (s : State) (k : Nat) : Option Bool :=
  let v := s.objField Obj.OBS_MUX_SEL 0 (2 * k) 2
  let i := bitsOf v 0 12
  let q := NMap.get Port.reset s.ports (bitsOf i 0 4)
  match bitsOf v 12 4, bitsOf i 4 8 with
  | 0, _ => some false
  | 2, _ => some (!(s.brick i).tokens.isEmpty)
  | 3, _ => some ((s.pallet i).state == .running)
  | 4, 0 => some (q.state == .up || q.state == .upSpared)
  | 4, 1 => some (q.rxSpareUsed || q.txSpareUsed)
  | 4, 2 => some (q.pausedTill.any (fun e => s.now < e.2))
  | 5, _ => some (if i = 64 then s.tb.state == .locked else bitOf s.now i)
  | 6, 1 => some (!s.array.lowering.isEmpty)
  | _, _ => none

/-! ## Health and MOD_FAULT_N -/

/-- A loaded pallet, and all of them halted. -/
def allHalted (s : State) : Bool :=
  let l := s.pallets.filter (fun e => e.2.state ≠ .empty)
  !l.isEmpty && l.all (fun e => e.2.state == .halted)

/-- FAILED (R428, R459). An island pair stopped under R37 stays stopped until reset. -/
def State.failed (s : State) : Bool :=
  s.obj Obj.BRK_BOOT_STATE 0 == 2 || (s.tb.state == .freerun && s.boot.wasLocked) || 0 < s.obj Obj.PWR_THERMAL_STOPS 0
    || allHalted s || s.boot.stage == .refLost

/-- A management port is fitted (R463): MGMT_B by the strap MGMT_B_EN, from the latching of the straps on. -/
def State.mgmtFitted (s : State) (p : Nat) : Bool :=
  p ≠ 1 || s.boot.stage == .railsUp || bitOf (s.obj Obj.BRK_STRAPS 0) 3

/-- DEGRADED's conditions (R428). A port that is not fitted is excluded (R463). -/
def State.degraded (s : State) : Bool :=
  (List.range 12).any (fun k =>
      let q := NMap.get Port.reset s.ports k
      (s.obj Obj.LNK_PORT_ENABLE k % 2 == 1 && !(q.state == .up || q.state == .upSpared)) || q.rxSpareUsed || q.txSpareUsed)
    || (List.range 2).any (fun p => s.mgmtFitted p && !s.boot.mgmtUp.contains p) || s.tb.state ≠ .locked || s.obj Obj.ERR_BRICK_FAILED 0 ≠ 0
    || s.req.requests.any (fun e => (liveMembers s e.2.copyGroup).length < 6) || s.obj Obj.BRK_BOOT_STATE 0 == 3 || s.obj Obj.HST_LINK_DEGRADED 0 == 1

/-- ERR_HEALTH: 2 FAILED, 1 DEGRADED, 0 OK. -/
def State.health (s : State) : Nat := if s.failed then 2 else if s.degraded then 1 else 0

/-- The level of MOD_FAULT_N (R430), driven only while MOD_PWRGD is high (R478). -/
def State.modFaultN (s : State) : Option Bool :=
  if s.boot.modPwrgd then some (!(s.boot.assertion || s.health == 2 || s.boot.stage == .kilnOnly)) else none

/-- The level of THERM_ALERT_N (R456), driven only while MOD_PWRGD is high (R478). -/
def State.thermAlertN (s : State) : Option Bool := if s.boot.modPwrgd then some (!s.boot.thermAlert) else none

/-- A write of ERR_FAULT_CLEAR (R431): 1 removes the event assertion. -/
def faultClear (v : Nat) (s : State) : State × Status × List Byte :=
  if v = 1 then ({ s with boot := { s.boot with assertion := false } }, .ok, []) else (s, .transportError, [])

def errFaultClear (via : Via) (v : Nat) (s : State) : State := s.objWrite via (s.isPriv via) (faultClear v)

def execErrFaultClear (via : Via) (value : Nat) (s : State) : Outcome := .next (errFaultClear via value s)

/-- MANAGEMENT_PORT_LINK (R428). A port that is not fitted stays down (R463). -/
def mgmtLink (port : Nat) (up : Bool) (s : State) : State :=
  let l := s.boot.mgmtUp.filter (fun x => x ≠ port)
  { s with boot := { s.boot with mgmtUp := if up && s.mgmtFitted port then port :: l else l } }

def execManagementPortLink (port : Fin 2) (up : Bool) (t : Nat) (s : State) : Outcome :=
  .next (mgmtLink port.val up (s.at t))

/-! ## The test port (R482) -/

/-- The number that lands spell, the first as bit 0. -/
def pinsNat (pins : List Bool) : Nat := (pins.zipIdx.map (fun (e : Bool × Nat) => b2n e.1 * 2 ^ e.2)).sum

/-- Sets the instruction register of the test port. -/
def tapSelect (s : State) (ir : Nat) : State := { s with boot := { s.boot with tapIr := ir } }

/-- BYPASS: the one-bit register captures 0 (IEEE 1149.1). -/
def tapBypass (s : State) : State := (tapSelect s 0xFF).emit (.tap 0)

/-- The boundary register takes the levels of its lands and is scanned out. -/
def tapScan (s : State) (ir : Nat) (pins : List Bool) : State :=
  let s := tapSelect s ir
  ({ s with boot := { s.boot with boundary := pins } }).emit (.tap (pinsNat pins))

/-- EXTEST: BYPASS while the TAP gate is closed (R353). -/
def extest (pins : List Bool) (s : State) : State := if s.gate 3 then tapScan s 0 pins else tapBypass s

def execExtest (pins : List Bool) (s : State) : Outcome := .next (extest pins s)

def execIdcode (s : State) : Outcome := .next ((tapSelect s 1).emit (.tap 0xB4810A5B))

def execSamplePreload (pins : List Bool) (s : State) : Outcome := .next (tapScan s 2 pins)

def execBypass (s : State) : Outcome := .next (tapBypass s)

end Sys2Proof.Machine
end

