-- ==== Sys2Proof/Machine/Rings.lean ====
section
/-! DEFINITION. Host rings, doorbells and SEQ waits (R366 to R369), MSI-X (R374), accesses to host memory (R378), and the resets
and configuration of the CXL functions (R379, R461, R464). -/

namespace Sys2Proof.Machine

/-! ## Enabling and disabling (R366, R367) -/

/-- Bytes of a ring with the status line after a CPL or RESULT ring. -/
def Ring.span (v : Ring) : Nat := if v.kind = 3 then v.size * 32 + 64 else v.area

/-- KIND and the size are in range; BASE is aligned. -/
def Ring.formed (v : Ring) : Bool :=
  1 ≤ v.kind && v.kind ≤ 4 && v.base % 4096 = 0
    && (if v.kind = 4 then 20 ≤ v.logSize && v.logSize ≤ 30 else 6 ≤ v.logSize && v.logSize ≤ 16)

/-- The checks of an enable (R367). -/
def enableOk (s : State) (o r : Nat) : Bool :=
  let v := s.ring o r
  let target := fun (kind : Nat) => (s.ring o v.target).enable && (s.ring o v.target).kind == kind
  v.formed && v.base + v.span ≤ s.winSize o
    && (List.range 64).all (fun i =>
      let w := s.ring o i
      i = r || !w.enable || v.base + v.span ≤ w.base || w.base + w.span ≤ v.base)
    && (v.kind ≠ 1 || target 3) && (v.kind ≠ 2 || (target 4 && s.ownsPallet o v.pallet))

/-- A STEP ring's descriptors that are not taken are dropped, and the ring leaves its step domain. -/
def dropStep (s : State) (o r : Nat) : State :=
  let k := o * 64 + r
  let v := s.ring o r
  if v.kind ≠ 2 then s else orderDrop (s.setDescs k []) v.pallet k

/-- ENABLE written 1. -/
def ringEnable (o r : Nat) (s : State) : State :=
  let v := s.ring o r
  if v.enable || v.state ≠ 0 then s
  else if enableOk s o r then
    let k := o * 64 + r
    let s := freshEntity s false k
    let s := { s with asc := { s.asc with ringClass := NMap.del s.asc.ringClass k, descs := NMap.put [] s.asc.descs k [] } }
    s.setRing o r { v with
      enable := true, state := 1, head := 0, tail := 0, errStatus := 0, visible := 0, waitSince := none, taken := 0,
      draining := false, unsignalled := 0, firstAt := none, held := [], heldRecs := [], heldSince := none, pass := 0 }
  else s.bump Obj.HST_DB_REFUSED o

def execRingEnable (o : OwnerNo) (r : RingNo) (s : State) : Outcome := .next (ringEnable o r s)

/-- ENABLE written 0: taken entries complete, and the ring is then DISABLED. -/
def ringDisable (o r : Nat) (s : State) : State :=
  let v := s.ring o r
  if !v.enable then s
  else
    let s := dropStep s o r
    ringDrained (s.onRing o r (fun v => { v with enable := false, draining := true, waitSince := none })) o r

def execRingDisable (o : OwnerNo) (r : RingNo) (s : State) : Outcome := .next (ringDisable o r s)

/-- The fields of a word of a ring configuration entry that are writable while ENABLE is 0. -/
def ringFields (v : Ring) (word x : Nat) : Ring :=
  if word = 0 then
    { v with kind := bitsOf x 1 3, pallet := bitsOf x 4 4, logSize := bitsOf x 16 5, target := bitsOf x 21 6 }
  else if word = 1 then { v with vector := bitsOf x 0 11, coalCount := bitsOf x 16 16 }
  else if word = 2 then { v with coalNs := bitsOf x 0 32 }
  else if word = 4 then { v with base := v.base / 2 ^ 32 * 2 ^ 32 + bitsOf x 0 32 }
  else if word = 5 then { v with base := bitsOf x 0 32 * 2 ^ 32 + v.base % 2 ^ 32 }
  else v

/-- A write of a word of a ring configuration entry (R366). ENABLE, bit 0 of word 0, takes effect after the fields. -/
def ringWord (o r word x : Nat) (s : State) : State :=
  let s := if (s.ring o r).enable then s.bump Obj.HST_DB_REFUSED o else s.onRing o r (fun v => ringFields v word x)
  if word ≠ 0 then s else if bitOf x 0 then ringEnable o r s else ringDisable o r s

def execRingConfigurationWrite (o : OwnerNo) (r : RingNo) (word : Fin 6) (value : Nat) (s : State) : Outcome :=
  .next (ringWord o r word value s)

/-- The 64 bytes of a ring configuration entry (R366). -/
def Ring.bytes (v : Ring) : List Byte :=
  pack [(b2n v.enable + v.kind * 2 + v.pallet * 2 ^ 4 + v.state * 2 ^ 8 + v.logSize * 2 ^ 16 + v.target * 2 ^ 21, 4),
    (v.vector + v.coalCount * 2 ^ 16, 4), (v.coalNs, 4), (0, 4), (v.base, 8), (v.head, 4), (v.tail, 4), (v.errStatus, 1)]
  ++ zeros 31

/-! ## Doorbells and SEQ (R368, R369) -/

/-- The SEQ of the entry at `visible` matches. -/
def seqMatches (s : State) (o : Nat) (v : Ring) : Bool :=
  s.winNat o (v.entryAddr v.visible + 2) 2 == v.visible % 65536

/-- Reads new entries in order: those whose SEQ matches become visible; at the first that does not, a wait begins. `n` bounds
their number. -/
def readEntries : Nat → Nat → Nat → State → State
  | 0, _, _, s => s
  | n + 1, o, r, s =>
    let v := s.ring o r
    if v.visible = v.tail then s.setRing o r { v with waitSince := none }
    else if seqMatches s o v then
      readEntries n o r (s.setRing o r { v with visible := (v.visible + 1) % 2 ^ 32, waitSince := none })
    else if v.waitSince.isSome then s
    else (s.setRing o r { v with waitSince := some s.now }).bump Obj.HST_SEQ_WAITS o

/-- Reads what is new of a CMD or STEP ring; entries that no command reads are passed over (R370). -/
def readRing (s : State) (o r : Nat) : State := skipBad 65536 o r (readEntries 65537 o r s)

/-- A tail doorbell: beyond the ring's size it is a ring error. One that goes back below what is visible changes nothing. -/
def tailDoorbell (o r value : Nat) (s : State) : State :=
  let v := s.ring o r
  let used := (value + 2 ^ 32 - v.head) % 2 ^ 32
  if v.state ≠ 1 then s
  else if v.size < used then ringError s o r .transportError
  else if used < (v.visible + 2 ^ 32 - v.head) % 2 ^ 32 then s
  else readRing (s.setRing o r { v with tail := value }) o r

/-- A head doorbell: space is freed, and what was held for want of it is written. One that names a place the device has not
written is refused. -/
def headDoorbell (o r value : Nat) (s : State) : State :=
  let v := s.ring o r
  if v.used < (v.tail + 2 ^ 32 - value) % 2 ^ 32 then s.bump Obj.HST_DB_REFUSED o
  else
    let s := s.setRing o r { v with head := value }
    if v.kind = 3 then releaseCpl (v.held.length + 1) o r s else releaseRecords (v.heldRecs.length + 1) o r s

/-- A ring doorbell: the value is a new TAIL or HEAD by the ring's kind. -/
def ringDoorbell (o r value : Nat) (s : State) : State :=
  let v := s.ring o r
  let s := s.bump Obj.HST_DOORBELLS o
  if !v.enable then s.bump Obj.HST_DB_REFUSED o
  else if v.kind = 1 || v.kind = 2 then tailDoorbell o r (value % 2 ^ 32) s
  else headDoorbell o r (value % 2 ^ 32) s

def execRingTailDoorbell (o : OwnerNo) (r : RingNo) (value t : Nat) (s : State) : Outcome :=
  .next (ringDoorbell o r value (s.at t))
def execRingHeadDoorbell (o : OwnerNo) (r : RingNo) (value t : Nat) (s : State) : Outcome :=
  .next (ringDoorbell o r value (s.at t))

/-- SEQ_REREAD: the entry whose SEQ did not match is read again. -/
def seqReread (o r : Nat) (s : State) : State :=
  if (s.ring o r).active && (s.ring o r).waitSince.isSome then readRing s o r else s

def execSeqReread (o : OwnerNo) (r : RingNo) (t : Nat) (s : State) : Outcome := .next (seqReread o r (s.at t))

/-- SEQ_WAIT_EXPIRY: SEQ still differs HST_SEQ_WAIT_US after the first read. -/
def seqWaitExpiry (o r : Nat) (s : State) : State :=
  let v := s.ring o r
  match v.waitSince with
  | none => s
  | some w =>
    if v.active && w + s.obj Obj.HST_SEQ_WAIT_US o * 1000 ≤ s.now && !seqMatches s o v then ringError s o r .transportError else s

def execSeqWaitExpiry (o : OwnerNo) (r : RingNo) (t : Nat) (s : State) : Outcome := .next (seqWaitExpiry o r (s.at t))

/-- HST_FM_DOORBELL (R377): the instance is the doorbell's offset divided by 8. -/
def fmDoorbell (inst value : Nat) (s : State) : Status × State :=
  if inst < 64 then (.ok, ringDoorbell 16 inst value s)
  else if inst = 256 then
    if bitsOf value 19 13 ≠ 0 then (.ok, (s.bump Obj.HST_DOORBELLS 16).bump Obj.HST_DB_REFUSED 16)
    else if bitOf value 18 then (.ok, cqDoorbell 16 (bitsOf value 0 18) (bitsOf value 32 32) s)
    else (.ok, queueDoorbell 16 (bitsOf value 0 18) (bitsOf value 32 32) s)
  else if inst < 512 then (.ok, s)
  else (.accessDenied, s)

def hstFmDoorbell (via : Via) (inst value : Nat) (s : State) : State :=
  s.objWrite via (s.isPriv via) (fun s =>
    let r := fmDoorbell inst value s
    (r.2, r.1, []))

def execHstFmDoorbell (via : Via) (inst value t : Nat) (s : State) : Outcome := .next (hstFmDoorbell via inst value (s.at t))

/-! ## MSI-X and the LD control block (R365, R374) -/

/-- MSIX_COALESCE_EXPIRY: COAL_NS has passed since the first unsignalled entry. -/
def coalesceExpiry (o r : Nat) (s : State) : State :=
  let v := s.ring o r
  match v.firstAt with
  | none => s
  | some f =>
    if v.coalNs ≠ 0 && f + v.coalNs ≤ s.now then
      sendMsix (s.setRing o r { v with unsignalled := 0, firstAt := none }) o v.vector
    else s

def execMsixCoalesceExpiry (o : LdNo) (r : RingNo) (t : Nat) (s : State) : Outcome := .next (coalesceExpiry o r (s.at t))

/-- MSIX_VECTOR_UNMASK: the message that waited is sent and its pending bit clears. -/
def vectorUnmask (o vector : Nat) (s : State) : State :=
  let d := s.ld o
  let s := s.setLd o { d with
    unmasked := if d.unmasked.contains vector then d.unmasked else vector :: d.unmasked,
    msixPending := d.msixPending.filter (fun v => v ≠ vector) }
  if d.msixPending.contains vector then s.emit (.msix o vector) else s

def execMsixVectorUnmask (o : LdNo) (vector : Nat) (s : State) : Outcome := .next (vectorUnmask o vector s)

/-- LD_STATUS_CLEAR: a write of the LD control block. STATUS bits written 1 clear, and EVENT_RING and EVENT_EN take what is
written to them. -/
def ldControl (o : Nat) (w : LdControl) (s : State) : State :=
  s.onLd o (fun d => { d with
    status := d.status &&& ~~~w.clear, eventRing := (w.events.map (fun e => e.1.val)).getD d.eventRing,
    eventEn := (w.events.map (·.2)).getD d.eventEn })

def execLdStatusClear (o : LdNo) (word : LdControl) (s : State) : Outcome := .next (ldControl o word s)

/-! ## Accesses to host memory (R378) -/

/-- An access to host memory fails, and with it what it served. -/
def hostFail (s : State) (d : Dma) : State :=
  let s := dmaFail s d.ld d.addr
  match d.purpose with
  | .page p handle => pageFailed s p handle
  | .context q => queueError (s.onQueue q (fun v => { v with fetching := false })) q none .targetDead
  | .placement id => match s.mem.placements.find? (fun x => x.id == id) with
    | none => s
    | some x =>
      complete (dropPlacement s x) x.source 0x07 .targetDead x.cmd.tag

/-- An access to host memory ends. -/
def hostDone (id : Nat) (ok : Bool) (s : State) : State := match s.host.dmas.find? (fun d => d.id == id) with
  | none => s
  | some d =>
    let s := endDmas s (fun x => x.id == id)
    if ok then s else hostFail s d

def execHostDmaDone (id : Nat) (ok : Bool) (t : Nat) (s : State) : Outcome := .next (hostDone id ok (s.at t))

/-- DMA_TIMEOUT: no completion within HST_DMA_TIMEOUT_US. -/
def hostTimeout (id : Nat) (s : State) : State := match s.host.dmas.find? (fun d => d.id == id) with
  | none => s
  | some d => if d.since + s.obj Obj.HST_DMA_TIMEOUT_US d.ld * 1000 ≤ s.now then hostDone id false s else s

def execDmaTimeout (id t : Nat) (s : State) : Outcome := .next (hostTimeout id (s.at t))

/-! ## Resets (R379) -/

/-- A ring of a reset LD is DISABLED; its configuration stays. -/
def ringReset (s : State) (o r : Nat) : State :=
  let v := s.ring o r
  (dropStep s o r).setRing o r { Ring.reset with
    kind := v.kind, pallet := v.pallet, logSize := v.logSize, target := v.target, vector := v.vector, coalCount := v.coalCount,
    coalNs := v.coalNs, base := v.base }

/-- A queue of a reset LD: an error event with FLUSHED, then RESET. -/
def queueReset (s : State) (q : Nat) : State :=
  let s := (queueError s q none .flushed).setQueue q Queue.reset
  { s with trn := { s.trn with missed := s.trn.missed.filter (fun x => x.1 ≠ q) } }

/-- The records of the steps of an LD that run are discarded. -/
def discardRecords (s : State) (o : Nat) : State :=
  (List.range 16).foldl (fun s p => s.onRun p (fun r => { r with discarded := r.discarded || r.o == o })) s

/-- FLR or CXL LD reset of LD `o`. -/
def ldReset (o : Nat) (s : State) : State :=
  let s := discardRecords s o
  let s := (s.trn.queues.filter (fun e => e.2.state ≠ 0 && e.2.ld == o)).foldl (fun s e => queueReset s e.1) s
  let s := (s.trn.regs.filter (fun e => e.2.state == 1 && e.2.ld == o)).foldl (fun s e => startRevoke s e.1 none) s
  let s := ((s.host.rings.filter (fun e => e.1 / 64 = o)).map (fun e => e.1 % 64)).foldl (fun s r => ringReset s o r) s
  let s := s.onLd o (fun d => { d with busMaster := false, d3hot := false, unmasked := [], msixPending := [] })
  s.bump Obj.HST_LD_RESETS o

def execLdReset (o : LdNo) (t : Nat) (s : State) : Outcome := .next (ldReset o (s.at t))

/-- A conventional reset of the CXL link: every LD is reset, and its HDM decoder with it. -/
def linkReset (s : State) : State :=
  (List.range 16).foldl (fun s o =>
    (ldReset o s).onLd o (fun d => { d with decoderCommitted := false, decoderError := false })) s

def execConventionalReset (t : Nat) (s : State) : Outcome := .next (linkReset (s.at t))

/-! ## The CXL link and its functions (R358, R461, R464) -/

/-- CXL_PERST_N rises: the retry window starts and the link trains. -/
def perstRise (s : State) : State :=
  { s with boot := { s.boot with perstAt := some s.now, linkWidth := 0, linkGts := 0 } }

def execCxlPerstN (t : Nat) (s : State) : Outcome := .next (perstRise (s.at t))

/-- CXL_LINK_TRAINED: a link narrower or slower than ×16 at 32 GT/s is reported. -/
def linkTrained (width gts : Nat) (s : State) : State :=
  if s.boot.perstAt.isNone then s
  else
    let s := { s with boot := { s.boot with linkWidth := width, linkGts := gts } }
    let v := if width < 16 || gts < 32 then 1 else 0
    (List.range 16).foldl (fun s o => s.setObj Obj.HST_LINK_DEGRADED o v) s

def execCxlLinkTrained (width speedGts t : Nat) (s : State) : Outcome := .next (linkTrained width speedGts (s.at t))

/-- Configuration requests are answered with Request Retry Status: the mailboxes are not open, or CXL_PERST_N has not been high
for 100 ms. -/
def State.cfgRetry (s : State) : Bool := !s.running || (match s.boot.perstAt with
  | some a => s.now < a + 100000000
  | none => true)

/-- Bits of a word that the spec gives, in the places of a mask; the others are free. -/
def cfgBits (o dvsec offset mask v : Nat) : Nat :=
  let w := Config.cfgWord o dvsec offset % 2 ^ 32
  (w &&& (mask ^^^ (2 ^ 32 - 1))) ||| v

/-- A word of the header of an LD's function (R359): IDs, Bus Master Enable, Revision ID and class code. -/
def headerWord (s : State) (o offset : Nat) : Nat :=
  if offset = 0 then 0x48101F3A
  else if offset = 4 then cfgBits o 0 4 4 (b2n (s.ld o).busMaster * 4)
  else if offset = 8 then 0x050210B0
  else Config.cfgWord o 0 offset % 2 ^ 32

/-- A word of a DVSEC of an LD's function (R359): its vendor and ID, and what the device sets in it. -/
def dvsecWord (s : State) (o d offset : Nat) : Nat :=
  let bits := cfgBits o (d + 1) offset
  if offset = 4 then bits 0xFFFF 0x1E98
  else if offset = 8 then
    if d = 0 then bits 0x37FFFF 0x160000
    else if d = 2 then 2
    else if d = 7 then bits 0x7FFFF (0x60000 + 7)
    else if d = 9 then 16 * 2 ^ 16 + 9
    else bits 0xFFFF d
  else if d = 0 && offset = 0x18 then (s.ld o).hdmMib / 4096
  else if d = 0 && offset = 0x1C then bits 0xF0000000 ((s.ld o).hdmMib / 256 % 16 * 2 ^ 28)
  else if d = 2 && 0xC ≤ offset then 0
  else if d = 7 && offset = 0xC then bits 7 6
  else if d = 8 && offset = 0xC then 0x00000100
  else if d = 8 && offset = 0x14 then 0x00010300
  else if d = 8 && (offset = 0x10 || offset = 0x18) then 0
  else Config.cfgWord o (d + 1) offset % 2 ^ 32

/-- CONFIGURATION_REQUEST: performed, or answered with Request Retry Status. -/
def configRequest (o : Nat) (op : CfgAccess) (busMaster d3hot : Option Bool) (s : State) : State :=
  if s.cfgRetry then s.emit (.cfg o true none)
  else match op with
    | .write => (s.onLd o (fun d => { d with
        busMaster := busMaster.getD d.busMaster, d3hot := d3hot.getD d.d3hot })).emit (.cfg o false none)
    | .read none n => s.emit (.cfg o false (some (headerWord s o n)))
    | .read (some d) n => s.emit (.cfg o false (some (dvsecWord s o d n)))

def execConfigurationRequest (o : LdNo) (op : CfgAccess) (busMaster d3hot : Option Bool) (t : Nat) (s : State) : Outcome :=
  .next (configRequest o op busMaster d3hot (s.at t))

end Sys2Proof.Machine
end

