-- ==== Sys2Proof/Machine/Reads.lean ====
section
/-! DEFINITION. Reads of dictionary objects: the views (R333 to R335), the values that the module computes when they are read,
and shadows (R385). -/

namespace Sys2Proof.Machine

/-! ## Addresses and views -/

/-- The OID of an address, none where the index or subindex is outside its width (R381). -/
def oidOf (a : ObjAddr) : Option Nat := if a.index < 65536 && a.sub < 256 then some (a.index * 256 + a.sub) else none

/-- The object that an address names, with an instance that exists. -/
def objAt (a : ObjAddr) : Option ObjRow := match (oidOf a).bind objRow? with
  | some r => if r.space.has a.inst then some r else none
  | none => none

/-- The identity area (R405). -/
def ObjRow.identity (r : ObjRow) : Bool := r.oid / 256 == 0x1000

/-- Objects that an unauthenticated session may read (R335). -/
def ObjRow.openRead (r : ObjRow) : Bool := r.identity || r.oid / 256 == 0x6000 || r.oid == Obj.SEC_ATTEST_REPORT

/-- An instance belongs to an LD or its tenant (R334); a queue in RESET belongs to nobody. -/
def ownInstance (s : State) (o : Nat) (sp : Space) (i : Nat) : Bool := match sp with
  | .module => true
  | .pallet => s.ownsPallet o i
  | .window => s.ownsPallet o (i / 4096)
  | .queue => (s.queue i).state ≠ 0 && (s.queue i).ld == o
  | .registration => (s.reg i).state ≠ 0 && (s.reg i).ld == o
  | .slot => match s.slotTenant i with
    | some k => s.ldTenant o == some k
    | none => false
  | .tenant => s.ldTenant o == some i
  | .ld => i == o
  | _ => false

/-- Only the identity area is served: under R339, or after a loss of the reference clock (R459). -/
def State.identityOnly (s : State) : Bool := s.boot.stage == .kilnOnly || s.boot.stage == .refLost

/-- The server answers: the mailboxes are open, or the identity area alone is served; under R339 it is served over
unauthenticated VDP alone. -/
def State.serves (s : State) (via : Via) : Bool := s.running || s.boot.stage == .refLost
  || (s.boot.stage == .kilnOnly && via == .unauth)

/-- A read is permitted by the view it comes through. -/
def mayRead (s : State) (via : Via) (r : ObjRow) (i : Nat) : Bool :=
  if s.identityOnly then r.identity
  else if s.isPriv via then true
  else match viaLd via with
    | some o => r.readBoth && ownInstance s o r.space i
    | none => via == .unauth && r.openRead

/-! ## Computed values -/

/-- BRK_COMMIT_STATE (R390). Groups of commit 0 are the device's own balance moves. -/
def commitState (s : State) : List Byte :=
  let d := s.dict
  let gs := d.groups.filter (fun g => g.commit ≠ 0)
  let last := d.commitNext - 1
  let applied := ((List.range (last + 1)).reverse.find? (fun c => gs.all (fun g => g.commit ≠ c))).getD 0
  pack [(last, 4), (gs.length, 4), (d.refId, 4), (keyOid d.refKey / 256, 2), (keyOid d.refKey % 256, 1), (d.refStatus, 1),
    (keyInst d.refKey, 4), (applied, 4)] ++ zeros 8

/-- TRN_REG (R264). -/
def regBytes (v : Reg) : List Byte :=
  pack [(v.state + b2n v.lwrite * 2 ^ 3 + b2n v.rwrite * 2 ^ 4 + b2n v.rread * 2 ^ 5 + b2n v.ratomic * 2 ^ 6 + v.pallet * 2 ^ 8
      + v.ld * 2 ^ 12 + v.gen * 2 ^ 17, 4), (v.keyId, 4), (v.va, 8), (v.length, 8), (v.inflight, 4), (0, 4)]

/-- An entry of the associative engine (R285): KEY, CARE, flags and DATA. -/
def ascBytes (key care flags data : Nat) : List Byte := pack [(key, 24), (care, 24), (flags, 8), (data, 8)]

/-- ASC_ENTRY at a position (R285, R287). -/
def ascEntry (s : State) (pos : Nat) : List Byte :=
  if pos < s.tableBase 1 then
    match NMap.get? s.rmf.entries pos with
    | some e => ascBytes (e.record.kind + e.record.key * 2 ^ 4) (2 ^ 36 - 1)
        (1 + e.emask * 2 ^ 3 + b2n e.staged * 2 ^ 7 + b2n e.drop * 2 ^ 8) 0
    | none => zeros 64
  else if pos < s.tableBase 2 then
    match (s.orderBlock ((pos - s.tableBase 1) / 1024))[(pos - s.tableBase 1) % 1024]? with
    | some e => ascBytes (e.vft + e.domain * 2 ^ 64 + b2n e.eligible * 2 ^ 74 + e.entity * 2 ^ 75) (2 ^ 93 - 1) (1 + 2) e.entity
    | none => zeros 64
  else if pos < s.tableBase 2 + 1024 * s.tableBlocks 2 then toBytes 64 (s.obj Obj.ASC_RULE pos)
  else zeros 64

/-- ASC_FREE: free positions of a table. -/
def ascFree (s : State) (k : Nat) : Nat :=
  let used := match k with
    | 0 => s.rmf.entries.length
    | 1 => s.orderCount
    | _ => countIf (s.instancesOf Obj.ASC_RULE) (fun i =>
        s.tableBase 2 ≤ i && i < s.tableBase 2 + 1024 * s.tableBlocks 2 && bitOf (s.obj Obj.ASC_RULE i) 384)
  1024 * s.tableBlocks k - used

/-- SEC_SLOT_STATE (R357). -/
def slotWord (v : KeySlot) : Nat :=
  let code := match v.state with
    | .empty => 0 | .assigned => 1 | .reserved => 2 | .installing => 3 | .active => 4 | .retiring => 5 | .drained => 6
  code + v.gen * 2 ^ 4 + v.lastGen * 2 ^ 10 + v.tenant.getD 0 * 2 ^ 16

/-- ERR_EVENT_LOG (R412): entry k holds the event whose number is k modulo 128. -/
def eventLog (s : State) : List Byte :=
  (List.range 128).flatMap (fun k => match s.events.find? (fun e => e.seq % 128 == k) with
    | some e => e.payload ++ toBytes 4 e.seq
    | none => zeros 40)

/-- The size of an object in bytes; that of a buffer follows its setting (R436, R441). -/
def objSize (s : State) (r : ObjRow) (i : Nat) : Nat :=
  if r.oid = Obj.OBS_PC_BUF then s.obj Obj.OBS_PC_BUF_KIB i * 1024
  else if r.oid = Obj.OBS_TRACE_BUF then s.traceSize
  else r.size

/-- The value of an object of the Kiln or of the identity area. -/
def kilnValue (s : State) (oid i : Nat) : Option (List Byte) :=
  let k := s.kiln
  if oid = Obj.BRK_SERIAL then some (toBytes 16 k.serial)
  else if oid = Obj.BRK_IMAGE_IDS then some (pack [(k.kilnImage, 8), (k.fwImage, 8), (k.cfgImage, 8)])
  else if oid = Obj.BRK_UPTIME_NS then some (toBytes 8 (s.now - s.boot.tRelease))
  else if oid = Obj.SEC_DEVICE_ID then some (toBytes 64 k.deviceId)
  else if oid = Obj.SEC_MEAS then some (k.meas.flatMap (toBytes 64))
  else if oid = Obj.SEC_SVN then some (pack [(k.kilnSvn, 2), (k.fwSvn, 2), (k.cfgSvn, 2)])
  else if oid = Obj.SEC_CFG_SIGNER then some (toBytes 64 k.cfgSigner)
  else if oid = Obj.SEC_IDENTITY_CERT then some (toBytes 65536 Config.identityCert)
  else if oid = Obj.SEC_DEBUG_OPEN then some (toBytes 1 s.gates)
  else if oid = Obj.SEC_TENANT then some (tenantEntry s i)
  else if oid = Obj.SEC_SLOT_STATE then some (toBytes 4 (slotWord (s.kslot i)))
  else if oid = Obj.SEC_ATTEST_REPORT then some (toBytes 35200 k.report)
  else none

/-- The value of an object of the link, the timebase, the transport, the map or the associative engine. -/
def fabricValue (s : State) (oid i : Nat) : Option (List Byte) :=
  if oid = Obj.LNK_STATE then some (toBytes 1 (portCode (s.port i).state))
  else if oid = Obj.LNK_LANE_MAP then some (pack (((s.port i).rxMap ++ (s.port i).txMap).map (fun x => (x, 1))))
  else if oid = Obj.LNK_SPARE_OK then some (toBytes 1 (b2n (s.port i).spareOk))
  else if oid = Obj.TB_STATE then some (toBytes 1 (tbCode s.tb.state))
  else if oid = Obj.TB_ERR_BOUND_NS then some (toBytes 4 s.tbBound)
  else if oid = Obj.TB_OFFSET_PS then some (toBytes 4 (BitVec.ofInt 32 s.tb.offsetPs).toNat)
  else if oid = Obj.TRN_QCTX then some (queueBytes (s.queue i) ++ zeros 192)
  else if oid = Obj.TRN_REG then some (regBytes (s.reg i))
  else if oid = Obj.RMF_EPOCHS_HELD then
    some ((s.rmf.epochs.flatMap (fun e => toBytes 2 e.number) ++ zeros 8).take 8)
  else if oid = Obj.ASC_ENTRY then some (ascEntry s i)
  else if Obj.ASC_FREE ≤ oid && oid < Obj.ASC_FREE + 3 then some (toBytes 4 (ascFree s (oid - Obj.ASC_FREE)))
  else if oid = Obj.SCH_SHAPER then some (toBytes 12 (s.obj oid i) ++ toBytes 4 (s.tokensOf i))
  else if oid = Obj.HST_FM_RING then some (s.ring 16 i).bytes
  else none

/-- The value of an object of the pallets, of errors and of the instruments. -/
def moduleValue (s : State) (oid i : Nat) : Option (List Byte) :=
  if oid = Obj.PAL_STATE then some (toBytes 1 (palStateCode (s.pallet i).state))
  else if oid = Obj.PAL_IMAGE_ID then some (toBytes 8 (palImageId (s.pallet i)))
  else if oid = Obj.MEM_PT_ROOT then some (toBytes 8 (ptRoot i))
  else if oid = Obj.SCH_LOAD_PPM then some (toBytes 4 (loadPpm s i))
  else if oid = Obj.SCH_FRAMES_RESERVED then some (toBytes 8 (framesReserved s i none))
  else if oid = Obj.ERR_HEALTH then some (toBytes 1 s.health)
  else if oid = Obj.ERR_PALLET_FAULT then some (match (s.pallet i).fault with
    | some f => f.bytes
    | none => zeros 32)
  else if oid = Obj.ERR_EVENT_LOG then some (eventLog s)
  else if oid = Obj.BRK_COMMIT_STATE then some (commitState s)
  else if oid = Obj.BRK_PENDING then some (toBytes 4 s.dict.shadow.length)
  else if oid = Obj.OBS_TRACE_CTRL then some (toBytes 16 s.traceCtrlWord)
  else if oid = Obj.OBS_TRACE_STATE then some (toBytes 1 s.obs.traceState)
  else if oid = Obj.OBS_TRACE_T_TRIGGER then some (toBytes 8 s.obs.tTrigger)
  else if oid = Obj.OBS_TRACE_EXTRA_TRIG then some ((s.obs.extra.flatMap (toBytes 8) ++ zeros 128).take 128)
  else none

/-- The value of an object: computed by the module, or held in the dictionary. -/
def objValue (s : State) (r : ObjRow) (i : Nat) : List Byte :=
  ((kilnValue s r.oid i).or ((fabricValue s r.oid i).or (moduleValue s r.oid i))).getD (toBytes r.size (s.obj r.oid i))

/-- A range of an object's bytes. WO objects read as zeros (R383); sample and record buffers read as zero while the PROFILE gate
is closed (R353). -/
def objRange (s : State) (r : ObjRow) (i off n : Nat) : List Byte :=
  let buf := fun (m : Mem) => if s.gate 1 then memRead m off n else zeros n
  if r.access == .wo then zeros n
  else if r.oid = Obj.OBS_PC_BUF then buf (NMap.get [] s.obs.pcBufs i)
  else if r.oid = Obj.OBS_CNT_BUF then buf (NMap.get [] s.obs.cntBufs i)
  else if r.oid = Obj.OBS_CNT_GLOBAL_BUF then buf (NMap.get [] s.obs.cntBufs 16)
  else if r.oid = Obj.OBS_TRACE_BUF then s.traceBytes off n
  else if r.oid = Obj.HST_FM_WINDOW then s.winRead 16 off n
  else ((objValue s r i).drop off).take n

/-! ## Reads -/

/-- What an access answers: status, the object's total length, and the bytes. -/
structure Answer where
  status : Status
  length : Nat
  data : List Byte
  deriving DecidableEq, Repr

/-- An access that is refused. -/
def Answer.refuse (st : Status) : Answer := { status := st, length := 0, data := [] }

/-- A read of a range of an object (R381 to R385, R396). One of ASC_ENTRY is a search on port 3 (R289). A READ_SHADOW returns the pending shadow, if there is one. -/
def readObject (via : Via) (a : ObjAddr) (off n : Nat) (shadow : Bool) (s : State) : State × Answer :=
  let s := s.bump Obj.BRK_DICT_READS 0
  match objAt a with
  | none => (s, .refuse .accessDenied)
  | some r =>
    if !mayRead s via r a.inst then (s, .refuse .accessDenied)
    else
      let size := objSize s r a.inst
      if n = 0 || size < off + n then (s, .refuse .transportError)
      else
        let pending := if shadow then NMap.get? s.dict.shadow (objKey r.oid a.inst) else none
        let data := match pending with
          | some v => ((toBytes r.size v).drop off).take n
          | none => objRange s r a.inst off n
        let s := if r.oid = Obj.OBS_TRACE_BUF then traceReadDone s off n else if r.oid = Obj.ASC_ENTRY then s.searched 3 else s
        (s, { status := .ok, length := size, data := data })

/-- Answers an access to its view. -/
def State.answer (s : State) (via : Via) (a : Answer) : State := s.emit (.answer via 0 a.status a.length a.data)

/-- TRACE_FINAL_READ (R444): a read of OBS_TRACE_BUF; the last byte of a frozen buffer sets OFF once it has been returned. -/
def traceFinalRead (via : Via) (off n : Nat) (s : State) : State :=
  if !s.serves via then s
  else
    let r := readObject via { index := 0x9002, sub := 5, inst := 0 } off n false s
    r.1.answer via r.2

def execTraceFinalRead (via : Via) (offset length : Nat) (s : State) : Outcome :=
  .next (traceFinalRead via offset length s)

end Sys2Proof.Machine
end

