-- ==== Sys2Proof/Machine/Serve.lean ====
section
/-! DEFINITION. Reads of an image (R188, R201, R202): of a WHOLE move, of an increment and of a stored shard; and verification of
what is stored in coded form (R206). -/

namespace Sys2Proof.Machine

/-! ## What is served -/

/-- What the module serves of a RID: the image of a WHOLE move that is being pulled, by its request, the image of an increment,
or its shard of a coded copy. -/
inductive Serving where
  | whole (slot : Nat) (r : Request) (m : MoveOut)
  | increment (m : IncOut)
  | shard (k : CopyShard)
  deriving DecidableEq, Repr

def serving (s : State) (rid : Nat) : Option Serving :=
  match s.req.out.find? (fun m => m.rid == rid && m.state == .pulling), s.byRid rid with
  | some m, some e => some (.whole e.1 e.2 m)
  | _, _ => match s.req.incs.find? (fun m => m.rid == rid && m.pulling) with
    | some m => some (.increment m)
    | none => (s.shard? rid).map .shard

/-- The stored stream of a parked request is damaged: its WHOLE move completes with UNCORRECTABLE, it is RESIDENT again, and the
damage is handled as an uncorrectable word of its state (R201). -/
def parkLost (s : State) (slot : Nat) : State := requestWord (moveStays s slot .uncorrectable) slot 6

/-- What a read of a parked request's stream header meets: a refused table is counted (R193). -/
def headLost (s : State) (r : StreamRead) : State := if r = .refused then s.bump Obj.CMP_TABLE_REFUSED 0 else s

/-- The tables with which a member's shard is served: those of its stream, or tables built from units kept uncoded, and when they
were built. -/
def shardTables (s : State) (k : CopyShard) : Tables × Nat :=
  k.tables.getD (buildTables (s.obj Obj.CMP_SAMPLE_STRIDE 0) (k.units.map (fun e => e.2.block.bytes)), s.now)

/-- IMAGE_TABLE_READ: the stream header and the table area; nothing where the module does not code, and none for an increment,
which is never coded (R188). -/
def tableRead (rid reader : Nat) (s : State) : State := match serving s rid with
  | none => s
  | some (.increment _) => s.emit (.image reader false [])
  | some (.whole slot r m) =>
    if !s.wireCodes then s.emit (.image reader false [])
    else if (s.reqLocal slot).parked then match parkStream s r with
      | .good t _ _ => s.emit (.image reader true (s.spanRead r.pallet (parkVa s r) (64 + 136 * t.length)))
      | x => parkLost (headLost s x) slot
    else
      let us := imageUnits s slot
      let t := buildTables m.stride us
      s.emit (.image reader true
        (streamHeader us.length rid 0 0xFF (sumOf us (fun u => (encodeUnit t u).bytes.length)) m.tPull t))
  | some (.shard k) =>
    if !s.wireCodes then s.emit (.image reader false [])
    else
      let t := shardTables s k
      s.emit (.image reader true (streamHeader k.units.length rid k.version k.shard
        (sumOf k.units (fun e => e.2.block.bytes.length)) t.2 t.1))

def execImageTableRead (rid reader : Nat) (s : State) : Outcome := .next (tableRead rid reader s)

/-- Index entries and blocks on the wire: OFFSET holds the unit index. -/
def wireBlocks (first : Nat) (cs : List Coded) : List Byte := cs.zipIdx.flatMap (fun e => entryBytes (first + e.2) e.1 ++ e.1.bytes)

/-- Units of a parked request: its blocks as stored, or decoded. A damaged block ends the move. -/
def parkRead (s : State) (slot : Nat) (r : Request) (reader first count : Nat) (coded : Bool) : State := match parkStream s r with
  | .good t n _ =>
    let cs := ((List.range count).filter (fun i => first + i < n)).map (fun i => parkBlock s r t.length n (first + i))
    if coded then s.emit (.image reader true (wireBlocks first cs))
    else
      let bad := cs.filterMap (fun c => match decodeUnit t c with
        | .ok _ => none
        | .damaged x => some x)
      let s := codecWork (bad.foldl countCheck s) r.pallet
      if bad.isEmpty then s.emit (.image reader false (cs.flatMap (decodedUnit t))) else parkLost s slot
  | x => parkLost (headLost s x) slot

/-- One stripe of a member's shard, read for a rebuild with its CRC compared (R200): a damaged block is reported absent (R201). -/
def shardRead (s : State) (k : CopyShard) (reader : Nat) (coded : Bool) (i : Nat) : State := match NMap.get? k.units i with
  | none => s.emit (.absent reader i)
  | some b => match checkedUnit true k.codes b.block with
    | .damaged c => (countCheck s c).emit (.absent reader i)
    | .ok u =>
      if !coded then s.emit (.image reader false u)
      else if k.tables.isSome then s.emit (.image reader true (wireBlocks i [b.block]))
      else
        let c := encodeAll s k.pallet (shardTables s k).1 [u]
        c.2.emit (.image reader true (wireBlocks i c.1))

/-- IMAGE_UNIT_READ: for each unit in order its index entry, with the unit index for OFFSET, and its block bytes, where the read
asks for coding and the module codes; the uncoded units otherwise. -/
def unitRead (rid reader first count : Nat) (ask : Bool) (s : State) : State :=
  let coded := ask && s.wireCodes
  match serving s rid with
  | none => s
  | some (.increment m) => s.emit (.image reader false ((m.units.drop first).take count).flatten)
  | some (.whole slot r m) =>
    if (s.reqLocal slot).parked then parkRead s slot r reader first count coded
    else
      let us := imageUnits s slot
      let want := (us.drop first).take count
      if !coded then s.emit (.image reader false want.flatten)
      else
        let c := encodeAll s r.pallet (buildTables m.stride us) want
        c.2.emit (.image reader true (wireBlocks first c.1))
  | some (.shard k) => (List.range count).foldl (fun s i => shardRead s k reader coded (first + i)) (codecWork s k.pallet)

def execImageUnitRead (rid reader : Nat) (units : UnitRange) (coded : Bool) (s : State) : Outcome :=
  .next (unitRead rid reader units.first units.count coded s)

/-! ## Verification (R206) -/

/-- The module stores blocks of a RID in coded form, as a member or as a parked home. -/
def codedHere (s : State) (rid : Nat) : Bool :=
  (match s.shard? rid with
    | some k => k.tables.isSome
    | none => false)
  || (match s.byRid rid with
    | some (slot, _) => (s.reqLocal slot).parked
    | none => false)

/-- CMP_VERIFY. -/
def cmpVerify (via : Via) (rid : Nat) (s : State) : State :=
  s.objWrite via (s.isPriv via) (fun s =>
    if codedHere s rid then
      ({ s with req := { s.req with verify := s.req.verify ++ [(rid, via)] } }, .ok, [])
    else (s, .accessDenied, []))

def execCmpVerify (via : Via) (rid : Nat) (s : State) : Outcome := .next (cmpVerify via rid s)

/-- The blocks that a verification decodes: unit or stripe, tables and block. -/
def verifyBlocks (s : State) (rid : Nat) : List (Nat × Tables × Coded) :=
  (match s.shard? rid with
    | some k => if k.tables.isSome then k.units.map (fun e => (e.1, k.codes, e.2.block)) else []
    | none => [])
  ++ (match s.byRid rid with
    | some (slot, r) =>
      if (s.reqLocal slot).parked then
        let b := parkBlocks s r
        b.2.zipIdx.map (fun e => (e.2, b.1, e.1))
      else []
    | none => [])

/-- The pallets that hold what a RID stores in coded form. -/
def verifyPallets (s : State) (rid : Nat) : List Nat :=
  ((s.shard? rid).map (·.pallet)).toList ++ ((s.byRid rid).map (fun e => e.2.pallet)).toList

/-- The damaged units of a verification, with the check each failed: those whose decode in CRC mode fails, and those that the HBM
gave back damaged. -/
def verifyFound (s : State) (rid : Nat) (read : List (Nat × CheckFail)) : List (Nat × CheckFail) :=
  let here := (verifyBlocks s rid).filterMap (fun b => match checkedUnit true b.2.1 b.2.2 with
    | .ok _ => none
    | .damaged c => some (b.1, c))
  here ++ read.filter (fun e => here.all (fun x => x.1 ≠ e.1))

/-- CMP_VERIFY_DONE: the oldest verification of the RID ends, unless a step of the holding pallet runs, which suspends it. Every
damaged unit counts the check it failed and is listed; VALUE is their number. -/
def verifyDone (rid : Nat) (read : List (Nat × CheckFail)) (s : State) : State :=
  match s.req.verify.find? (fun v => v.1 == rid) with
  | none => s
  | some v =>
    let ps := verifyPallets s rid
    if ps.any (fun p => (s.pallet p).run.isSome) then s
    else
      let bad := verifyFound s rid read
      let s := { s with req := { s.req with verify := s.req.verify.erase v } }
      let s := ps.foldl codecWork (bad.foldl (fun s e => countCheck s e.2) s)
      let s := if bad.isEmpty then s else s.emit (.damaged rid (bad.map (·.1)))
      completeObject s v.2 Obj.CMP_VERIFY 0 (if bad.isEmpty then .ok else .uncorrectable) bad.length

def execCmpVerifyDone (rid : Nat) (damaged : List (Nat × CheckFail)) (s : State) : Outcome := .next (verifyDone rid damaged s)

end Sys2Proof.Machine
end

