-- ==== Sys2Proof/Machine/Writes.lean ====
section
/-! DEFINITION. Writes of dictionary objects: ranges and reserved fields (R8, R9, R383), pieces (R375), command objects, shadows,
commits and their capture (R385 to R390). -/

namespace Sys2Proof.Machine

/-! ## Reserved fields and ranges -/

/-- A value with the reserved and read-only fields of its object zero (R8). -/
def maskReserved (oid v : Nat) : Nat :=
  if oid = Obj.PAL_GEOMETRY then bitsOf v 0 23
  else if oid = Obj.RMF_WINDOW then
    bitsOf v 0 1 + bitsOf v 32 32 * 2 ^ 32 + bitsOf v 64 48 * 2 ^ 64 + bitsOf v 128 64 * 2 ^ 128
  else if oid = Obj.SCH_SHAPER then bitsOf v 0 1 + bitsOf v 32 64 * 2 ^ 32
  else if oid = Obj.ASC_RULE then
    bitsOf v 0 55 + bitsOf v 192 55 * 2 ^ 192 + bitsOf v 384 3 * 2 ^ 384 + bitsOf v 448 64 * 2 ^ 448
  else if oid = Obj.OBS_TRACE_TRIGGER then
    bitsOf v 0 16 + bitsOf v 64 40 * 2 ^ 64 + bitsOf v 128 40 * 2 ^ 128 + bitsOf v 192 64 * 2 ^ 192
  else if oid = Obj.OBS_SUB then
    bitsOf v 0 1 + bitsOf v 8 8 * 2 ^ 8 + bitsOf v 32 64 * 2 ^ 32
      + (List.range 32).foldl (fun a k =>
          a + (bitsOf v (128 + 64 * k) 24 + bitsOf v (160 + 64 * k) 32 * 2 ^ 32) * 2 ^ (128 + 64 * k)) 0
  else if oid = Obj.PAL_IMAGE then
    bitsOf v 0 48 + bitsOf v 64 5 * 2 ^ 64 + bitsOf v 72 5 * 2 ^ 72
  else if oid = Obj.LNK_PFC_ENABLE then bitsOf v 0 7
  else v

/-- The bytes of a value satisfy a test, each of `n`. -/
def allBytes (v n : Nat) (c : Nat → Bool) : Bool := (List.range n).all (fun k => c (bitsOf v (8 * k) 8))

/-- A selection code of R437, for a pallet's set or the global one. -/
def codeValid (global : Bool) (c : Nat) : Bool :=
  c ≤ 0x09 || c == 0x10 || c == 0x11 || (0x20 ≤ c && c ≤ 0x22) || (0x31 ≤ c && c ≤ 0x36) || (0x40 ≤ c && c ≤ 0x43)
    || c == 0x50 || c == 0x51
    || (global && ((0x100 ≤ c && c ≤ 0x10B) || (0x110 ≤ c && c ≤ 0x11B) || (0x120 ≤ c && c ≤ 0x130)
        || (0x140 ≤ c && c ≤ 0x14B)))

/-- A subscription that is written active (R401): NOBJ, the period and the named objects; one that is not needs nothing. -/
def subValid (v : Nat) : Bool :=
  let n := bitsOf v 8 8
  !bitOf v 0 || (1 ≤ n && n ≤ 32 && 100 ≤ bitsOf v 64 32 && bitsOf v 64 32 ≤ 60000000
    && (List.range n).all (fun k =>
      let e := bitsOf v (128 + 64 * k) 64
      match objAt { index := bitsOf e 0 16, sub := bitsOf e 16 8, inst := bitsOf e 32 32 } with
      | some r => r.size ≤ 8
      | none => false))

/-- A CLASSIFY rule (R299, R323): TABLE 2 where it is in use, no KEY bit where CARE is 0, and no reserved SHAPER. -/
def ruleValid (v : Nat) : Bool :=
  let shaper := bitsOf v 464 13
  (!bitOf v 384 || bitsOf v 385 2 == 2) && (bitsOf v 0 192 &&& bitsOf v 192 192) == bitsOf v 0 192
    && (shaper < 4096 || shaper == 0x1FFF)

/-- The pending shadow of an object, or its current value (R385). -/
def staged (s : State) (oid i : Nat) : Nat := (NMap.get? s.dict.shadow (objKey oid i)).getD (s.obj oid i)

/-- The stated ranges of the values that a single interval does not give. -/
def rangeOk (s : State) (r : ObjRow) (v : Nat) : Bool :=
  let oid := r.oid
  if oid = Obj.DRF_PALLET then v ≤ 15 || v == 0xFF
  else if oid = Obj.RMF_MODULE_NUM then v ≤ 65533 || v == 0xFFFF
  else if oid = Obj.MEM_PAGES_PER_HEAD then (List.range 8).any (fun k => v == 2 ^ (k + 6))
  else if oid = Obj.PWR_ATT_FLOOR_MHZ || oid = Obj.PWR_PALLET_MAX_MHZ then inRange oid v && v % 25 == 0
  else if oid = Obj.PWR_TJ_THROTTLE_C then inRange oid v && s.obj Obj.PWR_TJ_WARN_C 0 < v
  else if oid = Obj.PAL_BAL_LOW then inRange oid v && v < staged s Obj.PAL_BAL_HIGH 0
  else if oid = Obj.OBS_PC_PERIOD_NS then v == 0 || (100 ≤ v && v ≤ 1000000)
  else if oid = Obj.OBS_CNT_INTERVAL_NS then v == 0 || (1000 ≤ v && v ≤ 1000000000)
  else if oid = Obj.HST_HDM_POOL_MIB then inRange oid v && v % 256 == 0
  else if oid = Obj.LNK_MAC then v ≠ 0 && !bitOf v 40
  else if oid = Obj.LNK_PFC_ALLOT then (List.range 8).all (fun k => bitsOf v (16 * k) 16 ≤ 4096)
  else if oid = Obj.TB_SOURCE_ORDER then allBytes v 3 (fun b => b ≤ 3)
  else if oid = Obj.PAL_BAL_PAIR then allBytes v 2 (fun b => b ≤ 15 || b == 0xFF)
  else if oid = Obj.ASC_UPDATE_MAX then allBytes v 3 (fun b => 1 ≤ b && b ≤ 12)
  else if oid = Obj.ASC_TABLE_BLOCKS then
    16 ≤ bitsOf v 0 8 && 1 ≤ bitsOf v 8 8 && bitsOf v 0 8 + bitsOf v 8 8 + bitsOf v 16 8 ≤ 64
  else if oid = Obj.ASC_RULE then ruleValid v
  else if oid = Obj.SCH_SHAPER then
    !bitOf v 0 || (1 ≤ bitsOf v 32 32 && bitsOf v 32 32 ≤ 200000 && bitsOf v 64 32 ≤ 16777216)
  else if oid = Obj.RMF_WINDOW then
    !bitOf v 0 || (bitsOf v 64 48 % 8192 == 0 && 1 ≤ bitsOf v 128 32 && bitsOf v 128 32 ≤ 2 ^ 27)
  else if oid = Obj.OBS_CNT_SELECT then (List.range 16).all (fun k => codeValid false (bitsOf v (16 * k) 16))
  else if oid = Obj.OBS_CNT_GLOBAL_SELECT then (List.range 16).all (fun k => codeValid true (bitsOf v (16 * k) 16))
  else if oid = Obj.OBS_TRACE_TRIGGER then bitsOf v 4 4 % 4 == bitsOf v 4 4 && (bitsOf v 4 4 % 2 == 0 || triggerOk v)
  else if oid = Obj.OBS_SUB then subValid v
  else r.octet || inRange oid v

/-- The allotments of a port with a value in the place of one object of 0x4001 (R227). -/
def allotOk (s : State) (port oid v : Nat) : Bool :=
  let s := s.setObj oid port v
  sumOf (List.range 8) (s.allot port) ≤ 4 * 2 ^ 20
    && (List.range 8).all (fun c => !s.pfcOn port c
      || headroom (s.obj Obj.LNK_CABLE_NS port) (s.obj Obj.LNK_PARTNER_NS port) + s.obj Obj.LNK_XON_GAP_KIB port * 1024 + 8520
          ≤ s.allot port c)

/-- Contexts in the host memory that an LD has granted (R253). -/
def hostContexts (s : State) (o : Nat) : Nat := countIf s.trn.queues (fun e => e.2.place == 2 && e.2.ld == o)

/-- The state of the module permits a write in range: ports are DISABLED for their settings (R227, R237), the trace is OFF and the
gates of selections are open (R413), the map is empty (R288), and what is held fits (R187, R332). A grant for contexts lies in the
LD's host memory, which is what a HOST leaf can name (log entry 132), and one that holds contexts does not shrink (R267). -/
def writeAllowed (s : State) (r : ObjRow) (i v : Nat) : Bool :=
  let oid := r.oid
  if 0x4000 ≤ oid / 256 && oid / 256 ≤ 0x4002 then
    (s.port i).state == .disabled && (oid / 256 ≠ 0x4001 || allotOk s i oid v)
  else if oid / 256 = 0x9002 then s.obs.traceState = 0 && (oid ≠ Obj.OBS_TRACE_TRIGGER || s.gate 0)
  else if oid = Obj.OBS_CNT_SELECT || oid = Obj.OBS_CNT_GLOBAL_SELECT then s.gate 1
  else if oid = Obj.ASC_TABLE_BLOCKS then s.obj Obj.RMF_EPOCH 0 = 0
  else if oid = Obj.MEM_HBM_QUOTA then s.framesOf i ≤ v
  else if oid = Obj.TRN_CTX_HOST then
    bitsOf v 0 64 + bitsOf v 64 64 ≤ 2 ^ 52 && (hostContexts s i = 0 || s.objField Obj.TRN_CTX_HOST i 8 8 ≤ bitsOf v 64 64)
  else if oid = Obj.SCH_QUANTUM then
    (s.instancesOf Obj.SCH_SHAPER).all (fun k => !s.shaperEn k || v ≤ s.shaperBurst k)
  else true

/-! ## Commits (R386 to R390) -/

/-- The pallet of an object's instance, where it is instanced by pallet; a window is of its pallet. -/
def palletOfKey (k : Nat) : Option Nat := match objRow? (keyOid k) with
  | some r => match r.space with
    | .pallet => some (keyInst k)
    | .window => some (keyInst k / 4096)
    | _ => none
  | none => none

/-- A pending shadow is in the scope of a BRK_COMMIT value. -/
def inScope (v k : Nat) : Bool := bitsOf v 0 2 == 0 || palletOfKey k == some (bitsOf v 4 4)

/-- The commit point of an object's key. -/
def pointOfKey (k : Nat) : CommitPoint := match objRow? (keyOid k) with
  | some r => r.point
  | none => .none

/-- The pallet of a key's domain, none for the module and for a shaper (R387). -/
def domainOfKey (k : Nat) : Option Nat := match pointOfKey k with
  | .stepBoundary | .palletIdle => palletOfKey k
  | _ => none

/-- The captured entries of a point as groups, one per domain; a shaper is its own domain. -/
def groupsAt (items : NMap Nat) (pt : CommitPoint) : List (Option Nat × NMap Nat) :=
  let l := items.filter (fun e => pointOfKey e.1 == pt)
  if pt = .refill then l.map (fun e => (none, [e]))
  else
    let ds := none :: (List.range 16).map some
    (ds.map (fun d => (d, l.filter (fun e => domainOfKey e.1 == d)))).filter (fun g => !g.2.isEmpty)

/-- Adds a captured group. -/
def addGroup (commit : Nat) (pt : CommitPoint) (s : State) (g : Option Nat × NMap Nat) : State :=
  let x : Group := { id := s.dict.groupNext, commit := commit, point := pt, pallet := g.1, items := g.2 }
  { s with dict := { s.dict with groups := s.dict.groups ++ [x], groupNext := s.dict.groupNext + 1 } }

/-- BRK_COMMIT (R386): the pending shadows in scope join the next commit, in groups; the answer is COMMIT_ID. -/
def commitCapture (v : Nat) (s : State) : State × Status × List Byte :=
  if 2 ≤ bitsOf v 0 2 then (s, .transportError, [])
  else
    let id := s.dict.commitNext
    let items := s.dict.shadow.filter (fun e => inScope v e.1)
    let s := { s with dict := { s.dict with
      shadow := s.dict.shadow.filter (fun e => !inScope v e.1), commitNext := (id + 1) % 2 ^ 32 } }
    let s := [CommitPoint.refill, .stepBoundary, .palletIdle, .idle, .geometry].foldl (fun s pt =>
      (groupsAt items pt).foldl (addGroup id pt) s) s
    (s, .ok, toBytes 4 id)

def brkCommit (via : Via) (v : Nat) (s : State) : State := s.objWrite via (s.isPriv via) (commitCapture v)

def execBrkCommit (via : Via) (value t : Nat) (s : State) : Outcome := .next (brkCommit via value (s.at t))

/-- BRK_STAGE_DISCARD (R390). -/
def stageDiscard (v : Nat) (s : State) : State × Status × List Byte :=
  if 2 ≤ bitsOf v 0 2 then (s, .transportError, [])
  else ({ s with dict := { s.dict with shadow := s.dict.shadow.filter (fun e => !inScope v e.1) } }, .ok, [])

def brkStageDiscard (via : Via) (v : Nat) (s : State) : State := s.objWrite via (s.isPriv via) (stageDiscard v)

def execBrkStageDiscard (via : Via) (value : Nat) (s : State) : Outcome := .next (brkStageDiscard via value s)

/-! ## Command objects written as bytes -/

/-- The map record in the 64 bytes of RMF_MAP_STAGE (R268). -/
def mapRecordOf (v : Nat) : MapRecord :=
  let kind := bitsOf v 0 4
  { kind := kind, remove := bitOf v 4, key := if kind = 2 then bitsOf v 32 32 else bitsOf v 32 16, ports := bitsOf v 64 12,
    home := bitsOf v 64 16, writer := bitsOf v 80 16, rkey := bitsOf v 96 32, base := bitsOf v 128 48, length := bitsOf v 192 48,
    split := bitsOf v 64 2, accel := bitsOf v 80 16,
    members := (List.range (bitsOf v 66 5)).map (fun i => bitsOf v (128 + 16 * i) 16), rid := bitsOf v 384 64 }

/-- The fields of a TRN_QMODIFY value that a modify takes (R251). -/
def qmodifyOf (v : Nat) : QModify :=
  { typ := bitsOf v 3 3, relaxed := bitOf v 6, pallet := Fin.ofNat 16 (bitsOf v 8 4), cls := bitsOf v 17 2, keyId := bitsOf v 32 16,
    cqn := bitsOf v 64 18, logSize := bitsOf v 96 5, ring := bitsOf v 128 64, reserved := false }

/-- TRN_QMODIFY by its target STATE (R252). -/
def qmodify (via : Via) (q v : Nat) (s : State) : State := match bitsOf v 0 3 with
  | 0 => modifyReset via q (qmodifyOf v) s
  | 1 => modifyReady via q (qmodifyOf v) s
  | 3 => modifyError via q (qmodifyOf v) s
  | _ => s.objWrite via (s.issuer via).isSome (fun s => (s, .accessDenied, []))

/-- The placement command in the 32 bytes of MEM_PLACE (R171). -/
def placeCmdOf (v : Nat) : PlaceCmd :=
  { pallet := Fin.ofNat 16 (bitsOf v 8 4), ld := Fin.ofNat 16 (bitsOf v 12 4), stackMask := bitsOf v 16 8, npages := bitsOf v 32 32,
    va := bitsOf v 64 48, hostPa := bitsOf v 128 64, tag := bitsOf v 192 32, reserved := false }

/-- MEM_PLACE of a pallet (R171): refused at once or accepted, and then completed by a COMPLETION. -/
def memPlace (via : Via) (p v : Nat) (s : State) : State :=
  s.objWrite via (s.isPriv via) (fun s =>
    let c := placeCmdOf v
    let op := bitsOf v 0 8
    if op = 0 || 3 < op then (s, .transportError, [])
    else if c.pallet.val ≠ p then (s, .accessDenied, [])
    else match placeRefusal s 16 op c with
      | some st => (s, st, [])
      | none => (startPlacement s op c (.object via Obj.MEM_PLACE p), .ok, []))

/-- A refusal by a command object's own layout. -/
def malformed (via : Via) (s : State) : State := s.objWrite via (s.isPriv via) (fun s => (s, .transportError, []))

/-- HST_FM_RING (R366, R377): its fields while ENABLE is 0, and then ENABLE. -/
def fmRing (via : Via) (k v : Nat) (s : State) : State :=
  s.objWrite via (s.isPriv via) (fun s =>
    let s := if (s.ring 16 k).enable then s.bump Obj.HST_DB_REFUSED 16
      else s.onRing 16 k (fun x => [0, 1, 2, 4, 5].foldl (fun x w => ringFields x w (bitsOf v (32 * w) 32)) x)
    (if bitOf v 0 then ringEnable 16 k s else ringDisable 16 k s, .ok, []))

/-- U16 fields of a value from a bit on. -/
def u16s (v lo n : Nat) : List Nat := (List.range n).map (fun i => bitsOf v (lo + 16 * i) 16)

/-- The command objects of requests, memory and compression. -/
def requestCommand (via : Via) (oid i v : Nat) : Option (State → State) :=
  if oid = Obj.RQS_MOVE then
    some (if bitsOf v 80 8 < 16 then rqsMove via (bitsOf v 0 64) (bitsOf v 64 16) (bitsOf v 80 8) (bitsOf v 96 16) else malformed via)
  else if oid = Obj.RQS_REBUILD then
    some (if bitsOf v 160 8 < 16 then rqsRebuild via (bitsOf v 0 64) (u16s v 64 6) (bitsOf v 160 8) else malformed via)
  else if oid = Obj.RQS_REGROUP then some (rqsRegroup via (bitsOf v 0 64) (u16s v 64 6))
  else if oid = Obj.CMP_VERIFY then some (cmpVerify via v)
  else if oid = Obj.MEM_PLACE then some (memPlace via i v)
  else none

/-- The command objects of the fabric and of the host attachment. -/
def fabricCommand (via : Via) (oid i v : Nat) : Option (State → State) :=
  if oid = Obj.LNK_PORT_ENABLE then
    some (if v = 1 then portEnable i via else if v = 0 then portDisable i via else malformed via)
  else if oid = Obj.TB_HOLDOVER_S then some (writeHoldover via v)
  else if oid = Obj.TB_PPS_SECONDS then some (writePpsSeconds via v)
  else if oid = Obj.TRN_QMODIFY then some (qmodify via i v)
  else if oid = Obj.RMF_MAP_STAGE then some (rmfMapStage via (mapRecordOf v))
  else if oid = Obj.RMF_MAP_COMMIT then some (rmfMapCommit via v)
  else if oid = Obj.RMF_MAP_DISCARD then some (if v = 1 then rmfMapDiscard via else malformed via)
  else if oid = Obj.RMF_DEAD then
    some (if v = 1 then rmfDeadSet via i else if v = 0 then rmfDeadClear via i else malformed via)
  else if oid = Obj.HST_FM_RING then some (fmRing via i v)
  else if oid = Obj.HST_FM_DOORBELL then some (hstFmDoorbell via i v)
  else none

/-- The command objects of the module: keys, islands, errors, instruments and staging. -/
def moduleCommand (via : Via) (oid i v : Nat) : Option (State → State) :=
  if oid = Obj.SEC_SLOT_ASSIGN then some (secSlotAssign via i (bitsOf v 0 6) (bitsOf v 6 16))
  else if oid = Obj.SEC_ATTEST_REQ then some (secAttestReq via (bitsOf v 0 32) (bitsOf v 32 256))
  else if oid = Obj.SEC_KEY_RELEASE then
    some (secKeyRelease via (bitsOf v 0 16) (bitsOf v 16 8) (bitsOf v 32 10) (bitsOf v 42 6) (bitsOf v 64 512))
  else if oid = Obj.SEC_RETIRE then some (if 1 ≤ v && v ≤ 1023 then secRetire via v else malformed via)
  else if oid = Obj.SEC_IMAGE_INSTALL then
    some (secImageInstall via (bitsOf v 0 4) (bitsOf v 64 48) (bitsOf v 128 48) (bitsOf v 192 32))
  else if oid = Obj.PWR_ISLAND_SETTING then some (islandWrite via i v)
  else if oid = Obj.ERR_FAULT_CLEAR then some (errFaultClear via v)
  else if oid = Obj.OBS_TRACE_CTRL then some (traceArm via v)
  else if oid = Obj.OBS_MUX_SEL then some (fun s => s.objWrite via (s.isPriv via) (muxSelect v))
  else if oid = Obj.BRK_COMMIT then some (brkCommit via v)
  else if oid = Obj.BRK_STAGE_DISCARD then some (brkStageDiscard via v)
  else none

/-- The meaning of a write of a command object, from the value written. -/
def commandWrite (via : Via) (oid i v : Nat) : Option (State → State) :=
  (requestCommand via oid i v).or ((fabricCommand via oid i v).or (moduleCommand via oid i v))

/-- Takes back the answer that a command object's meaning has sent, for the carrier of the write to send in its own form. -/
def takeAnswer (s : State) : State × Answer := match s.out with
  | .answer _ _ st len data :: rest => ({ s with out := rest }, { status := st, length := len, data := data })
  | _ => (s, .refuse .accessDenied)

/-! ## Writes -/

/-- A write is permitted by the view it comes through (R333 to R335). Command objects open to both views judge the issuer
themselves. -/
def mayWrite (s : State) (via : Via) (r : ObjRow) (i : Nat) : Bool :=
  if s.identityOnly then false
  else if s.isPriv via then true
  else match viaLd via with
    | some o => r.writeBoth && (r.access == .wo || ownInstance s o r.space i)
    | none => via == .unauth && r.oid == Obj.SEC_ATTEST_REQ

/-- A whole value of an object without a command of its own is checked and recorded in the shadow, or stored (R383 to R385). -/
def storeValue (r : ObjRow) (i v : Nat) (s : State) : State × Answer :=
  let v := maskReserved r.oid v
  if !rangeOk s r v then (s, .refuse .transportError)
  else if !writeAllowed s r i v then (s, .refuse .accessDenied)
  else
    let s := if r.access == .rws then
        { s with dict := { s.dict with shadow := NMap.ins s.dict.shadow (objKey r.oid i) v } }
      else s.setObj r.oid i v
    (s, { status := .ok, length := 0, data := [] })

/-- A write of a whole value that its view permits. -/
def writeWhole (via : Via) (r : ObjRow) (i : Nat) (data : List Byte) (s : State) : State × Answer :=
  match commandWrite via r.oid i (ofBytes data) with
  | some f => takeAnswer (f s)
  | none => storeValue r i (ofBytes data) (s.bump Obj.BRK_DICT_WRITES 0)

/-- The writer of pieces: a session, the unauthenticated view, or a mailbox (R375). -/
def writerKey : Via → Nat
  | .vdp k => k + 32
  | .unauth => 20
  | .mailbox o => o

/-- A piece of an OCTET value (R375): held until the piece that ends the value, and in order; one at offset 0 starts anew. -/
def writePiece (via : Via) (r : ObjRow) (i off : Nat) (data : List Byte) (s : State) : State × Answer :=
  let k := writerKey via
  let held := if off = 0 then some [] else match NMap.get? s.vdp.pieces k with
    | some p => if p.key = objKey r.oid i && p.bytes.length = off then some p.bytes else none
    | none => none
  match held with
  | none => (s.bump Obj.BRK_DICT_WRITES 0, .refuse .transportError)
  | some bs =>
    let all := bs ++ data
    if all.length = r.size then
      writeWhole via r i all { s with vdp := { s.vdp with pieces := NMap.del s.vdp.pieces k } }
    else
      let p : Piece := { key := objKey r.oid i, bytes := all }
      let s := { s with vdp := { s.vdp with pieces := NMap.ins s.vdp.pieces k p } }
      (s.bump Obj.BRK_DICT_WRITES 0, { status := .ok, length := 0, data := [] })

/-- A write of bytes of an object (R381 to R385). The FM-owned LD's window takes bytes at any offset (R377). -/
def writeObject (via : Via) (a : ObjAddr) (off : Nat) (data : List Byte) (s : State) : State × Answer :=
  let refuse := fun (st : Status) => (s.bump Obj.BRK_DICT_WRITES 0, Answer.refuse st)
  match objAt a with
  | none => refuse .accessDenied
  | some r =>
    if !mayWrite s via r a.inst || r.access == .ro then refuse .accessDenied
    else if r.oid = Obj.HST_FM_WINDOW then
      if data.isEmpty || r.size < off + data.length then refuse .transportError
      else ((s.bump Obj.BRK_DICT_WRITES 0).winWrite 16 off data, { status := .ok, length := 0, data := [] })
    else if r.octet && !data.isEmpty && off + data.length ≤ r.size then writePiece via r a.inst off data s
    else if off = 0 && data.length = r.size then writeWhole via r a.inst data s
    else refuse .transportError

/-- OBJECT_WRITE (R384): a write of a whole object. -/
def objectWrite (via : Via) (a : ObjAddr) (data : List Byte) (s : State) : State :=
  if !s.serves via then s
  else
    let r := writeObject via a 0 data s
    r.1.answer via r.2

def execObjectWrite (via : Via) (a : ObjAddr) (data : List Byte) (t : Nat) (s : State) : Outcome :=
  .next (objectWrite via a data (s.at t))

/-! ## Shapers (R329, R330) -/

/-- An entity bound to a shaper has a frame queued. -/
def shaperBusy (s : State) (k : Nat) : Bool := s.trn.flows.any (fun e => e.2.shaper == k && !e.2.queued.isEmpty)

/-- A refill of one shaper. -/
def refillShaper (s : State) (k : Nat) : State :=
  if shaperBusy s k then
    s.setTokens k (min (s.shaperBurst k) (s.tokensOf k + s.shaperRate k * s.obj Obj.SCH_REFILL_NS 0 / 1000))
  else s.setTokens k 0

/-- A captured shaper group at its first refill instant: applied with no tokens, or refused. -/
def applyShaper (s : State) (g : Group) : State :=
  if g.ok s then (setItems (dropGroup s g) g) else refuseGroup s g

/-- The shapers that a refill can change: one without a value has RATE 0 and BURST 0. -/
def State.shapersInUse (s : State) : List Nat :=
  (s.instancesOf Obj.SCH_SHAPER ++ s.asc.tokens.map (fun e => e.1)).eraseDups

/-- SHAPER_REFILL at an instant that is a multiple of SCH_REFILL_NS. -/
def shaperRefill (s : State) : State :=
  let period := s.obj Obj.SCH_REFILL_NS 0
  if s.now % period ≠ 0 then s
  else
    let gs := s.dict.groups.filter (fun g => g.point == .refill)
    let s' := gs.foldl applyShaper s
    let taken := (gs.filter (fun g => g.ok s)).flatMap (fun g => g.items.map (fun (e : Nat × Nat) => keyInst e.1))
    let on := s'.shapersInUse.filter (fun k => !taken.contains k)
    refreshEligible (fun _ => true) (taken.foldl (fun s k => s.setTokens k 0) (on.foldl refillShaper s'))

def execShaperRefill (t : Nat) (s : State) : Outcome := .next (shaperRefill (s.at t))

end Sys2Proof.Machine
end

