-- ==== Sys2Proof/Machine/Vdp.lean ====
section
/-! DEFINITION. How the dictionary is reached (chapter 16): VDP frames and sessions (R391 to R395), requests and their answers
(R396, R397), the mailbox commands DICT_READ and DICT_WRITE (R375), and telemetry (R401, R402). -/

namespace Sys2Proof.Machine

/-! ## Sessions (R394, R395) -/

def State.session? (s : State) (k : Nat) : Option Session := NMap.get? s.vdp.sessions k

def State.setSession (s : State) (k : Nat) (v : Session) : State :=
  { s with vdp := { s.vdp with sessions := NMap.ins s.vdp.sessions k v } }

/-- A session that a HELLO opens. -/
def Session.opened (port now : Nat) : Session :=
  { stage := .hello, port := port, last := now, rxHigh := none, rxSeen := [], txSeq := 0, noteSeq := 0, partials := [], answers := [] }

/-- HELLO: a credential that is not the configuration image's is dropped; a ninth session is answered with CLOSE, NOT_READY. -/
def hello (port : Nat) (ok : Bool) (s : State) : State :=
  if !s.running then s
  else if !ok then s.bump Obj.BRK_VDP_AUTH_FAIL 0
  else if 8 ≤ countIf s.vdp.sessions (fun e => e.1 ≠ 0) then s.emit (.vdp port 0 0x13 0 (toBytes 1 (statusCode .notReady)))
  else
    let k := s.vdp.next + 1
    ({ s with vdp := { s.vdp with next := k } }).setSession k (Session.opened port s.now)

def execHello (port : Fin 2) (credentialOk : Bool) (t : Nat) (s : State) : Outcome := .next (hello port credentialOk (s.at t))

/-- CHALLENGE: N_D and EK are fresh; the HELLO payload, and with it T0, is not the model's, so T0 is a free value. -/
def challenge (k : Nat) (s : State) : State := match s.session? k with
  | none => s
  | some v =>
    if v.stage ≠ .hello || k = 0 then s
    else
      let n := s.newId
      let t0 := n.2.fresh 512
      let body := pack [(k, 4), (0, 4)] ++ toBytes 32 (Config.nonce n.1) ++ toBytes 64 s.kiln.deviceId
        ++ toBytes 1568 (Config.encapKey n.1)
      let s := t0.2.setSession k { v with stage := .challenged, last := s.now }
      s.emit (.vdp v.port k 0x02 0 (body ++ toBytes 29792 (Config.signature t0.1)))

def execChallenge (session t : Nat) (s : State) : Outcome := .next (challenge session (s.at t))

/-- A CHALLENGE is forgotten 10 s after it was sent. -/
def challengeExpiry (k : Nat) (s : State) : State := match s.session? k with
  | none => s
  | some v => if v.stage = .challenged && v.last + 10000000000 ≤ s.now then closeSession s k else s

def execChallengeExpiry (session t : Nat) (s : State) : Outcome := .next (challengeExpiry session (s.at t))

/-- AUTH: a valid signature establishes the session and ACCEPT goes out with SEQ 0; a failure drops it. -/
def auth (port k : Nat) (ok : Bool) (s : State) : State := match s.session? k with
  | none => s.bump Obj.BRK_VDP_DROPPED 0
  | some v =>
    if v.stage ≠ .challenged then s.bump Obj.BRK_VDP_DROPPED 0
    else if v.last + 10000000000 ≤ s.now then (closeSession s k).bump Obj.BRK_VDP_DROPPED 0
    else if !ok then (closeSession s k).bump Obj.BRK_VDP_AUTH_FAIL 0
    else (s.setSession k { v with stage := .established, port := port, last := s.now, txSeq := 1 }).emit (.vdp port k 0x04 0 [])

def execAuth (port : Fin 2) (session : Nat) (sigOk : Bool) (t : Nat) (s : State) : Outcome :=
  .next (auth port session sigOk (s.at t))

/-- CLOSE from the manager ends the session at once. -/
def execClose (session : Nat) (s : State) : Outcome := .next (if session = 0 then s else closeSession s session)

/-- A session that has sent no frame for BRK_SESSION_IDLE_S is closed. -/
def idleExpiry (k : Nat) (s : State) : State := match s.session? k with
  | none => s
  | some v =>
    if v.stage = .established && v.last + s.obj Obj.BRK_SESSION_IDLE_S 0 * 1000000000 ≤ s.now then sendClose s k else s

def execSessionIdleExpiry (session t : Nat) (s : State) : Outcome := .next (idleExpiry session (s.at t))

/-! ## Frames and reassembly (R392, R393) -/

/-- A frame's fields as R392 lays them out. -/
structure FrameHdr where
  session : Nat
  typ : Nat
  magic : Nat
  version : Nat
  msgLen : Nat
  off : Nat
  len : Nat
  seq : Nat
  isSealed : Bool
  tagOk : Bool
  deriving DecidableEq, Repr

/-- The field checks: header constants, sizes, and a TYPE that a manager sends with a SESSION it may name. -/
def frameOk (s : State) (h : FrameHdr) : Bool :=
  let stage := (s.session? h.session).map (fun v => v.stage)
  let known := match h.typ with
    | 0x01 => h.session = 0
    | 0x03 => stage == some .challenged
    | 0x10 => h.session = 0 || stage == some .established
    | 0x13 => h.session ≠ 0 && stage.isSome
    | _ => false
  h.magic = 0x5644 && h.version = 1 && 1 ≤ h.msgLen && h.msgLen ≤ 65536 && 1 ≤ h.len && h.len ≤ 1184
    && h.off + h.len ≤ h.msgLen && known && h.isSealed == (h.session ≠ 0 && stage == some .established)

/-- The SEQ window of R393: above the highest accepted, or within the 1,024 below it and new. -/
def seqFresh (v : Session) (n : Nat) : Bool := match v.rxHigh with
  | none => true
  | some h => h < n || (h ≤ n + 1024 && !v.rxSeen.contains n)

/-- An accepted SEQ. -/
def seqAccept (v : Session) (n : Nat) : Session :=
  let h := max n (v.rxHigh.getD 0)
  { v with rxHigh := some h, rxSeen := (n :: v.rxSeen).filter (fun x => h ≤ x + 1024) }

/-- The fragments cover a message. -/
def covers (frags : List (Nat × Nat)) (n : Nat) : Bool :=
  (frags.foldl (fun at' _ => frags.foldl (fun a f => if f.1 ≤ a then max a (f.1 + f.2) else a) at') 0) ≥ n

/-- Adds a fragment of a message; a complete message is held no longer, and a seventeenth incomplete one is not taken. -/
def addFragment (v : Session) (now msg : Nat) (h : FrameHdr) : Option Session :=
  let old := (v.partials.find? (fun q => q.msg == msg)).getD { msg := msg, since := now, len := h.msgLen, frags := [] }
  let rest := v.partials.filter (fun q => q.msg ≠ msg)
  let frags := old.frags ++ [(h.off, h.len)]
  if old.len ≠ h.msgLen then none
  else if covers frags h.msgLen then some { v with partials := rest }
  else if 16 ≤ rest.length then none
  else some { v with partials := rest ++ [{ old with frags := frags }] }

/-- The session that holds a frame's fragments: 0 for HELLO and unauthenticated requests. -/
def frameSession (s : State) (port : Nat) (h : FrameHdr) : Session :=
  (s.session? h.session).getD (Session.opened port s.now)

/-- VDP_FRAME: dropped and counted on a field, tag or sequence check, or held as a fragment. -/
def vdpFrame (port msg : Nat) (h : FrameHdr) (s : State) : State :=
  if !s.running then s
  else
    let drop := s.bump Obj.BRK_VDP_DROPPED 0
    if !frameOk s h then drop
    else
      let v := frameSession s port h
      if h.isSealed && (!h.tagOk || !seqFresh v h.seq) then drop
      else
        let v := if h.isSealed then { seqAccept v h.seq with last := s.now } else v
        match addFragment v s.now msg h with
        | none => (if h.isSealed then s.setSession h.session v else s).bump Obj.BRK_VDP_DROPPED 0
        | some v => s.setSession h.session v

def execVdpFrame (port : Fin 2) (session typ magic version msgLen fragOff fragLen seqNo : Nat) (sealedF tagOk : Bool)
    (msg t : Nat) (s : State) : Outcome :=
  .next (vdpFrame port msg
    { session := session, typ := typ, magic := magic, version := version, msgLen := msgLen, off := fragOff, len := fragLen,
      seq := seqNo, isSealed := sealedF, tagOk := tagOk } (s.at t))

/-- An incomplete message is dropped after 10 ms. -/
def reassemblyExpiry (k msg : Nat) (s : State) : State := match s.session? k with
  | none => s
  | some v => s.setSession k { v with
    partials := v.partials.filter (fun q => q.msg ≠ msg || s.now < q.since + 10000000) }

def execReassemblyExpiry (session msg t : Nat) (s : State) : Outcome := .next (reassemblyExpiry session msg (s.at t))

/-! ## Requests (R396, R397) -/

/-- The bytes of an ANSWER, and of a mailbox output: STATUS, three reserved bytes, the total length, and the data (R375). -/
def Answer.bytes (a : Answer) : List Byte := pack [(statusCode a.status, 1), (0, 3), (a.length, 4)] ++ a.data

/-- Sends an ANSWER on a port; in a session its frames take SEQ numbers (R393). -/
def vdpAnswer (s : State) (port k reqId : Nat) (bs : List Byte) : State :=
  let s := match s.session? k with
    | some v => if k = 0 then s else s.setSession k { v with txSeq := v.txSeq + ceilDiv bs.length 1184 }
    | none => s
  s.emit (.vdp port k 0x11 reqId bs)

/-- Keeps an answer: the last 256 of a session. -/
def keepAnswer (s : State) (k reqId : Nat) (bs : List Byte) : State := match s.session? k with
  | some v => s.setSession k { v with answers := ((reqId, bs) :: v.answers).take 256 }
  | none => s

/-- A REQUEST: once per (SESSION, REQ_ID), and from the kept answers when it repeats. A session that has ended by its own
request, or that does not exist, is not answered. -/
def vdpRequest (port k reqId : Nat) (run : Via → State → State × Answer) (s : State) : State :=
  if k = 0 then
    if !s.serves .unauth then s
    else
      let r := run .unauth s
      vdpAnswer r.1 port 0 reqId r.2.bytes
  else if !s.serves (.vdp k) then s
  else match s.session? k with
    | none => s.bump Obj.BRK_VDP_DROPPED 0
    | some v =>
      if v.stage ≠ .established then s.bump Obj.BRK_VDP_DROPPED 0
      else
        let s := s.setSession k { v with last := s.now }
        match v.answers.find? (fun x => x.1 == reqId) with
        | some x => vdpAnswer (s.bump Obj.BRK_VDP_REPEATS 0) port k reqId x.2
        | none =>
          let r := run (.vdp k) s
          match r.1.session? k with
          | none => r.1
          | some _ => vdpAnswer (keepAnswer r.1 k reqId r.2.bytes) port k reqId r.2.bytes

/-- An access of the dictionary is traced (R442): sources 0 to 18 in the order of R399. -/
def traceDict (s : State) (a : ObjAddr) (write : Bool) (source : Nat) : State :=
  traceSample s 9 0 (a.index % 2 ^ 16 + a.sub % 2 ^ 8 * 2 ^ 16 + b2n write * 2 ^ 24 + source * 2 ^ 25)

/-- A read request of 1 to 65,512 bytes. -/
def vdpReadOf (port : Nat) (shadow : Bool) (a : ObjAddr) (off n : Nat) (via : Via) (s : State) : State × Answer :=
  let s := traceDict s a false port
  if n = 0 || 65512 < n then (s, .refuse .transportError) else readObject via a off n shadow s

def execVdpRead (port : Fin 2) (session reqId : Nat) (a : ObjAddr) (offset length t : Nat) (s : State) : Outcome :=
  .next (vdpRequest port session reqId (vdpReadOf port false a offset length) (s.at t))

def execReadShadow (port : Fin 2) (session reqId : Nat) (a : ObjAddr) (offset length t : Nat) (s : State) : Outcome :=
  .next (vdpRequest port session reqId (vdpReadOf port true a offset length) (s.at t))

/-- A write request of 1 to 65,512 bytes. -/
def vdpWriteOf (port : Nat) (a : ObjAddr) (off : Nat) (data : List Byte) (via : Via) (s : State) : State × Answer :=
  let s := traceDict s a true port
  if data.isEmpty || 65512 < data.length then (s, .refuse .transportError) else writeObject via a off data s

def execVdpWrite (port : Fin 2) (session reqId : Nat) (a : ObjAddr) (offset : Nat) (data : List Byte) (t : Nat) (s : State) :
    Outcome :=
  .next (vdpRequest port session reqId (vdpWriteOf port a offset data) (s.at t))

/-- KEEPALIVE: OK in a session; an unauthenticated one has nothing to keep (R335). -/
def keepaliveOf (via : Via) (s : State) : State × Answer :=
  (s, if via == .unauth then .refuse .accessDenied else { status := .ok, length := 0, data := [] })

def execKeepalive (port : Fin 2) (session reqId t : Nat) (s : State) : Outcome :=
  .next (vdpRequest port session reqId keepaliveOf (s.at t))

/-! ## Mailbox commands (R375) -/

/-- DICT_READ: 1 to 65,520 bytes; any other length is Invalid Input. -/
def dictRead (o : Nat) (via : Via) (a : ObjAddr) (off n : Nat) (s : State) : State :=
  if !s.serves via then s
  else if n = 0 || 65520 < n then s.emit (.mailbox o .invalidInput [])
  else
    let r := readObject via a off n false (traceDict s a false (o + 2))
    r.1.emit (.mailbox o .success r.2.bytes)

def execDictRead (o : OwnerNo) (a : ObjAddr) (offset length t : Nat) (s : State) : Outcome :=
  .next (dictRead o (.mailbox o) a offset length (s.at t))

/-- DICT_WRITE. -/
def dictWrite (o : Nat) (via : Via) (a : ObjAddr) (off : Nat) (data : List Byte) (s : State) : State :=
  if !s.serves via then s
  else if data.isEmpty || 65520 < data.length then s.emit (.mailbox o .invalidInput [])
  else
    let r := writeObject via a off data (traceDict s a true (o + 2))
    r.1.emit (.mailbox o .success r.2.bytes)

def execDictWrite (o : OwnerNo) (a : ObjAddr) (offset : Nat) (data : List Byte) (t : Nat) (s : State) : Outcome :=
  .next (dictWrite o (.mailbox o) a offset data (s.at t))

/-! ## Telemetry (R401, R402) -/

/-- The value of an object that a subscription names, zero-extended to 8 bytes. -/
def subValue (s : State) (e : Nat) : List Byte :=
  match objAt { index := bitsOf e 0 16, sub := bitsOf e 16 8, inst := bitsOf e 32 32 } with
  | some r => padTo 8 (objRange s r (bitsOf e 32 32) 0 r.size)
  | none => zeros 8

/-- TELEMETRY_SAMPLE: at an instant of an active subscription, one NOTIFY to its session. The period count is the number of the
instant among the multiples of the period. -/
def telemetrySample (sub : Nat) (s : State) : State :=
  let v := s.obj Obj.OBS_SUB sub
  let period := bitsOf v 64 32 * 1000
  let k := bitsOf v 32 32
  if !bitOf v 0 || period = 0 || s.now % period ≠ 0 || !s.isPriv (.vdp k) then s
  else
    let n := bitsOf v 8 8
    s.notifyOne k (pack [(2, 1), (sub, 1), (n, 1), (0, 1), (s.now / period, 4), (s.now, 8)]
      ++ (List.range n).flatMap (fun j => subValue s (bitsOf v (128 + 64 * j) 64)))

def execTelemetrySample (sub : Fin 64) (t : Nat) (s : State) : Outcome := .next (telemetrySample sub (s.at t))

end Sys2Proof.Machine
end

