-- ==== Sys2Proof/Machine/Dispatch.lean ====
section
/-! DEFINITION. One arm per command: a direct call of its meaning. -/

namespace Sys2Proof.Machine

/-- The effect of a command on everything but the queue. -/
def exec (i : Instr) (s : State) : Host.Outcome State Fault Refusal :=
  match i with
  | .baseInstruction b c w t => Sys2Proof.Machine.execBaseInstruction b c w t s
  | .jxTake b c rd rs1 t => Sys2Proof.Machine.execJxTake b c rd rs1 t s
  | .jxTakenb b c rd rs1 t => Sys2Proof.Machine.execJxTakenb b c rd rs1 t s
  | .jxPut b c rd rs1 rs2 t => Sys2Proof.Machine.execJxPut b c rd rs1 rs2 t s
  | .jxCwait b c rd rs1 imm t => Sys2Proof.Machine.execJxCwait b c rd rs1 imm t s
  | .jxAwait b c rd rs1 rs2 t => Sys2Proof.Machine.execJxAwait b c rd rs1 rs2 t s
  | .jxArrive b c rs1 rs2 t => Sys2Proof.Machine.execJxArrive b c rs1 rs2 t s
  | .jxTbrlo b c rd t => Sys2Proof.Machine.execJxTbrlo b c rd t s
  | .jxTbrhi b c rd => Sys2Proof.Machine.execJxTbrhi b c rd s
  | .jxBwait b c rs1 t => Sys2Proof.Machine.execJxBwait b c rs1 t s
  | .jxBmove b c rd rs1 rs2 rs3 t => Sys2Proof.Machine.execJxBmove b c rd rs1 rs2 rs3 t s
  | .jxVadd b c fmt vd vs1 vs2 => Sys2Proof.Machine.execJxVadd b c fmt vd vs1 vs2 s
  | .jxVmul b c fmt vd vs1 vs2 => Sys2Proof.Machine.execJxVmul b c fmt vd vs1 vs2 s
  | .jxVfma b c fmt vd vs1 vs2 => Sys2Proof.Machine.execJxVfma b c fmt vd vs1 vs2 s
  | .jxVmax b c fmt vd vs1 vs2 => Sys2Proof.Machine.execJxVmax b c fmt vd vs1 vs2 s
  | .jxVmin b c fmt vd vs1 vs2 => Sys2Proof.Machine.execJxVmin b c fmt vd vs1 vs2 s
  | .jxVrsum b c fmt fd vs1 => Sys2Proof.Machine.execJxVrsum b c fmt fd vs1 s
  | .jxVbcast b c fmt vd fs1 => Sys2Proof.Machine.execJxVbcast b c fmt vd fs1 s
  | .jxVld b c vd rs1 imm t => Sys2Proof.Machine.execJxVld b c vd rs1 imm t s
  | .jxVst b c vs2 rs1 imm t => Sys2Proof.Machine.execJxVst b c vs2 rs1 imm t s
  | .jxWaitEnd b c t => Sys2Proof.Machine.execJxWaitEnd b c t s
  | .bulkMoveDone b c tag => Sys2Proof.Machine.execBulkMoveDone b c tag s
  | .arriveSend b c t => Sys2Proof.Machine.execArriveSend b c t s
  | .rd tgt h addr len => Sys2Proof.Machine.execRd tgt h addr len s
  | .wr tgt h addr data => Sys2Proof.Machine.execWr tgt h addr data s
  | .wrAck tgt h addr data => Sys2Proof.Machine.execWrAck tgt h addr data s
  | .rdData b h data => Sys2Proof.Machine.execRdData b h data s
  | .wrDone b h => Sys2Proof.Machine.execWrDone b h s
  | .err b h status => Sys2Proof.Machine.execErr b h status s
  | .token b tok => Sys2Proof.Machine.execToken b tok s
  | .tokenCreditReturn b => Sys2Proof.Machine.execTokenCreditReturn b s
  | .arm k tag target t => Sys2Proof.Machine.execArm k tag target t s
  | .arrive k tag n t => Sys2Proof.Machine.execArrive k tag n t s
  | .counterRelease k => Sys2Proof.Machine.execCounterRelease k s
  | .stepDone p tag t => Sys2Proof.Machine.execStepDone p tag t s
  | .halt p => Sys2Proof.Machine.execHalt p s
  | .flitUncorrectable p node src headerBad t => Sys2Proof.Machine.execFlitUncorrectable p node src headerBad t s
  | .islandTempSample temps t => Sys2Proof.Machine.execIslandTempSample temps t s
  | .pwrIslandSetting via b value => Sys2Proof.Machine.execPwrIslandSetting via b value s
  | .governorDecision mw50us mw1ms inputMw inputMv inputMa t => Sys2Proof.Machine.execGovernorDecision mw50us mw1ms inputMw inputMv inputMa t s
  | .step o r d t => Sys2Proof.Machine.execStep o r d t s
  | .stepStart p t => Sys2Proof.Machine.execStepStart p t s
  | .heldEntryResume p e t => Sys2Proof.Machine.execHeldEntryResume p e t s
  | .stepBoundary p t => Sys2Proof.Machine.execStepBoundary p t s
  | .quantiserGo b c slot t => Sys2Proof.Machine.execQuantiserGo b c slot t s
  | .quantiserDone b t => Sys2Proof.Machine.execQuantiserDone b t s
  | .attCall port pkt call t => Sys2Proof.Machine.execAttCall port pkt call t s
  | .attCallService handle layer step t => Sys2Proof.Machine.execAttCallService handle layer step t s
  | .attAnswer handle layer step paused t => Sys2Proof.Machine.execAttAnswer handle layer step paused t s
  | .attDeadline handle layer step t => Sys2Proof.Machine.execAttDeadline handle layer step t s
  | .draftTree handle logits t => Sys2Proof.Machine.execDraftTree handle logits t s
  | .logits port pkt msg t => Sys2Proof.Machine.execLogits port pkt msg t s
  | .drfLogitsTimeout handle t => Sys2Proof.Machine.execDrfLogitsTimeout handle t s
  | .admitCmd o r tag body t => Sys2Proof.Machine.execAdmitCmd o r tag body t s
  | .reqUpdate o r tag handle mask blocks t => Sys2Proof.Machine.execReqUpdate o r tag handle mask blocks t s
  | .reserve o r tag handle lmax t => Sys2Proof.Machine.execReserve o r tag handle lmax t s
  | .release o r tag handle t => Sys2Proof.Machine.execRelease o r tag handle t s
  | .releaseFree slot t => Sys2Proof.Machine.execReleaseFree slot t s
  | .cancel o r tag handle step t => Sys2Proof.Machine.execCancel o r tag handle step t s
  | .move o r tag rid dst dstPallet alt t => Sys2Proof.Machine.execMove o r tag rid dst dstPallet alt t s
  | .rqsMove via rid dst dstPallet alt t => Sys2Proof.Machine.execRqsMove via rid dst dstPallet alt t s
  | .moveOffer slot t => Sys2Proof.Machine.execMoveOffer slot t s
  | .offerWhole port pkt h body hdr t => Sys2Proof.Machine.execOfferWhole port pkt h body hdr t s
  | .offerIncrement port pkt h body t => Sys2Proof.Machine.execOfferIncrement port pkt h body t s
  | .pull port pkt h t => Sys2Proof.Machine.execPull port pkt h t s
  | .offerExpiry slot t => Sys2Proof.Machine.execOfferExpiry slot t s
  | .imageReadDone srcMod xid img wire t => Sys2Proof.Machine.execImageReadDone srcMod xid img wire t s
  | .flushComplete id t => Sys2Proof.Machine.execFlushComplete id t s
  | .placed port pkt h tSent t => Sys2Proof.Machine.execPlaced port pkt h tSent t s
  | .homeRegisterMirror port pkt rid handle homeMod homeSeq copyVer cstep tHome t => Sys2Proof.Machine.execHomeRegisterMirror port pkt rid handle homeMod homeSeq copyVer cstep tHome t s
  | .homeUpdateAck rid t => Sys2Proof.Machine.execHomeUpdateAck rid t s
  | .placedResponse rid accepted t => Sys2Proof.Machine.execPlacedResponse rid accepted t s
  | .placedResendExpiry rid t => Sys2Proof.Machine.execPlacedResendExpiry rid t s
  | .handoverRelease port pkt h t => Sys2Proof.Machine.execHandoverRelease port pkt h t s
  | .placeWaitExpiry slot t => Sys2Proof.Machine.execPlaceWaitExpiry slot t s
  | .moveStuck slot t => Sys2Proof.Machine.execMoveStuck slot t s
  | .copyRefresh slot t => Sys2Proof.Machine.execCopyRefresh slot t s
  | .copyWrite port pkt h version stripe shard unit unitOk t => Sys2Proof.Machine.execCopyWrite port pkt h version stripe shard unit unitOk t s
  | .copyCommitSend slot t => Sys2Proof.Machine.execCopyCommitSend slot t s
  | .copyCommit port pkt h version cstep stripes t => Sys2Proof.Machine.execCopyCommit port pkt h version cstep stripes t s
  | .rqsRebuild via rid members p t => Sys2Proof.Machine.execRqsRebuild via rid members p t s
  | .rebuildReadDone rid homeSeq copyVer goodMembers read t => Sys2Proof.Machine.execRebuildReadDone rid homeSeq copyVer goodMembers read t s
  | .rqsRegroup via rid members => Sys2Proof.Machine.execRqsRegroup via rid members s
  | .placeHbm o r cmd t => Sys2Proof.Machine.execPlaceHbm o r cmd t s
  | .placeHost o r cmd t => Sys2Proof.Machine.execPlaceHost o r cmd t s
  | .flush o r cmd t => Sys2Proof.Machine.execFlush o r cmd t s
  | .placementDone id t => Sys2Proof.Machine.execPlacementDone id t s
  | .translationWalkDone b p va t => Sys2Proof.Machine.execTranslationWalkDone b p va t s
  | .prefetch p va t => Sys2Proof.Machine.execPrefetch p va t s
  | .stallThreshold p w t => Sys2Proof.Machine.execStallThreshold p w t s
  | .writebackComplete b x => Sys2Proof.Machine.execWritebackComplete b x s
  | .protectedRead place addr word t => Sys2Proof.Machine.execProtectedRead place addr word t s
  | .hbmScrub stack data check place t => Sys2Proof.Machine.execHbmScrub stack data check place t s
  | .brickScrub b data check acc addr t => Sys2Proof.Machine.execBrickScrub b data check acc addr t s
  | .imageTableRead rid reader => Sys2Proof.Machine.execImageTableRead rid reader s
  | .imageUnitRead rid reader units coded => Sys2Proof.Machine.execImageUnitRead rid reader units coded s
  | .cmpVerify via rid => Sys2Proof.Machine.execCmpVerify via rid s
  | .cmpVerifyDone rid damaged => Sys2Proof.Machine.execCmpVerifyDone rid damaged s
  | .portEnable port via => Sys2Proof.Machine.execPortEnable port via s
  | .portDisable port via => Sys2Proof.Machine.execPortDisable port via s
  | .negotiationDone port spare => Sys2Proof.Machine.execNegotiationDone port spare s
  | .negotiationTimeout port => Sys2Proof.Machine.execNegotiationTimeout port s
  | .trainingDone port sparedRx sparedTx => Sys2Proof.Machine.execTrainingDone port sparedRx sparedTx s
  | .trainingFail port => Sys2Proof.Machine.execTrainingFail port s
  | .trainingWaitExpiry port => Sys2Proof.Machine.execTrainingWaitExpiry port s
  | .alignmentDone port => Sys2Proof.Machine.execAlignmentDone port s
  | .alignmentTimeout port => Sys2Proof.Machine.execAlignmentTimeout port s
  | .alignmentLoss port t => Sys2Proof.Machine.execAlignmentLoss port t s
  | .predictiveTrigger port symbols w t => Sys2Proof.Machine.execPredictiveTrigger port symbols w t s
  | .suddenTrigger port lanes t => Sys2Proof.Machine.execSuddenTrigger port lanes t s
  | .mirrorReq port llane plane sudden seq => Sys2Proof.Machine.execMirrorReq port llane plane sudden seq s
  | .remapSwitch port => Sys2Proof.Machine.execRemapSwitch port s
  | .switched port llane plane seq => Sys2Proof.Machine.execSwitched port llane plane seq s
  | .goullorFrame port f t => Sys2Proof.Machine.execGoullorFrame port f t s
  | .xoffRepeat port cls => Sys2Proof.Machine.execXoffRepeat port cls s
  | .xon port cls taken => Sys2Proof.Machine.execXon port cls taken s
  | .pfcFrame port enable times t => Sys2Proof.Machine.execPfcFrame port enable times t s
  | .pauseExpiry port cls t => Sys2Proof.Machine.execPauseExpiry port cls t s
  | .pfcStorm port cls t => Sys2Proof.Machine.execPfcStorm port cls t s
  | .ptpSync x oneStep origin rx t => Sys2Proof.Machine.execPtpSync x oneStep origin rx t s
  | .ptpFollowUp x origin t => Sys2Proof.Machine.execPtpFollowUp x origin t s
  | .ptpDelayReq src t => Sys2Proof.Machine.execPtpDelayReq src t s
  | .ptpDelayResp x rxTime t => Sys2Proof.Machine.execPtpDelayResp x rxTime t s
  | .ptpAnnounce src domain master => Sys2Proof.Machine.execPtpAnnounce src domain master s
  | .tbPpsInEdge tenMPresent consistent t => Sys2Proof.Machine.execTbPpsInEdge tenMPresent consistent t s
  | .tbSourceLoss src t => Sys2Proof.Machine.execTbSourceLoss src t s
  | .tbHoldoverExpiry t => Sys2Proof.Machine.execTbHoldoverExpiry t s
  | .tbHoldoverS via value t => Sys2Proof.Machine.execTbHoldoverS via value t s
  | .tbPpsOut t => Sys2Proof.Machine.execTbPpsOut t s
  | .send port pkt t => Sys2Proof.Machine.execSend port pkt t s
  | .sendImm port pkt t => Sys2Proof.Machine.execSendImm port pkt t s
  | .write port pkt t => Sys2Proof.Machine.execWrite port pkt t s
  | .writeImm port pkt t => Sys2Proof.Machine.execWriteImm port pkt t s
  | .readReq port pkt t => Sys2Proof.Machine.execReadReq port pkt t s
  | .readResp port pkt t => Sys2Proof.Machine.execReadResp port pkt t s
  | .ack port pkt t => Sys2Proof.Machine.execAck port pkt t s
  | .nakSeq port pkt t => Sys2Proof.Machine.execNakSeq port pkt t s
  | .nakNotReady port pkt t => Sys2Proof.Machine.execNakNotReady port pkt t s
  | .nakNoFlow port pkt t => Sys2Proof.Machine.execNakNoFlow port pkt t s
  | .nakStatus port pkt t => Sys2Proof.Machine.execNakStatus port pkt t s
  | .flushAck port pkt t => Sys2Proof.Machine.execFlushAck port pkt t s
  | .nrBackoffExpiry flow t => Sys2Proof.Machine.execNrBackoffExpiry flow t s
  | .trnTimerExpiry flow t => Sys2Proof.Machine.execTrnTimerExpiry flow t s
  | .flowFail flow t => Sys2Proof.Machine.execFlowFail flow t s
  | .flowIdleExpiry flow t => Sys2Proof.Machine.execFlowIdleExpiry flow t s
  | .flowEntryWaitEnd t => Sys2Proof.Machine.execFlowEntryWaitEnd t s
  | .receiverFlowExpiry srcMod flow t => Sys2Proof.Machine.execReceiverFlowExpiry srcMod flow t s
  | .contextFetchDone q t => Sys2Proof.Machine.execContextFetchDone q t s
  | .contextIdleMove q t => Sys2Proof.Machine.execContextIdleMove q t s
  | .queueDoorbell o q index t => Sys2Proof.Machine.execQueueDoorbell o q index t s
  | .cqDoorbell o q index t => Sys2Proof.Machine.execCqDoorbell o q index t s
  | .wqeSend q w t => Sys2Proof.Machine.execWqeSend q w t s
  | .wqeSendImm q w t => Sys2Proof.Machine.execWqeSendImm q w t s
  | .wqeWrite q w t => Sys2Proof.Machine.execWqeWrite q w t s
  | .wqeWriteImm q w t => Sys2Proof.Machine.execWqeWriteImm q w t s
  | .wqeRead q w t => Sys2Proof.Machine.execWqeRead q w t s
  | .waitCq q w t => Sys2Proof.Machine.execWaitCq q w t s
  | .waitCqSatisfied q t => Sys2Proof.Machine.execWaitCqSatisfied q t s
  | .nop q w t => Sys2Proof.Machine.execNop q w t s
  | .qmodifyReady via q m t => Sys2Proof.Machine.execQmodifyReady via q m t s
  | .qmodifyReset via q m => Sys2Proof.Machine.execQmodifyReset via q m s
  | .qmodifyError via q m t => Sys2Proof.Machine.execQmodifyError via q m t s
  | .register o r tag p access keyId va length t => Sys2Proof.Machine.execRegister o r tag p access keyId va length t s
  | .revoke o r tag rkey t => Sys2Proof.Machine.execRevoke o r tag rkey t s
  | .revokeDrained idx t => Sys2Proof.Machine.execRevokeDrained idx t s
  | .registrationFree idx t => Sys2Proof.Machine.execRegistrationFree idx t s
  | .rmfMapStage via m => Sys2Proof.Machine.execRmfMapStage via m s
  | .rmfMapCommit via epoch => Sys2Proof.Machine.execRmfMapCommit via epoch s
  | .rmfMapDiscard via => Sys2Proof.Machine.execRmfMapDiscard via s
  | .epochPurge => Sys2Proof.Machine.execEpochPurge s
  | .load b c slot cmd t => Sys2Proof.Machine.execLoad b c slot cmd t s
  | .store b c slot cmd t => Sys2Proof.Machine.execStore b c slot cmd t s
  | .atomic b c slot cmd t => Sys2Proof.Machine.execAtomic b c slot cmd t s
  | .put b c slot cmd t => Sys2Proof.Machine.execPut b c slot cmd t s
  | .get b c slot cmd t => Sys2Proof.Machine.execGet b c slot cmd t s
  | .rmLoad port pkt region t => Sys2Proof.Machine.execRmLoad port pkt region t s
  | .rmLoadResp port pkt t => Sys2Proof.Machine.execRmLoadResp port pkt t s
  | .rmStore port pkt region t => Sys2Proof.Machine.execRmStore port pkt region t s
  | .fetchAdd port pkt region t => Sys2Proof.Machine.execFetchAdd port pkt region t s
  | .swap port pkt region t => Sys2Proof.Machine.execSwap port pkt region t s
  | .cas port pkt region t => Sys2Proof.Machine.execCas port pkt region t s
  | .fetchMaxu port pkt region t => Sys2Proof.Machine.execFetchMaxu port pkt region t s
  | .fetchMinu port pkt region t => Sys2Proof.Machine.execFetchMinu port pkt region t s
  | .fetchOr port pkt region t => Sys2Proof.Machine.execFetchOr port pkt region t s
  | .fetchAnd port pkt region t => Sys2Proof.Machine.execFetchAnd port pkt region t s
  | .rmAtomicResp port pkt t => Sys2Proof.Machine.execRmAtomicResp port pkt t s
  | .rmPut port pkt region t => Sys2Proof.Machine.execRmPut port pkt region t s
  | .rmGetReq port pkt region t => Sys2Proof.Machine.execRmGetReq port pkt region t s
  | .rmGetResp port pkt t => Sys2Proof.Machine.execRmGetResp port pkt t s
  | .rmfDeadSet via m t => Sys2Proof.Machine.execRmfDeadSet via m t s
  | .rmfDeadClear via m => Sys2Proof.Machine.execRmfDeadClear via m s
  | .collAbort port pkt a t => Sys2Proof.Machine.execCollAbort port pkt a t s
  | .collAbortUnreachable gid step member t => Sys2Proof.Machine.execCollAbortUnreachable gid step member t s
  | .orderInsert domain entity cost => Sys2Proof.Machine.execOrderInsert domain entity cost s
  | .slackMove blk => Sys2Proof.Machine.execSlackMove blk s
  | .domainRebase domain => Sys2Proof.Machine.execDomainRebase domain s
  | .portBurstPop port t => Sys2Proof.Machine.execPortBurstPop port t s
  | .shaperRefill t => Sys2Proof.Machine.execShaperRefill t s
  | .palImageApply p t => Sys2Proof.Machine.execPalImageApply p t s
  | .palletSaveDone p t => Sys2Proof.Machine.execPalletSaveDone p t s
  | .palletLoadDone p marchOk t => Sys2Proof.Machine.execPalletLoadDone p marchOk t s
  | .geometryApply t => Sys2Proof.Machine.execGeometryApply t s
  | .commitGroupApply id t => Sys2Proof.Machine.execCommitGroupApply id t s
  | .brkCommit via value t => Sys2Proof.Machine.execBrkCommit via value t s
  | .brkStageDiscard via value => Sys2Proof.Machine.execBrkStageDiscard via value s
  | .objectWrite via a data t => Sys2Proof.Machine.execObjectWrite via a data t s
  | .secSlotAssign via slot gen lds => Sys2Proof.Machine.execSecSlotAssign via slot gen lds s
  | .secAttestReq via slot nonce t => Sys2Proof.Machine.execSecAttestReq via slot nonce t s
  | .attestReportSigned sig t => Sys2Proof.Machine.execAttestReportSigned sig t s
  | .ekExpiry slot t => Sys2Proof.Machine.execEkExpiry slot t s
  | .secKeyRelease via magic version slot gen digest t => Sys2Proof.Machine.execSecKeyRelease via magic version slot gen digest t s
  | .keyInstallDone slot tagOk bundle t => Sys2Proof.Machine.execKeyInstallDone slot tagOk bundle t s
  | .keyDistributionDone slot t => Sys2Proof.Machine.execKeyDistributionDone slot t s
  | .secRetire via slot t => Sys2Proof.Machine.execSecRetire via slot t s
  | .drainComplete slot t => Sys2Proof.Machine.execDrainComplete slot t s
  | .drainForced slot t => Sys2Proof.Machine.execDrainForced slot t s
  | .zeroise slot t => Sys2Proof.Machine.execZeroise slot t s
  | .secImageInstall via p src dst tag t => Sys2Proof.Machine.execSecImageInstall via p src dst tag t s
  | .imageInstallDone p chk m body t => Sys2Proof.Machine.execImageInstallDone p chk m body t s
  | .hello port credentialOk t => Sys2Proof.Machine.execHello port credentialOk t s
  | .challenge session t => Sys2Proof.Machine.execChallenge session t s
  | .challengeExpiry session t => Sys2Proof.Machine.execChallengeExpiry session t s
  | .auth port session sigOk t => Sys2Proof.Machine.execAuth port session sigOk t s
  | .close session => Sys2Proof.Machine.execClose session s
  | .sessionIdleExpiry session t => Sys2Proof.Machine.execSessionIdleExpiry session t s
  | .reassemblyExpiry session msg t => Sys2Proof.Machine.execReassemblyExpiry session msg t s
  | .vdpRead port session reqId a offset length t => Sys2Proof.Machine.execVdpRead port session reqId a offset length t s
  | .vdpWrite port session reqId a offset data t => Sys2Proof.Machine.execVdpWrite port session reqId a offset data t s
  | .readShadow port session reqId a offset length t => Sys2Proof.Machine.execReadShadow port session reqId a offset length t s
  | .keepalive port session reqId t => Sys2Proof.Machine.execKeepalive port session reqId t s
  | .telemetrySample sub t => Sys2Proof.Machine.execTelemetrySample sub t s
  | .errFaultClear via value => Sys2Proof.Machine.execErrFaultClear via value s
  | .dictRead o a offset length t => Sys2Proof.Machine.execDictRead o a offset length t s
  | .dictWrite o a offset data t => Sys2Proof.Machine.execDictWrite o a offset data t s
  | .identify o => Sys2Proof.Machine.execIdentify o s
  | .getEventRecords o log => Sys2Proof.Machine.execGetEventRecords o log s
  | .clearEventRecords o log all handles => Sys2Proof.Machine.execClearEventRecords o log all handles s
  | .getEventInterruptPolicy o => Sys2Proof.Machine.execGetEventInterruptPolicy o s
  | .setEventInterruptPolicy o policy => Sys2Proof.Machine.execSetEventInterruptPolicy o policy s
  | .getFwInfo o => Sys2Proof.Machine.execGetFwInfo o s
  | .getTimestamp o t => Sys2Proof.Machine.execGetTimestamp o t s
  | .getSupportedLogs o => Sys2Proof.Machine.execGetSupportedLogs o s
  | .getLog o log offset length => Sys2Proof.Machine.execGetLog o log offset length s
  | .identifyMemoryDevice o => Sys2Proof.Machine.execIdentifyMemoryDevice o s
  | .getPartitionInfo o => Sys2Proof.Machine.execGetPartitionInfo o s
  | .getHealthInfo o => Sys2Proof.Machine.execGetHealthInfo o s
  | .transferFw o => Sys2Proof.Machine.execTransferFw o s
  | .activateFw o => Sys2Proof.Machine.execActivateFw o s
  | .setTimestamp o => Sys2Proof.Machine.execSetTimestamp o s
  | .getPoisonList o => Sys2Proof.Machine.execGetPoisonList o s
  | .injectPoison o => Sys2Proof.Machine.execInjectPoison o s
  | .clearPoison o => Sys2Proof.Machine.execClearPoison o s
  | .setLdAllocations start mib => Sys2Proof.Machine.execSetLdAllocations start mib s
  | .getLdInfo => Sys2Proof.Machine.execGetLdInfo s
  | .getLdAllocations start count => Sys2Proof.Machine.execGetLdAllocations start count s
  | .qosTelemetry start set => Sys2Proof.Machine.execQosTelemetry start set s
  | .hdmDecoderCommit o iw ig => Sys2Proof.Machine.execHdmDecoderCommit o iw ig s
  | .cxlMemRead o addr bad0 bad1 t => Sys2Proof.Machine.execCxlMemRead o addr bad0 bad1 t s
  | .cxlMemWrite o addr line => Sys2Proof.Machine.execCxlMemWrite o addr line s
  | .ringEnable o r => Sys2Proof.Machine.execRingEnable o r s
  | .ringDisable o r => Sys2Proof.Machine.execRingDisable o r s
  | .ringTailDoorbell o r value t => Sys2Proof.Machine.execRingTailDoorbell o r value t s
  | .ringHeadDoorbell o r value t => Sys2Proof.Machine.execRingHeadDoorbell o r value t s
  | .seqReread o r t => Sys2Proof.Machine.execSeqReread o r t s
  | .seqWaitExpiry o r t => Sys2Proof.Machine.execSeqWaitExpiry o r t s
  | .msixCoalesceExpiry o r t => Sys2Proof.Machine.execMsixCoalesceExpiry o r t s
  | .ldStatusClear o word => Sys2Proof.Machine.execLdStatusClear o word s
  | .hstFmDoorbell via inst value t => Sys2Proof.Machine.execHstFmDoorbell via inst value t s
  | .hostDmaDone id ok t => Sys2Proof.Machine.execHostDmaDone id ok t s
  | .dmaTimeout id t => Sys2Proof.Machine.execDmaTimeout id t s
  | .ldReset o t => Sys2Proof.Machine.execLdReset o t s
  | .cxlPerstN t => Sys2Proof.Machine.execCxlPerstN t s
  | .cxlLinkTrained width speedGts t => Sys2Proof.Machine.execCxlLinkTrained width speedGts t s
  | .pcSample p inflightFull t => Sys2Proof.Machine.execPcSample p inflightFull t s
  | .counterIntervalRecord set t => Sys2Proof.Machine.execCounterIntervalRecord set t s
  | .traceArm via ctrl t => Sys2Proof.Machine.execTraceArm via ctrl t s
  | .traceTimeTrigger t => Sys2Proof.Machine.execTraceTimeTrigger t s
  | .traceTrigger src payload t => Sys2Proof.Machine.execTraceTrigger src payload t s
  | .traceFreeze => Sys2Proof.Machine.execTraceFreeze s
  | .traceFinalRead via offset length => Sys2Proof.Machine.execTraceFinalRead via offset length s
  | .obsMuxSel via sel => Sys2Proof.Machine.execObsMuxSel via sel s
  | .inputExcursion mv t => Sys2Proof.Machine.execInputExcursion mv t s
  | .brownOut t => Sys2Proof.Machine.execBrownOut t s
  | .overVoltage t => Sys2Proof.Machine.execOverVoltage t s
  | .powerRestart t => Sys2Proof.Machine.execPowerRestart t s
  | .refclkLoss t => Sys2Proof.Machine.execRefclkLoss t s
  | .resetN lowNs t => Sys2Proof.Machine.execResetN lowNs t s
  | .bulkCharged t => Sys2Proof.Machine.execBulkCharged t s
  | .modPwrgd t => Sys2Proof.Machine.execModPwrgd t s
  | .internalResetRelease strap t => Sys2Proof.Machine.execInternalResetRelease strap t s
  | .pufIdentity copy0 copy1 serial => Sys2Proof.Machine.execPufIdentity copy0 copy1 serial s
  | .kilnFwVerified a b => Sys2Proof.Machine.execKilnFwVerified a b s
  | .configVerified a b vf => Sys2Proof.Machine.execConfigVerified a b vf s
  | .hbmTrained t => Sys2Proof.Machine.execHbmTrained t s
  | .marchTest b ok t => Sys2Proof.Machine.execMarchTest b ok t s
  | .codecSelftest b failed t => Sys2Proof.Machine.execCodecSelftest b failed t s
  | .runtimeFwRunning a b t => Sys2Proof.Machine.execRuntimeFwRunning a b t s
  | .mailboxesOpen t => Sys2Proof.Machine.execMailboxesOpen t s
  | .extest pins => Sys2Proof.Machine.execExtest pins s
  | .idcode => Sys2Proof.Machine.execIdcode s
  | .samplePreload pins => Sys2Proof.Machine.execSamplePreload pins s
  | .bypass => Sys2Proof.Machine.execBypass s
  | .powerOn mv t => Sys2Proof.Machine.execPowerOn mv t s
  | .configurationRequest o op busMaster d3hot t => Sys2Proof.Machine.execConfigurationRequest o op busMaster d3hot t s
  | .conventionalReset t => Sys2Proof.Machine.execConventionalReset t s
  | .managementPortLink port up t => Sys2Proof.Machine.execManagementPortLink port up t s
  | .vdpFrame port session typ magic version msgLen fragOff fragLen seqNo sealedF tagOk msg t => Sys2Proof.Machine.execVdpFrame port session typ magic version msgLen fragOff fragLen seqNo sealedF tagOk msg t s
  | .tbSourceSwitch src t => Sys2Proof.Machine.execTbSourceSwitch src t s
  | .msixVectorUnmask o vector => Sys2Proof.Machine.execMsixVectorUnmask o vector s
  | .ringConfigurationWrite o r word value => Sys2Proof.Machine.execRingConfigurationWrite o r word value s

end Sys2Proof.Machine
end

