-- ==== Sys2Proof/WellFormed.lean ====
section
/-! DEFINITION. Which terms of `Instr` a command can be: every field fits the width the spec's layout gives it, and the
lists that a layout fixes in number have that number. A value that fits its field but that the spec refuses is well formed:
its refusal is the command's meaning. -/

namespace Sys2Proof

/-- A value fits in `w` bits. -/
def fits (w v : Nat) : Bool := v < 2 ^ w

/-- Every value of a list fits in `w` bits. -/
def allFit (w : Nat) (l : List Nat) : Bool := l.all (fits w)

/-- The 56-byte work token and its header fields (R27, R38). -/
def Token.wf (k : Token) : Bool :=
  fits 12 k.src && fits 8 k.kind && fits 8 k.engines && fits 16 k.passes && fits 17 k.arrId && fits 48 k.page
    && k.args.length == 40 && fits 16 k.tag

/-- SRC and TAG of a routing header (R27). -/
def MortarHdr.wf (h : MortarHdr) : Bool := fits 12 h.src && fits 16 h.tag

/-- The place of a protected word (R185). -/
def WordPlace.wf : WordPlace → Bool
  | .requestState slot region => fits 20 slot && fits 4 region
  | .palletImage _ frame => fits 26 frame
  | .queueContext _ => true
  | .hostStructure _ addr => fits 40 addr
  | .brickStore _ addr => fits 32 addr
  | .accumulator _ addr => fits 32 addr
  | .mortarFlit _ => true
  | .instrBuffer _ => true

/-- A trailer is 16 bytes (R239). -/
def Trailer.wf : Trailer → Bool
  | .bytes v => fits 128 v
  | .checked _ => true

/-- The field widths of an Announce's data set (IEEE 1588-2019; PRESUMED, log entry 130). -/
def PtpMaster.wf (m : PtpMaster) : Bool :=
  fits 8 m.priority1 && fits 8 m.clockClass && fits 8 m.accuracy && fits 16 m.variance && fits 8 m.priority2
    && fits 64 m.identity && fits 16 m.steps && fits 80 m.sender

/-- The transport header's field widths (R238). -/
def Pkt.wf (p : Pkt) : Bool :=
  fits 16 p.epoch && fits 16 p.srcMod && fits 16 p.dstMod && fits 14 p.flow && fits 16 p.keyId && fits 24 p.psn
    && fits 8 p.fgen && fits 64 p.flowT && fits 18 p.dq && fits 18 p.sq && fits 64 p.addr && fits 32 p.rkey
    && fits 32 p.tag && fits 32 p.imm && fits 24 p.ackPsn && fits 32 p.aux && fits 64 p.birth && fits 3 p.cls && p.icv.wf

/-- One packet: DLEN is at most 4,096 (R238), and it stands with its data and its trailer (R239). -/
def Pkt.wfOne (p : Pkt) : Bool := p.wf && p.data.length ≤ 4096 && (match p.icv with
  | .bytes _ => true
  | .checked _ => false)

/-- A work queue entry's field widths (R255). -/
def Wqe.wf (w : Wqe) : Bool :=
  fits 16 w.dstMod && fits 18 w.dq && fits 64 w.wrid && fits 64 w.laddr && fits 32 w.lkey && fits 32 w.len
    && fits 64 w.raddr && fits 32 w.rkey && fits 32 w.imm && fits 18 w.wcq && fits 32 w.wcount

/-- A queue context's field widths (R251). -/
def QModify.wf (m : QModify) : Bool :=
  fits 3 m.typ && fits 2 m.cls && fits 16 m.keyId && fits 18 m.cqn && fits 5 m.logSize && fits 64 m.ring

/-- A rack command slot's field widths (R271). -/
def RackCmd.wf (c : RackCmd) : Bool :=
  fits 4 c.aop && fits 32 c.region && fits 48 c.offset && fits 32 c.laddr && fits 32 c.len && fits 64 c.opnd1
    && fits 64 c.opnd2 && fits 17 c.arrId && fits 16 c.arrTag

/-- A composition record's field widths (R268). -/
def MapRecord.wf (m : MapRecord) : Bool :=
  fits 4 m.kind && fits 32 m.key && fits 12 m.ports && fits 16 m.home && fits 16 m.writer && fits 32 m.rkey
    && fits 48 m.base && fits 48 m.length && fits 2 m.split && fits 16 m.accel && m.members.length ≤ 16
    && allFit 16 m.members && fits 64 m.rid

/-- A COLL_ABORT payload's field widths (R282). -/
def CollAbort.wf (a : CollAbort) : Bool :=
  fits 16 a.gid && fits 32 a.step && fits 64 a.rid && fits 64 a.tDetect && fits 16 a.origin

/-- An attention call's field widths (R86). -/
def AttCall.wf (c : AttCall) : Bool :=
  fits 32 c.handle && fits 32 c.step && fits 8 c.layer && 1 ≤ c.nq && c.nq ≤ 64 && fits 2 c.mode && fits 3 c.qfmt
    && fits 2 c.segmode && fits 8 c.nqh && fits 5 c.nkv && fits 2 c.hdimc && fits 8 c.part && fits 8 c.npart
    && fits 32 c.ctxlen && fits 16 c.massB && c.qseg.length == 64 && allFit 8 c.qseg && c.parent.length == 64
    && allFit 8 c.parent && allFit 8 c.qElems && allFit 8 c.qScales && allFit 8 c.freshElems && allFit 8 c.freshScales

/-- A LOGITS payload's field widths (R114). -/
def LogitsMsg.wf (m : LogitsMsg) : Bool :=
  fits 32 m.handle && fits 32 m.step && fits 6 m.nnodes && fits 5 m.nstream && fits 2 m.lfmt && m.vocab.length == 16
    && allFit 32 m.vocab && allFit 32 m.logits

/-- A sampler parameter block's field widths (R117). -/
def Block.wf (b : Block) : Bool :=
  fits 16 b.window && fits 32 b.vocab && fits 32 b.topk && fits 64 b.seed && fits 32 b.stop

/-- Geometry field widths (R130). -/
def Geom.wf (g : Geom) : Bool :=
  fits 8 g.nlayer && fits 5 g.nkv && fits 2 g.hdimc && fits 7 g.dlayer && fits 5 g.dnkv && fits 2 g.dhdimc

/-- An admit command's field widths (R301). -/
def AdmitBody.wf (b : AdmitBody) : Bool :=
  fits 64 b.rid && fits 2 b.pfmt && fits 5 b.nstream && fits 8 b.nlayer && fits 5 b.nkv && fits 2 b.hdimc
    && fits 7 b.dlayer && fits 5 b.dnkv && fits 2 b.dhdimc && fits 32 b.lmax && b.blocks.all Block.wf

/-- A descriptor entry's field widths (R310). -/
def StepEntry.wf (e : StepEntry) : Bool :=
  fits 32 e.handle && fits 32 e.step && fits 7 e.ntok && fits 32 e.incPos0 && fits 32 e.dstHandle && fits 16 e.dstMod
    && fits 4 e.dstPallet && fits 64 e.deadline

/-- A prefetch hint's field widths (R310). -/
def Hint.wf (h : Hint) : Bool := fits 9 h.entry && fits 8 h.layer && fits 4 h.kvhead && fits 32 h.page

/-- A carried entry: frames of at most 16 tokens (R127, R157). -/
def CarriedEntry.wf (e : CarriedEntry) : Bool := fits 32 e.step && e.frames.all (fun f => f.length ≤ 16 && allFit 32 f)

/-- A step descriptor's field widths (R309). -/
def StepDesc.wf (d : StepDesc) : Bool :=
  fits 32 d.batch && fits 2 d.kind && fits 32 d.arrTarget && fits 16 d.accelMod && fits 18 d.accelQ && fits 64 d.imageId
    && fits 32 d.length && d.entries.length ≤ 1023 && d.entries.all StepEntry.wf && d.hints.length ≤ 8191
    && d.hints.all Hint.wf && d.replay.all CarriedEntry.wf

/-- A handover header's field widths (R137). -/
def HoHdr.wf (h : HoHdr) : Bool :=
  fits 8 h.typ && fits 32 h.xid && fits 64 h.rid && fits 32 h.srcHandle && fits 32 h.dstHandle && fits 16 h.srcMod && fits 16 h.dstMod
    && fits 32 h.homeSeq

/-- An OFFER's field widths (R138). -/
def OfferBody.wf (b : OfferBody) : Bool :=
  fits 2 b.kind && fits 32 b.pos0 && fits 32 b.ntok && fits 32 b.nunits && fits 16 b.reg && fits 32 b.nspill && fits 48 b.image
    && fits 64 b.tExpire && b.pending.length ≤ 16 && allFit 32 b.pending

/-- What a destination reads of an image (R142). -/
def ImageHdr.wf (h : ImageHdr) : Bool :=
  h.geom.wf && fits 3 h.pfmt && fits 32 h.resPages && fits 32 h.resSpill && h.blocks.all Block.wf

/-- A page record: 8 KiB of elements and 1 KiB of side record; a spill payload is 32 bytes (R82, R139). -/
def PageRec.wf (r : PageRec) : Bool :=
  fits 8 r.layer && fits 5 r.head && fits 32 r.page && r.elems.length == 8192 && r.side.length == 1024
    && r.spill.all (fun x => x.length == 32)

/-- An increment in an inbox (R145). -/
def Increment.wf (i : Increment) : Bool :=
  fits 32 i.pos0 && fits 32 i.ntok && i.pending.length ≤ 16 && allFit 32 i.pending && fits 32 i.nspill
    && i.pages.all PageRec.wf

/-- An extent image's field widths (R130, R139). -/
def Image.wf (g : Image) : Bool :=
  g.geom.wf && fits 5 g.nstream && fits 3 g.pfmt && fits 32 g.ctxlen && fits 32 g.nextStep && fits 32 g.cstep
    && fits 32 g.copyVer && fits 32 g.admitHandle && fits 32 g.resPages && fits 32 g.resSpill && g.copyGroup.length == 6
    && allFit 16 g.copyGroup && fits 64 g.tAdmit && fits 64 g.tLast && g.pending.length ≤ 16 && allFit 32 g.pending && g.blocks.length ≤ 16
    && g.blocks.all Block.wf && g.pages.all PageRec.wf && g.inbox.all Increment.wf

/-- What coded reads met (R191, R202): a stream header with at most 16 tables of 136 bytes, and the checks that each read of a unit
failed. -/
def WireRead.wf (w : WireRead) : Bool := w.stream.length ≤ 2240 && w.damaged.all (fun d => d.length ≤ 256)

/-- The keys of a bundle (R349). -/
def SlotKeys.wf (k : SlotKeys) : Bool := fits 512 k.xts && fits 256 k.link && fits 256 k.model

/-- A placement command's field widths (R171). -/
def PlaceCmd.wf (c : PlaceCmd) : Bool :=
  fits 8 c.stackMask && fits 32 c.npages && fits 48 c.va && fits 64 c.hostPa && fits 32 c.tag

/-- An object address (R381). -/
def ObjAddr.wf (a : ObjAddr) : Bool := fits 16 a.index && fits 8 a.sub && fits 32 a.inst

/-- A manifest's field widths (R318). -/
def Manifest.wf (m : Manifest) : Bool :=
  fits 16 m.magic && fits 8 m.version && fits 2 m.kind && fits 5 m.ncourse && fits 64 m.imageId && m.geom.wf
    && fits 8 m.nqh && fits 64 m.macPerNode && m.counts.length == 3
    && m.counts.all (fun c => fits 32 c.1 && fits 32 c.2.1 && fits 32 c.2.2)
    && m.variants.length ≤ 15 && m.variants.all (fun v => fits 6 v.1 && v.2.length == 4 && allFit 16 v.2)
    && m.loads.all (fun v => fits 6 v.1 && v.2.all (fun r => fits 11 r.1 && fits 16 r.2.1 && fits 32 r.2.2.1 && fits 64 r.2.2.2))

/-- A tenant policy's field widths (R349). -/
def Policy.wf (p : Policy) : Bool :=
  fits 64 p.tenantId && fits 4 p.consent && fits 16 p.pallets && fits 16 p.lds && fits 16 p.minFwSvn
    && fits 16 p.minKilnSvn && fits 512 p.imageSigner

/-- A GOULLOR frame's field widths (R220). -/
def Frame.wf (f : Frame) : Bool :=
  fits 16 f.tpid && fits 16 f.etype && fits 8 f.gver && fits 8 f.kind && fits 8 f.op && fits 16 f.plen && fits 16 f.bytes

/-- An image check's field widths (R338). -/
def ImageCheck.wf (c : ImageCheck) : Bool :=
  fits 32 c.magic && fits 8 c.version && fits 8 c.typ && fits 16 c.svn && fits 64 c.imageId && fits 512 c.signer
    && fits 512 c.digest && fits 512 c.bodyDigest

/-- A configuration request's field widths: a word of the 4 KiB space, or of a DVSEC (R359). -/
def CfgAccess.wf : CfgAccess → Bool
  | .write => true
  | .read d n => fits 16 (d.getD 0) && fits 12 n && n % 4 == 0

/-- A command is well formed. -/
def Instr.wf : Instr → Bool
  | .baseInstruction _ _ _ t => fits 64 t
  | .jxTake _ _ _ _ t => fits 64 t
  | .jxTakenb _ _ _ _ t => fits 64 t
  | .jxPut _ _ _ _ _ t => fits 64 t
  | .jxCwait _ _ _ _ _ t => fits 64 t
  | .jxAwait _ _ _ _ _ t => fits 64 t
  | .jxArrive _ _ _ _ t => fits 64 t
  | .jxTbrlo _ _ _ t => fits 64 t
  | .jxTbrhi _ _ _ => true
  | .jxBwait _ _ _ t => fits 64 t
  | .jxBmove _ _ _ _ _ _ t => fits 64 t
  | .jxVadd _ _ _ _ _ _ => true
  | .jxVmul _ _ _ _ _ _ => true
  | .jxVfma _ _ _ _ _ _ => true
  | .jxVmax _ _ _ _ _ _ => true
  | .jxVmin _ _ _ _ _ _ => true
  | .jxVrsum _ _ _ _ _ => true
  | .jxVbcast _ _ _ _ _ => true
  | .jxVld _ _ _ _ _ t => fits 64 t
  | .jxVst _ _ _ _ _ t => fits 64 t
  | .jxWaitEnd _ _ t => fits 64 t
  | .bulkMoveDone _ _ _ => true
  | .arriveSend _ _ t => fits 64 t
  | .rd _ h addr len => h.wf && fits 64 addr && fits 8 len
  | .wr _ h addr data => h.wf && fits 64 addr && data.length ≤ 240
  | .wrAck _ h addr data => h.wf && fits 64 addr && data.length ≤ 240
  | .rdData _ h data => h.wf && data.length ≤ 248
  | .wrDone _ h => h.wf
  | .err _ h _ => h.wf
  | .token _ tok => tok.wf
  | .tokenCreditReturn _ => true
  | .arm _ tag target t => fits 16 tag && fits 32 target && fits 64 t
  | .arrive _ tag n t => fits 16 tag && fits 16 n && fits 64 t
  | .counterRelease _ => true
  | .stepDone _ tag t => fits 16 tag && fits 64 t
  | .halt _ => true
  | .flitUncorrectable _ node src _ t => fits 12 node && fits 12 src && fits 64 t
  | .islandTempSample _ t => fits 64 t
  | .pwrIslandSetting _ _ _ => true
  | .governorDecision mw50us mw1ms inputMw inputMv inputMa t => 
    fits 32 mw50us && fits 32 mw1ms && fits 32 inputMw && fits 32 inputMv && fits 32 inputMa && fits 64 t
  | .step _ _ d t => d.wf && fits 64 t
  | .stepStart _ t => fits 64 t
  | .heldEntryResume _ e t => fits 10 e && fits 64 t
  | .stepBoundary _ t => fits 64 t
  | .quantiserGo _ _ _ t => fits 64 t
  | .quantiserDone _ t => fits 64 t
  | .attCall _ pkt call t => pkt.wf && call.wf && fits 64 t
  | .attCallService handle layer stepV t => fits 32 handle && fits 8 layer && fits 32 stepV && fits 64 t
  | .attAnswer handle layer stepV _ t => fits 32 handle && fits 8 layer && fits 32 stepV && fits 64 t
  | .attDeadline handle layer stepV t => fits 32 handle && fits 8 layer && fits 32 stepV && fits 64 t
  | .draftTree handle _ t => fits 32 handle && fits 64 t
  | .logits _ pkt msg t => pkt.wf && msg.wf && fits 64 t
  | .drfLogitsTimeout handle t => fits 32 handle && fits 64 t
  | .admitCmd _ _ tag body t => fits 32 tag && body.wf && fits 64 t
  | .reqUpdate _ _ tag handle mask blocks t => 
    fits 32 tag && fits 32 handle && fits 16 mask && blocks.all Block.wf && fits 64 t
  | .reserve _ _ tag handle lmax t => fits 32 tag && fits 32 handle && fits 32 lmax && fits 64 t
  | .release _ _ tag handle t => fits 32 tag && fits 32 handle && fits 64 t
  | .releaseFree slot t => fits 20 slot && fits 64 t
  | .cancel _ _ tag handle stepV t => fits 32 tag && fits 32 handle && fits 32 stepV && fits 64 t
  | .move _ _ tag rid dst _ alt t => fits 32 tag && fits 64 rid && fits 16 dst && fits 16 alt && fits 64 t
  | .rqsMove _ rid dst _ alt t => fits 64 rid && fits 16 dst && fits 16 alt && fits 64 t
  | .moveOffer slot t => fits 20 slot && fits 64 t
  | .offerWhole _ pkt h body hdr t => pkt.wf && h.wf && body.wf && hdr.wf && fits 64 t
  | .offerIncrement _ pkt h body t => pkt.wf && h.wf && body.wf && fits 64 t
  | .pull _ pkt h t => pkt.wf && h.wf && fits 64 t
  | .offerExpiry slot t => fits 20 slot && fits 64 t
  | .imageReadDone srcMod xid img wire t => fits 16 srcMod && fits 32 xid && img.wf && wire.wf && fits 64 t
  | .flushComplete id t => fits 64 id && fits 64 t
  | .placed _ pkt h tSent t => pkt.wf && h.wf && fits 64 tSent && fits 64 t
  | .homeRegisterMirror _ pkt rid handle homeMod homeSeq copyVer cstep tHome t => 
    pkt.wf && fits 64 rid && fits 32 handle && fits 16 homeMod && fits 32 homeSeq && fits 32 copyVer && fits 32 cstep && fits 64 tHome && fits 64 t
  | .homeUpdateAck rid t => fits 64 rid && fits 64 t
  | .placedResponse rid _ t => fits 64 rid && fits 64 t
  | .placedResendExpiry rid t => fits 64 rid && fits 64 t
  | .handoverRelease _ pkt h t => pkt.wf && h.wf && fits 64 t
  | .placeWaitExpiry slot t => fits 20 slot && fits 64 t
  | .moveStuck slot t => fits 20 slot && fits 64 t
  | .copyRefresh slot t => fits 20 slot && fits 64 t
  | .copyWrite _ pkt h version stripe _ unit _ t => 
    pkt.wf && h.wf && fits 32 version && fits 32 stripe && unit.length == 9216 && fits 64 t
  | .copyCommitSend slot t => fits 20 slot && fits 64 t
  | .copyCommit _ pkt h version cstep stripes t => 
    pkt.wf && h.wf && fits 32 version && fits 32 cstep && fits 32 stripes && fits 64 t
  | .rqsRebuild _ rid members _ t => fits 64 rid && members.length == 6 && allFit 16 members && fits 64 t
  | .rebuildReadDone rid homeSeq copyVer goodMembers read t =>
    fits 64 rid && fits 32 homeSeq && fits 32 copyVer && fits 6 goodMembers && read.img.all Image.wf && read.wire.wf && fits 64 t
  | .rqsRegroup _ rid members => fits 64 rid && members.length == 6 && allFit 16 members
  | .placeHbm _ _ cmd t => cmd.wf && fits 64 t
  | .placeHost _ _ cmd t => cmd.wf && fits 64 t
  | .flush _ _ cmd t => cmd.wf && fits 64 t
  | .placementDone id t => fits 64 id && fits 64 t
  | .translationWalkDone _ _ va t => fits 48 va && fits 64 t
  | .prefetch _ va t => fits 48 va && fits 64 t
  | .stallThreshold _ w t => fits 48 w.va && fits 64 w.wait && fits 64 w.ns && fits 64 t
  | .writebackComplete _ x => fits 20 x.sector && fits 48 x.va
  | .protectedRead place addr _ t => place.wf && fits 39 addr && fits 64 t
  | .hbmScrub _ data check place t => data.length == 8 && check.length == 8 && place.wf && fits 64 t
  | .brickScrub _ _ _ _ addr t => fits 32 addr && fits 64 t
  | .imageTableRead rid reader => fits 64 rid && fits 16 reader
  | .imageUnitRead rid reader units _ => fits 64 rid && fits 16 reader && fits 32 units.first && fits 32 units.count
  | .cmpVerify _ rid => fits 64 rid
  | .cmpVerifyDone rid damaged => fits 64 rid && damaged.all (fun d => fits 32 d.1)
  | .portEnable _ _ => true
  | .portDisable _ _ => true
  | .negotiationDone _ _ => true
  | .negotiationTimeout _ => true
  | .trainingDone _ _ _ => true
  | .trainingFail _ => true
  | .trainingWaitExpiry _ => true
  | .alignmentDone _ => true
  | .alignmentTimeout _ => true
  | .alignmentLoss _ t => fits 64 t
  | .predictiveTrigger _ symbols _ t => symbols.length = 9 && symbols.all (fits 32) && fits 64 t
  | .suddenTrigger _ _ t => fits 64 t
  | .mirrorReq _ _ _ _ seq => fits 16 seq
  | .remapSwitch _ => true
  | .switched _ _ _ seq => fits 16 seq
  | .goullorFrame _ f t => f.wf && fits 64 t
  | .xoffRepeat _ _ => true
  | .xon _ _ taken => fits 64 taken
  | .pfcFrame _ enable times t => fits 8 enable && times.length == 8 && allFit 16 times && fits 64 t
  | .pauseExpiry _ _ t => fits 64 t
  | .pfcStorm _ _ t => fits 64 t
  | .ptpSync x _ _ _ t => fits 8 x.domain && fits 64 t
  | .ptpFollowUp x _ t => fits 8 x.domain && fits 64 t
  | .ptpDelayReq _ t => fits 64 t
  | .ptpDelayResp x _ t => fits 8 x.domain && fits 64 t
  | .ptpAnnounce _ domain m => fits 8 domain && m.wf
  | .tbPpsInEdge _ _ t => fits 64 t
  | .tbSourceLoss _ t => fits 64 t
  | .tbHoldoverExpiry t => fits 64 t
  | .tbHoldoverS _ value t => fits 32 value && fits 64 t
  | .tbPpsOut t => fits 64 t
  | .send _ pkt t => pkt.wfOne && fits 64 t
  | .sendImm _ pkt t => pkt.wfOne && fits 64 t
  | .write _ pkt t => pkt.wfOne && fits 64 t
  | .writeImm _ pkt t => pkt.wfOne && fits 64 t
  | .readReq _ pkt t => pkt.wfOne && fits 64 t
  | .readResp _ pkt t => pkt.wfOne && fits 64 t
  | .ack _ pkt t => pkt.wfOne && fits 64 t
  | .nakSeq _ pkt t => pkt.wfOne && fits 64 t
  | .nakNotReady _ pkt t => pkt.wfOne && fits 64 t
  | .nakNoFlow _ pkt t => pkt.wfOne && fits 64 t
  | .nakStatus _ pkt t => pkt.wfOne && fits 64 t
  | .flushAck _ pkt t => pkt.wfOne && fits 64 t
  | .nrBackoffExpiry flow t => fits 14 flow && fits 64 t
  | .trnTimerExpiry flow t => fits 14 flow && fits 64 t
  | .flowFail flow t => fits 14 flow && fits 64 t
  | .flowIdleExpiry flow t => fits 14 flow && fits 64 t
  | .flowEntryWaitEnd t => fits 64 t
  | .receiverFlowExpiry srcMod flow t => fits 16 srcMod && fits 14 flow && fits 64 t
  | .contextFetchDone _ t => fits 64 t
  | .contextIdleMove _ t => fits 64 t
  | .queueDoorbell _ _ index t => fits 32 index && fits 64 t
  | .cqDoorbell _ _ index t => fits 32 index && fits 64 t
  | .wqeSend _ w t => w.wf && fits 64 t
  | .wqeSendImm _ w t => w.wf && fits 64 t
  | .wqeWrite _ w t => w.wf && fits 64 t
  | .wqeWriteImm _ w t => w.wf && fits 64 t
  | .wqeRead _ w t => w.wf && fits 64 t
  | .waitCq _ w t => w.wf && fits 64 t
  | .waitCqSatisfied _ t => fits 64 t
  | .nop _ w t => w.wf && fits 64 t
  | .qmodifyReady _ _ m t => m.wf && fits 64 t
  | .qmodifyReset _ _ m => m.wf
  | .qmodifyError _ _ m t => m.wf && fits 64 t
  | .register _ _ tag _ access keyId va length t => 
    fits 32 tag && fits 32 access && fits 16 keyId && fits 64 va && fits 64 length && fits 64 t
  | .revoke _ _ tag rkey t => fits 32 tag && fits 32 rkey && fits 64 t
  | .revokeDrained _ t => fits 64 t
  | .registrationFree _ t => fits 64 t
  | .rmfMapStage _ m => m.wf
  | .rmfMapCommit _ epoch => fits 16 epoch
  | .rmfMapDiscard _ => true
  | .epochPurge => true
  | .load _ _ _ cmd t => cmd.wf && fits 64 t
  | .store _ _ _ cmd t => cmd.wf && fits 64 t
  | .atomic _ _ _ cmd t => cmd.wf && fits 64 t
  | .put _ _ _ cmd t => cmd.wf && fits 64 t
  | .get _ _ _ cmd t => cmd.wf && fits 64 t
  | .rmLoad _ pkt region t => pkt.wfOne && fits 32 region && fits 64 t
  | .rmLoadResp _ pkt t => pkt.wfOne && fits 64 t
  | .rmStore _ pkt region t => pkt.wfOne && fits 32 region && fits 64 t
  | .fetchAdd _ pkt region t => pkt.wfOne && fits 32 region && fits 64 t
  | .swap _ pkt region t => pkt.wfOne && fits 32 region && fits 64 t
  | .cas _ pkt region t => pkt.wfOne && fits 32 region && fits 64 t
  | .fetchMaxu _ pkt region t => pkt.wfOne && fits 32 region && fits 64 t
  | .fetchMinu _ pkt region t => pkt.wfOne && fits 32 region && fits 64 t
  | .fetchOr _ pkt region t => pkt.wfOne && fits 32 region && fits 64 t
  | .fetchAnd _ pkt region t => pkt.wfOne && fits 32 region && fits 64 t
  | .rmAtomicResp _ pkt t => pkt.wfOne && fits 64 t
  | .rmPut _ pkt region t => pkt.wfOne && fits 32 region && fits 64 t
  | .rmGetReq _ pkt region t => pkt.wfOne && fits 32 region && fits 64 t
  | .rmGetResp _ pkt t => pkt.wfOne && fits 64 t
  | .rmfDeadSet _ m t => fits 16 m && fits 64 t
  | .rmfDeadClear _ m => fits 16 m
  | .collAbort _ pkt a t => pkt.wf && a.wf && fits 64 t
  | .collAbortUnreachable gid stepV member t => fits 16 gid && fits 32 stepV && fits 16 member && fits 64 t
  | .orderInsert domain entity cost => fits 5 domain && fits 20 entity && fits 32 cost
  | .slackMove blk => fits 7 blk
  | .domainRebase domain => fits 5 domain
  | .portBurstPop _ t => fits 64 t
  | .shaperRefill t => fits 64 t
  | .palImageApply _ t => fits 64 t
  | .palletSaveDone _ t => fits 64 t
  | .palletLoadDone _ _ t => fits 64 t
  | .geometryApply t => fits 64 t
  | .commitGroupApply id t => fits 64 id && fits 64 t
  | .brkCommit _ value t => fits 64 value && fits 64 t
  | .brkStageDiscard _ value => fits 64 value
  | .objectWrite _ a data t => a.wf && data.length ≤ 65536 && fits 64 t
  | .secSlotAssign _ _ gen lds => fits 6 gen && fits 16 lds
  | .secAttestReq _ slot nonce t => fits 10 slot && fits 256 nonce && fits 64 t
  | .attestReportSigned sig t => sig.length == 29792 && fits 64 t
  | .ekExpiry _ t => fits 64 t
  | .secKeyRelease _ magic version _ gen digest t => 
    fits 32 magic && fits 16 version && fits 6 gen && fits 512 digest && fits 64 t
  | .keyInstallDone _ _ bundle t => bundle.keys.wf && bundle.policy.wf && fits 64 t
  | .keyDistributionDone _ t => fits 64 t
  | .secRetire _ _ t => fits 64 t
  | .drainComplete _ t => fits 64 t
  | .drainForced _ t => fits 64 t
  | .zeroise _ t => fits 64 t
  | .secImageInstall _ _ src dst tag t => fits 64 src && fits 64 dst && fits 32 tag && fits 64 t
  | .imageInstallDone _ chk m _ t => chk.wf && m.wf && fits 64 t
  | .hello _ _ t => fits 64 t
  | .challenge session t => fits 32 session && fits 64 t
  | .challengeExpiry session t => fits 32 session && fits 64 t
  | .auth _ session _ t => fits 32 session && fits 64 t
  | .close session => fits 32 session
  | .sessionIdleExpiry session t => fits 32 session && fits 64 t
  | .reassemblyExpiry session msg t => fits 32 session && fits 32 msg && fits 64 t
  | .vdpRead _ session reqId a offset length t => 
    fits 32 session && fits 32 reqId && a.wf && fits 32 offset && fits 32 length && fits 64 t
  | .vdpWrite _ session reqId a offset data t => 
    fits 32 session && fits 32 reqId && a.wf && fits 32 offset && data.length ≤ 65512 && fits 64 t
  | .readShadow _ session reqId a offset length t => 
    fits 32 session && fits 32 reqId && a.wf && fits 32 offset && fits 32 length && fits 64 t
  | .keepalive _ session reqId t => fits 32 session && fits 32 reqId && fits 64 t
  | .telemetrySample _ t => fits 64 t
  | .errFaultClear _ value => fits 32 value
  | .dictRead _ a offset length t => a.wf && fits 32 offset && fits 32 length && fits 64 t
  | .dictWrite _ a offset data t => a.wf && fits 32 offset && data.length ≤ 65520 && fits 64 t
  | .identify _ => true
  | .getEventRecords _ _ => true
  | .clearEventRecords _ _ _ handles => handles.length ≤ 255 && allFit 16 handles
  | .getEventInterruptPolicy _ => true
  | .setEventInterruptPolicy _ policy => policy.length == 4
  | .getFwInfo _ => true
  | .getTimestamp _ t => fits 64 t
  | .getSupportedLogs _ => true
  | .getLog _ log offset length => fits 128 log && fits 32 offset && fits 32 length
  | .identifyMemoryDevice _ => true
  | .getPartitionInfo _ => true
  | .getHealthInfo _ => true
  | .transferFw _ => true
  | .activateFw _ => true
  | .setTimestamp _ => true
  | .getPoisonList _ => true
  | .injectPoison _ => true
  | .clearPoison _ => true
  | .setLdAllocations _ mib => mib.length ≤ 16 && allFit 64 mib
  | .getLdInfo => true
  | .getLdAllocations _ count => fits 32 count
  | .qosTelemetry _ set => set.all (allFit 8)
  | .hdmDecoderCommit _ iw ig => fits 4 iw && fits 8 ig
  | .cxlMemRead _ addr _ _ t => fits 64 addr && fits 64 t
  | .cxlMemWrite _ addr line => fits 64 addr && line.length == 64
  | .ringEnable _ _ => true
  | .ringDisable _ _ => true
  | .ringTailDoorbell _ _ value t => fits 32 value && fits 64 t
  | .ringHeadDoorbell _ _ value t => fits 32 value && fits 64 t
  | .seqReread _ _ t => fits 64 t
  | .seqWaitExpiry _ _ t => fits 64 t
  | .msixCoalesceExpiry _ _ t => fits 64 t
  | .ldStatusClear _ _ => true
  | .hstFmDoorbell _ inst value t => fits 32 inst && fits 32 value && fits 64 t
  | .hostDmaDone id _ t => fits 64 id && fits 64 t
  | .dmaTimeout id t => fits 64 id && fits 64 t
  | .ldReset _ t => fits 64 t
  | .cxlPerstN t => fits 64 t
  | .cxlLinkTrained width speedGts t => fits 8 width && fits 8 speedGts && fits 64 t
  | .pcSample _ _ t => fits 64 t
  | .counterIntervalRecord _ t => fits 64 t
  | .traceArm _ _ t => fits 64 t
  | .traceTimeTrigger t => fits 64 t
  | .traceTrigger src _ t => fits 4 src && fits 64 t
  | .traceFreeze => true
  | .traceFinalRead _ offset length => fits 32 offset && fits 32 length
  | .obsMuxSel _ sel => sel.length == 8 && allFit 8 sel
  | .inputExcursion mv t => fits 32 mv && fits 64 t
  | .brownOut t => fits 64 t
  | .overVoltage t => fits 64 t
  | .powerRestart t => fits 64 t
  | .refclkLoss t => fits 64 t
  | .resetN lowNs t => fits 64 lowNs && fits 64 t
  | .bulkCharged t => fits 64 t
  | .modPwrgd t => fits 64 t
  | .internalResetRelease _ t => fits 64 t
  | .pufIdentity copy0 copy1 serial => copy0.all (fits 512) && copy1.all (fits 512) && fits 128 serial
  | .kilnFwVerified a b => a.wf && b.wf
  | .configVerified a b vf => a.wf && b.wf && vf.length ≤ 85 && allFit 16 vf
  | .hbmTrained t => fits 64 t
  | .marchTest _ _ t => fits 64 t
  | .codecSelftest _ _ t => fits 64 t
  | .runtimeFwRunning a b t => a.wf && b.wf && fits 64 t
  | .mailboxesOpen t => fits 64 t
  | .extest _ => true
  | .idcode => true
  | .samplePreload _ => true
  | .bypass => true
  | .powerOn mv t => fits 32 mv && fits 64 t
  | .configurationRequest _ op _ _ t => op.wf && fits 64 t
  | .conventionalReset t => fits 64 t
  | .managementPortLink _ _ t => fits 64 t
  | .vdpFrame _ session typ magic version msgLen fragOff fragLen seqNo _ _ msg t => 
    fits 32 session && fits 8 typ && fits 32 magic && fits 8 version && fits 32 msgLen && fits 32 fragOff && fits 16 fragLen && fits 64 seqNo && fits 32 msg && fits 64 t
  | .tbSourceSwitch _ t => fits 64 t
  | .msixVectorUnmask _ vector => fits 12 vector
  | .ringConfigurationWrite _ _ _ value => fits 32 value

end Sys2Proof
end

