-- ==== Sys2Proof/Safety.lean ====
section
/-! DEFINITION. The terms claims use: the parts of a state and what leaves a part unchanged, a command that runs, the state of a
micro-core that may run an instruction, and the invariants of a run. -/

namespace Sys2Proof.Machine

/-! ## Parts of a state and frames -/

/-- The parts of a state, one for each of its fields. -/
inductive Part where
  | pending | now | free | ids | out | dict | events | boot | kiln | keys | vdp | host | array | pallets | req | mem | ports
  | tb | trn | rmf | asc | obs
  deriving DecidableEq, Repr

/-- A part is the same in two states. -/
def Part.Same (s u : State) : Part → Prop
  | .pending => u.pending = s.pending
  | .now => u.now = s.now
  | .free => u.free = s.free
  | .ids => u.ids = s.ids
  | .out => u.out = s.out
  | .dict => u.dict = s.dict
  | .events => u.events = s.events
  | .boot => u.boot = s.boot
  | .kiln => u.kiln = s.kiln
  | .keys => u.keys = s.keys
  | .vdp => u.vdp = s.vdp
  | .host => u.host = s.host
  | .array => u.array = s.array
  | .pallets => u.pallets = s.pallets
  | .req => u.req = s.req
  | .mem => u.mem = s.mem
  | .ports => u.ports = s.ports
  | .tb => u.tb = s.tb
  | .trn => u.trn = s.trn
  | .rmf => u.rmf = s.rmf
  | .asc => u.asc = s.asc
  | .obs => u.obs = s.obs

/-- Every part outside a list is the same. -/
def OnlyParts (l : List Part) (s u : State) : Prop := ∀ p : Part, p ∉ l → Part.Same s u p

/-- A command runs: it answers a next state, which the property holds of. -/
def Runs (i : Instr) (s : State) (post : State → Prop) : Prop := ∃ u, exec i s = .next u ∧ post u

/-- Of the brick array, only brick `b` has changed. -/
def OnlyBrick (b : Nat) (s u : State) : Prop :=
  { u.array with bricks := [] } = { s.array with bricks := [] } ∧ ∀ b', b' ≠ b → u.brick b' = s.brick b'

/-- Of brick `b`, only micro-core `c` has changed. -/
def OnlyCore (b c : Nat) (s u : State) : Prop :=
  OnlyBrick b s u ∧ { u.brick b with cores := [] } = { s.brick b with cores := [] }
    ∧ ∀ c', c' ≠ c → u.core b c' = s.core b c'

/-- Of the observation unit, only the totals of events have changed. -/
def OnlyTally (s u : State) : Prop := { u.obs with tally := [] } = { s.obs with tally := [] }

/-- Every object has its value but one. -/
def OnlyObject (oid inst : Nat) (s u : State) : Prop :=
  { u.dict with vals := [] } = { s.dict with vals := [] }
    ∧ ∀ o i, objKey o i ≠ objKey oid inst → u.obj o i = s.obj o i

/-- Every port is the same but one. -/
def OnlyPort (i : Nat) (s u : State) : Prop := ∀ j, j ≠ i → u.port j = s.port j

/-- Every pallet is the same but one. -/
def OnlyPallet (p : Nat) (s u : State) : Prop := ∀ q, q ≠ p → u.pallet q = s.pallet q

/-- An event of a code has been raised: it is the newest of the log, under the next number, at the present instant. -/
def Raised (code : Nat) (s u : State) : Prop :=
  ∃ e, u.events.head? = some e ∧ e.code = code ∧ e.seq = s.obj Obj.ERR_EVENT_SEQ 0 + 1 ∧ e.time = s.now

/-- A counter object has counted one more. -/
def Counted (oid inst : Nat) (s u : State) : Prop := u.obj oid inst = s.obj oid inst + 1

/-- A remap message leaves a port (R214, R215): as a spare word, as a LINK_CONTROL frame where the spare that the port sends on
carries data, or, where the partner pauses class 7, once the pause ends. -/
def SpareSent (s : State) (i w : Nat) (u : State) : Prop :=
  if (s.port i).txSpareUsed = false then u.out = .spare i w :: s.out ∧ (u.port i).heldWords = (s.port i).heldWords
  else if s.paused i 7 = true then u.out = s.out ∧ (u.port i).heldWords = (s.port i).heldWords ++ [w]
  else u.out = .frame i (frameBytes (s.obj Obj.LNK_MAC i) 7 1 s.now (toBytes 8 w)) :: s.out
    ∧ (u.port i).heldWords = (s.port i).heldWords

/-! ## Transport -/

/-- A packet of an opcode that the receiver accepts into sequence (R239, R241, R246, R277): its port is up, it is addressed to
this module, its key is installed, its trailer passes, it is young enough, its flow's entry `r` has its incarnation and
expects its PSN, its epoch is held, and its sender is not declared dead, so that it is answered. -/
structure Arrives (s : State) (port op : Nat) (p : Pkt) (r : RxFlow) : Prop where
  up : (s.port port).isUp = true
  here : p.dstMod = s.moduleNum
  numbered : s.moduleNum ≠ 0xFFFF
  key : p.keyId = 0 ∨ s.keyInstalled p.keyId = true
  icv : s.icvOk op (s.rxExt p) p = true
  young : s.age p + s.delta ≤ 500000
  alive : s.dead p.srcMod = false
  entry : NMap.get? s.trn.rx (rxKey p.srcMod p.flow) = some r
  incarnation : r.flowT = p.flowT
  next : p.psn = r.expected
  small : r.expected < 2 ^ 24
  epoch : (s.epochSlot p.epoch).isSome = true
  fresh : s.retiredWork op p = false

/-- A message of `n` packets has been accepted: its flow expects the PSN after it, and an ACK with that PSN has left on the port
it came by. -/
def AckedN (n : Nat) (s u : State) (port : Nat) (p : Pkt) (r : RxFlow) : Prop :=
  let next := (r.expected + n) % 2 ^ 24
  NMap.get? u.trn.rx (rxKey p.srcMod p.flow) = some { r.advance n with m := max r.m p.birth }
    ∧ (∃ a fr, Out.pkt port 7 a fr ∈ u.out ∧ a.ackPsn = r.hold.getD next ∧ a.dstMod = p.srcMod ∧ a.flow = p.flow)
    ∧ u.obj Obj.TRN_PKTS_RX 0 = s.obj Obj.TRN_PKTS_RX 0 + n

/-- A single packet has been accepted. -/
def Acked (s u : State) (port : Nat) (p : Pkt) (r : RxFlow) : Prop := AckedN 1 s u port p r

/-- Packets of a message of `len` bytes. -/
def packetsOf (len : Nat) : Nat := max 1 (ceilDiv len 4096)

/-- The packet has been refused with a status: the last thing to leave is a NAK with it on the port it came by. -/
def Refused (st : Status) (u : State) (port : Nat) : Prop :=
  ∃ a fr, u.out.head? = some (.pkt port (8 + 256 * 3) a fr) ∧ a.status = st

/-- An answer packet of an opcode reaches the flow it names: it passes the receiver's checks, and the flow `f` has its incarnation. -/
structure Answers (s : State) (port op : Nat) (p : Pkt) (f : Flow) : Prop where
  up : (s.port port).isUp = true
  here : p.dstMod = s.moduleNum
  numbered : s.moduleNum ≠ 0xFFFF
  key : p.keyId = 0 ∨ s.keyInstalled p.keyId = true
  icv : s.icvOk op (s.rxExt p) p = true
  young : s.age p + s.delta ≤ 500000
  flow : s.flow? p.flow = some f
  incarnation : f.flowT = p.flowT
  src : f.dst = p.srcMod

/-- The flow after its unacknowledged packets have been sent again in order, their headers and data as they were (R352). -/
def Flow.resent (f : Flow) (now : Nat) : Flow :=
  { f with
    lastSent := now,
    unacked := f.unacked.map (fun (h : Held) => { h with sent := h.sent + 1 }) }

/-- A rack packet names a region of this module that its sender may use (R273, R280): the region is recorded under the
packet's epoch with this module as HOME, its registration permits the use, its pages are mapped, and a writing packet comes
from a permitted writer while no older epoch names another. -/
structure RackHere (s : State) (region op len : Nat) (p : Pkt) (g : MapRecord) : Prop where
  record : s.record? p.epoch 2 region = some g
  home : g.home = s.moduleNum
  permitted : regCheck s g.rkey p.keyId (g.base + p.addr) len (rackUse op) = none
  mapped : s.vMapped (s.reg (bitsOf g.rkey 0 16)).pallet (g.base + p.addr) len = true
  hosts : s.vHostLds (s.reg (bitsOf g.rkey 0 16)).pallet (g.base + p.addr) len = []
  writable : rackUse op ≠ .read → s.vWritable (s.reg (bitsOf g.rkey 0 16)).pallet (g.base + p.addr) len = true
  writer : rackUse op ≠ .read → g.writer = 0xFFFF ∨ p.srcMod = g.writer
  settled : rackUse op ≠ .read → olderWriter s p.epoch g = false

/-- A message to module `dst` in a class joins the packets of flow `k`, which is `f`: the module is alive and has a record
under the epoch, the flow is the one of the destination and class, no message waits for that flow to open, and it waits out a
backoff, so that nothing leaves yet. -/
structure SendsOn (s : State) (dst cls epoch k : Nat) (f : Flow) : Prop where
  alive : s.dead dst = false
  route : (s.portsOf epoch dst).isSome = true
  open' : s.flowFor dst cls = some k
  flow : s.flow? k = some f
  first : s.flowAwaited dst cls 0 = false
  held : f.backoffTill.isSome = true

/-- The opcodes of work queue entries of an SQ that the table of R255 lists. -/
def ListedOp (op : Nat) : Prop := (1 ≤ op ∧ op ≤ 5) ∨ op = 0x20 ∨ op = 0x21

/-- No entry with a reserved OP stands at place `head` of a queue's ring: none has been posted there, or its OP is listed. -/
def HeadListed (s : State) (q head : Nat) : Prop :=
  let v := s.queue q
  head = v.tail ∨ ListedOp (s.winNat v.ld (v.ring + head % v.size * 64) 1)

/-- The flow with new packets queued. -/
def Flow.with' (f : Flow) (new : List Held) (now : Nat) : Flow := { f with queued := f.queued ++ new, lastBusy := now }

/-! ## Objects -/

/-- A command of the privileged view is served (R333): the mailboxes are open, and the access is privileged. -/
def Served (s : State) (via : Via) : Prop := s.running = true ∧ s.isPriv via = true

/-- The last thing to leave is the answer of an access, with a status and no data. -/
def Replied (via : Via) (st : Status) (u : State) : Prop := u.out.head? = some (.answer via 0 st 0 [])

/-! ## Micro-cores -/

/-- Micro-core `c` of brick `b` may run an instruction of `n` bytes: its pallet `p` is READY or RUNNING, its island's clock
runs, no wait is in progress, and the instruction lies in the brick store (R21, R51). -/
structure CoreRuns (s : State) (b c n p : Nat) : Prop where
  pallet : s.palletOf b = some p
  live : (s.pallet p).live = true
  clock : s.array.stopped.contains b = false
  free : (s.core b c).waiting = none
  fetch : (s.core b c).pc.toNat + n ≤ 0x200000

/-- A micro-core after an instruction of `n` bytes that gives it the registers of `k`. -/
def Core.after (k : Core) (n : Nat) : Core := { k with pc := k.pc + BitVec.ofNat 32 n, started := true }

/-- What an instruction does whose whole effect is on its micro-core: it becomes `k`, and nothing else changes but the count of
instructions. -/
def CoreDid (s : State) (b c : Nat) (k : Core) (u : State) : Prop :=
  u.core b c = k ∧ OnlyCore b c s u ∧ OnlyTally s u ∧ OnlyParts [.array, .obs] s u

/-- The condition of a waiting instruction holds (R51, R53). A request, response or control credit is seen at an instant of its
own, so that no condition on the state decides a wait for one (log entry 111). -/
def WaitHolds (s : State) (b c : Nat) : Waiting → Prop
  | .take _ _ => (s.brick b).tokens ≠ []
  | .put _ _ _ => credits s b 2 ≠ 0
  | .cwait _ k n => k ≠ 0 ∧ k ≠ 1 ∧ k ≠ 3 ∧ n ≤ credits s b k
  | .await _ i n => n ≤ (s.counter (b * 64 + i)).count
  | .bwait tag => ∀ m ∈ (s.core b c).bulk, m.tag ≠ tag
  | .bmove _ _ _ _ => ∃ tag, tag < 16 ∧ ∀ m ∈ (s.core b c).bulk, m.tag ≠ tag

/-- The wait is for a credit whose value is seen as it is observed. -/
def WaitSeen : Waiting → Prop
  | .cwait _ k _ => k = 0 ∨ k = 1 ∨ k = 3
  | _ => False

/-! ## Invariants -/

/-- The memories keep their canonical form: keys strictly rising, no entry equal to what an unlisted byte reads as. -/
def State.memWf (s : State) : Prop :=
  NMap.wf 0 s.mem.hbm = true ∧ NMap.wf 0 s.host.window = true ∧ NMap.wf 0 s.host.hostMem = true

/-- What every command keeps: the memories' canonical form, and the log of at most 128 events (R412). -/
def State.Inv (s : State) : Prop := s.memWf ∧ s.events.length ≤ 128

end Sys2Proof.Machine
end

