-- ==== Sys2Proof/Certificates/Slice0/Obligations.lean ====
section
/-! DEFINITION. The statements for the provers. Each command of the table is named by at least one statement whose conclusion is
that `exec` answers the next state of the command's own effect. A statement about a free value holds for every value of it. -/

open Sys2Proof Sys2Proof.Machine

/-- A step executes the command at the front of the queue with the rest of the queue. For every command c, every rest of
the queue and every state, a step of the state with c at the front of its queue is exec of c on the state with the rest;
on an empty queue the block idles (the model's choice, log entry 1). -/
def Obligations.StepRunsFrontCommand : Prop :=
  (∀ (c : Instr) (rest : List Instr) (s : State), s.pending = c :: rest → step s = exec c { s with pending := rest })
    ∧ ∀ s : State, s.pending = [] → step s = .next s

/-- The state after reset: objects at their defaults, nothing stored, no tenant, no session, ports DISABLED. After reset
every dictionary object of the module has its default, no write is pending in a shadow, the event log is empty, no key
slot is held and no debug gate is closed by a tenant, no session is open, every port is DISABLED, every pallet is EMPTY,
every arrival counter is IDLE, every micro-core register reads 0, HBM reads as zero, the commit counter is 1 and the
queue of commands is empty. (What no rule gives a reset value is the model's choice, log entry 2.) -/
def Obligations.ResetLeaves : Prop :=
  let s := State.reset
  s.pending = [] ∧ (∀ oid inst, s.obj oid inst = objDefault oid) ∧ s.dict.shadow = [] ∧ s.dict.commitNext = 1 ∧ s.events = []
    ∧ (∀ k, (s.kslot k).state = .empty) ∧ (∀ g, s.gate g = true) ∧ s.vdp.sessions = []
    ∧ (∀ p, (s.port p).state = .disabled) ∧ (∀ p, (s.pallet p).state = .empty) ∧ (∀ k, (s.counter k).state = .idle)
    ∧ (∀ b c r, (s.core b c).getX r = 0 ∧ (s.core b c).getF r = 0 ∧ (s.core b c).getV r = 0)
    ∧ ∀ a, NMap.get 0 s.mem.hbm a = 0

/-- RV32 integer instructions: OP, OP-IMM, LUI, AUIPC and JAL write rd and the pc, and nothing else. On a micro-core
that may run (its pallet READY or RUNNING, its clock running, no wait), the register-register and register-immediate
instructions, LUI and AUIPC give rd the value RV32 gives it and move the pc by 4; JAL gives rd the address of the next
instruction and moves the pc by its offset. x0 keeps reading 0. No other register, no other micro-core, no byte of the
brick store and no other part of the state changes, but for the count of instructions. The word is written from its
fields. -/
def Obligations.IntegerInstructions : Prop :=
  ∀ (s : State) (b : BrickNo) (c : CoreNo) (p t : Nat), CoreRuns (s.at t) b c 4 p →
    let s' := s.at t
    let k := s'.core b c
    let link : Word := k.pc + 4
    let w := fun (n : Nat) => BitVec.ofNat 32 n
    (∀ (rd r1 r2 : RegNo) (f3 : Fin 8),
      Runs (.baseInstruction b c (w (0x33 + rd * 2 ^ 7 + f3 * 2 ^ 12 + r1 * 2 ^ 15 + r2 * 2 ^ 20)) t) s
        (CoreDid s' b c ((k.setX rd (alu f3 false (k.getX r1) (k.getX r2))).after 4)))
    ∧ (∀ (rd r1 : RegNo) (f3 : Fin 8) (imm : BitVec 12), f3.val ≠ 1 → f3.val ≠ 5 →
      Runs (.baseInstruction b c (w (0x13 + rd * 2 ^ 7 + f3 * 2 ^ 12 + r1 * 2 ^ 15 + imm.toNat * 2 ^ 20)) t) s
        (CoreDid s' b c ((k.setX rd (alu f3 false (k.getX r1) (imm.signExtend 32))).after 4)))
    ∧ (∀ (rd : RegNo) (imm : BitVec 20),
      Runs (.baseInstruction b c (w (0x37 + rd * 2 ^ 7 + imm.toNat * 2 ^ 12)) t) s
        (CoreDid s' b c ((k.setX rd (w (imm.toNat * 2 ^ 12))).after 4))
      ∧ Runs (.baseInstruction b c (w (0x17 + rd * 2 ^ 7 + imm.toNat * 2 ^ 12)) t) s
        (CoreDid s' b c ((k.setX rd (k.pc + w (imm.toNat * 2 ^ 12))).after 4))
      ∧ Runs (.baseInstruction b c (w (0x6F + rd * 2 ^ 7 + imm.toNat * 2 ^ 12)) t) s
        (CoreDid s' b c { k.setX rd link with
          pc := k.pc + (immJ (imm.toNat * 2 ^ 12)), started := true }))
    ∧ ∀ v : Word, (k.setX 0 v).getX 0 = 0

/-- LW and SW of an aligned word of the brick store: the value read, the bytes stored, every other byte as before. On a
micro-core that may run, LW of an address that is a multiple of 4 within the brick store gives rd the four bytes there,
least significant first, and changes nothing else. SW stores the four bytes of rs2 at rs1 plus the offset: every other
byte of the brick store reads as before, and no register changes but the pc. -/
def Obligations.LoadStoreWord : Prop :=
  ∀ (s : State) (b : BrickNo) (c : CoreNo) (p t : Nat), CoreRuns (s.at t) b c 4 p →
    let s' := s.at t
    let k := s'.core b c
    (∀ (rd r1 : RegNo) (imm : BitVec 12),
      let a := (k.getX r1 + imm.signExtend 32).toNat
      a % 4 = 0 → a + 4 ≤ 0x200000 →
      Runs (.baseInstruction b c (BitVec.ofNat 32 (0x03 + rd * 2 ^ 7 + 2 * 2 ^ 12 + r1 * 2 ^ 15 + imm.toNat * 2 ^ 20)) t) s
        (CoreDid s' b c ((k.setX rd (BitVec.ofNat 32 (memNat (s'.brick b).store a 4))).after 4)))
    ∧ ∀ (r1 r2 : RegNo) (imm : BitVec 12),
      let a := (k.getX r1 + imm.signExtend 32).toNat
      a % 4 = 0 → a + 4 ≤ 0x200000 →
      Runs (.baseInstruction b c (BitVec.ofNat 32 (0x23 + imm.toNat % 32 * 2 ^ 7 + 2 * 2 ^ 12 + r1 * 2 ^ 15 + r2 * 2 ^ 20
          + imm.toNat / 32 * 2 ^ 25)) t) s
        (fun u => u.core b c = k.after 4
          ∧ memRead (u.brick b).store a 4 = toBytes 4 (k.getX r2).toNat
          ∧ (∀ x, x < a ∨ a + 4 ≤ x → NMap.get 0 (u.brick b).store x = NMap.get 0 (s'.brick b).store x)
          ∧ (u.brick b).acc = (s'.brick b).acc ∧ (u.brick b).tokens = (s'.brick b).tokens
          ∧ OnlyBrick b s' u ∧ (∀ c', c' ≠ c.val → u.core b c' = s'.core b c') ∧ OnlyTally s' u
          ∧ OnlyParts [.array, .obs] s' u)

/-- The vector instructions of the JX extension, VLD, VST, TBRLO and TBRHI: each result, and the frame. On a micro-core
that may run, each lane of vd takes the sum, the product, the fused vd + vs1 × vs2, the larger or the smaller of the
lanes of vs1 and vs2, in the lane format, rounded to nearest even; VRSUM gives fd the four lanes widened to FP32 and
added in order; VBCAST gives every lane of vd the narrowed fs1. No other register changes, and nothing else but the pc
and the count of instructions. VLD of an 8-byte-aligned brick-store address gives vd the eight bytes there; VST stores
the eight bytes of vs2, and every other byte of the store reads as before. TBRLO gives rd the low word of a value within
2 ns of the block's instant and latches its high word; TBRHI gives rd the latched word. Which value within 2 ns is read
is a free value, and the statement holds for each. -/
def Obligations.VectorInstructions : Prop :=
  (∀ (s : State) (b : BrickNo) (c : CoreNo) (p : Nat) (f : LaneFmt) (vd v1 v2 : VRegNo) (r : RegNo), CoreRuns s b c 4 p →
      let k := s.core b c
      let m := LaneFmt.ffmt f
      let lanes := fun (op : Nat → Nat → Nat → Nat) =>
        CoreDid s b c ((k.setV vd (lanesOf (fun i => op (lane (k.getV vd) i) (lane (k.getV v1) i) (lane (k.getV v2) i)))).after 4)
      let x := fun i => widen m (lane (k.getV v1) i)
      Runs (.jxVadd b c f vd v1 v2) s (lanes (fun _ x y => (fadd m 0 x y).1))
      ∧ Runs (.jxVmul b c f vd v1 v2) s (lanes (fun _ x y => (fmul m 0 x y).1))
      ∧ Runs (.jxVfma b c f vd v1 v2) s (lanes (fun d x y => (ffma m 0 x y d).1))
      ∧ Runs (.jxVmax b c f vd v1 v2) s (lanes (fun _ x y => (fmax m x y).1))
      ∧ Runs (.jxVmin b c f vd v1 v2) s (lanes (fun _ x y => (fmin m x y).1))
      ∧ Runs (.jxVrsum b c f r v1) s
          (CoreDid s b c ((k.setF r (BitVec.ofNat 32 (f32add (f32add (f32add (x 0) (x 1)) (x 2)) (x 3)))).after 4))
      ∧ Runs (.jxVbcast b c f vd r) s (CoreDid s b c ((k.setV vd (lanesOf (fun _ => narrow m (k.getF r).toNat))).after 4)))
  ∧ (∀ (s : State) (b : BrickNo) (c : CoreNo) (p t : Nat) (vd : VRegNo) (rd r1 : RegNo) (imm : BitVec 12),
      let s' := s.at t
      let k := s'.core b c
      let a := (k.getX r1 + imm.signExtend 32).toNat
      (CoreRuns s' b c 4 p → a % 8 = 0 → a + 8 ≤ 0x200000 →
        Runs (.jxVld b c vd r1 imm t) s
          (CoreDid s' b c ((k.setV vd (BitVec.ofNat 64 (memNat (s'.brick b).store a 8))).after 4))
        ∧ Runs (.jxVst b c vd r1 imm t) s (fun u => u.core b c = k.after 4
          ∧ memRead (u.brick b).store a 8 = toBytes 8 (k.getV vd).toNat
          ∧ (∀ x, x < a ∨ a + 8 ≤ x → NMap.get 0 (u.brick b).store x = NMap.get 0 (s'.brick b).store x)
          ∧ OnlyBrick b s' u ∧ OnlyTally s' u ∧ OnlyParts [.array, .obs] s' u))
      ∧ (CoreRuns s' b c 4 p → 2 ≤ s'.now →
        Runs (.jxTbrlo b c rd t) s (fun u => ∃ v, s'.now - 2 ≤ v ∧ v ≤ s'.now + 2
          ∧ u.core b c = Core.after { k.setX rd (BitVec.ofNat 32 v) with tbHi := BitVec.ofNat 32 (v / 2 ^ 32) } 4
          ∧ OnlyCore b c s' u ∧ OnlyTally s' u ∧ OnlyParts [.array, .obs, .free] s' u))
      ∧ (CoreRuns s b c 4 p →
        Runs (.jxTbrhi b c rd) s (CoreDid s b c (((s.core b c).setX rd (s.core b c).tbHi).after 4))))

/-- JX.TAKE and JX.TAKENB take the oldest token of the queue; JX.TAKE waits and JX.TAKENB answers 0 on an empty queue.
With a token in the brick's queue and a 64-byte-aligned line of the brick store in rs1, both instructions write the
token's flit at the line, take it off the queue, give rd its KIND, ENGINES and PASSES, and take its step tag into
jxstep. On an empty queue JX.TAKE waits with the pc on it, and JX.TAKENB gives rd 0 and goes on. Every byte outside the
line reads as before. -/
def Obligations.TokensTaken : Prop :=
  ∀ (s : State) (b : BrickNo) (c : CoreNo) (p t : Nat) (rd r1 : RegNo), CoreRuns (s.at t) b c 4 p →
    let s' := s.at t
    let k := s'.core b c
    let a := (k.getX r1).toNat
    lineAddr a = true →
    (∀ (tok : Token) (rest : List Token), (s'.brick b).tokens = tok :: rest →
      let took := fun (u : State) =>
        u.core b c = Core.after { k.setX rd (BitVec.ofNat 32 (tok.kind + tok.engines * 256 + tok.passes * 65536)) with
          jxstep := BitVec.ofNat 16 tok.tag, kind := tok.kind } 4
        ∧ (u.brick b).tokens = rest ∧ memRead (u.brick b).store a 64 = tokenFlit b p tok
        ∧ (∀ x, x < a ∨ a + 64 ≤ x → NMap.get 0 (u.brick b).store x = NMap.get 0 (s'.brick b).store x)
        ∧ OnlyBrick b s' u ∧ (∀ c', c' ≠ c.val → u.core b c' = s'.core b c') ∧ OnlyTally s' u
        ∧ OnlyParts [.array, .obs] s' u
      Runs (.jxTake b c rd r1 t) s took ∧ Runs (.jxTakenb b c rd r1 t) s took)
    ∧ ((s'.brick b).tokens = [] →
      Runs (.jxTake b c rd r1 t) s
        (CoreDid s' b c { k with waiting := some (.take rd a), started := true })
      ∧ Runs (.jxTakenb b c rd r1 t) s (CoreDid s' b c ((k.setX rd 0).after 4)))

/-- JX.PUT, JX.CWAIT, JX.AWAIT, JX.BWAIT, JX.BMOVE and JX.ARRIVE where their condition holds. On a micro-core that may
run: JX.PUT with a token credit, a 64-byte-aligned line and an all-ones target sends the line's token, PASSES 0, to the
next brick on the claim ring and gives rd 0 (a token of KIND 0 is not sent); JX.CWAIT gives rd the credit counter once
it has reached the immediate, and of a request, response or control credit some value of 0 to 8 (a free value, log entry
111); JX.AWAIT gives rd an arrival counter's count once it has reached rs2; JX.BWAIT goes on where no bulk move has the
tag; JX.BMOVE starts a bulk move under the lowest free tag and gives rd the tag; JX.ARRIVE with nothing outstanding
sends its ARRIVE at once. -/
def Obligations.TokenPutAndWaits : Prop :=
  ∀ (s : State) (b : BrickNo) (c : CoreNo) (p t : Nat) (rd r1 r2 r3 : RegNo) (imm : BitVec 12), CoreRuns (s.at t) b c 4 p →
    let s' := s.at t
    let k := s'.core b c
    let a := (k.getX r1).toNat
    let v := (k.getX r2).toNat
    (lineAddr a = true → v = 0xFFFFFFFF → credits s' b 2 ≠ 0 →
      let tok := tokenOf ((s'.brick b).bytes (a + 8) 56) k.jxstep.toNat
      Runs (.jxPut b c rd r1 r2 t) s (fun u => u.core b c = (k.setX rd 0).after 4
        ∧ (tok.kind ≠ 0 → u.array.flying = s'.array.flying ++ [((s'.rect p).next b, { tok with src := b })]
          ∧ u.out = .token ((s'.rect p).next b) { tok with src := b } :: s'.out)
        ∧ (tok.kind = 0 → u.array.flying = s'.array.flying ∧ u.out = s'.out)
        ∧ (u.brick b).store = (s'.brick b).store ∧ OnlyParts [.array, .out, .obs] s' u))
    ∧ (a < 12 → a ≠ 0 → a ≠ 1 → a ≠ 3 → imm.toNat ≤ credits s' b a →
      Runs (.jxCwait b c rd r1 imm t) s (CoreDid s' b c ((k.setX rd (BitVec.ofNat 32 (credits s' b a))).after 4)))
    ∧ (a = 0 ∨ a = 1 ∨ a = 3 → ∃ n, n ≤ 8 ∧ Runs (.jxCwait b c rd r1 imm t) s (fun u =>
        u.core b c = (if imm.toNat ≤ n then (k.setX rd (BitVec.ofNat 32 n)).after 4
          else { k with waiting := some (.cwait rd a imm.toNat), started := true })
        ∧ OnlyCore b c s' u ∧ OnlyTally s' u ∧ OnlyParts [.array, .obs, .free] s' u))
    ∧ (a < 64 → v ≤ (s'.counter (b * 64 + a)).count →
      Runs (.jxAwait b c rd r1 r2 t) s
        (CoreDid s' b c ((k.setX rd (BitVec.ofNat 32 (s'.counter (b * 64 + a)).count)).after 4)))
    ∧ ((∀ m ∈ k.bulk, m.tag ≠ a) → Runs (.jxBwait b c r1 t) s (CoreDid s' b c (k.after 4)))
    ∧ (∀ tag, leastBelow 16 (fun i => k.bulk.all (fun m => m.tag ≠ i)) = some tag →
      let len := (k.getX r3).toNat
      a % 64 = 0 → v % 64 = 0 → len % 64 = 0 → 64 ≤ len → len ≤ 262144 → a + len ≤ 0x200000 → v + len ≤ 0x200000 →
      (v + len ≤ a ∨ a + len ≤ v) →
      Runs (.jxBmove b c rd r1 r2 r3 t) s (CoreDid s' b c (Core.after
        { k.setX rd (BitVec.ofNat 32 tag) with
          bulk := k.bulk ++ [{ id := k.bulkNext, tag := tag, dst := a, src := v, len := len }],
          bulkNext := k.bulkNext + 1 } 4)))
    ∧ (a < 76800 → 0 < v → v < 65536 → k.acks = [] → k.bulk = [] → k.arrives = [] →
      Runs (.jxArrive b c r1 r2 t) s (fun u => u.core b c = k.after 4
        ∧ u.out = .arrive a v k.jxstep.toNat :: s'.out ∧ OnlyCore b c s' u ∧ OnlyTally s' u
        ∧ OnlyParts [.array, .out, .obs] s' u))

/-- The end of a wait, of a bulk move, and the ARRIVE held for them. A waiting micro-core whose condition holds
completes its instruction and waits no more; where it does not hold, nothing changes but the instant. A wait for a
request, response or control credit ends where the value seen, some value of 0 to 8 (a free value, log entry 111), has
reached the one waited for. When a bulk move finishes, its bytes are in place, its tag is free and no held ARRIVE waits
for it. The oldest held ARRIVE leaves once every WR_ACK and bulk move before it has ended. -/
def Obligations.WaitsAndMovesEnd : Prop :=
  ∀ (s : State) (b : BrickNo) (c : CoreNo) (p t : Nat),
    let s' := s.at t
    (∀ w, s'.palletOf b = some p → (s'.pallet p).live = true → s'.array.stopped.contains b.val = false →
      (s'.core b c).waiting = some w →
      (WaitHolds s' b c w →
        Runs (.jxWaitEnd b c t) s (fun u => (u.core b c).waiting = none
          ∧ (u.core b c).pc = (s'.core b c).pc + 4
          ∧ ∃ v, tryWait s' b c p w = some v ∧ { u.core b c with waiting := none } = { v.core b c with waiting := none }
            ∧ OnlyCore b c v u ∧ OnlyParts [.array] v u))
      ∧ (¬ WaitHolds s' b c w → ¬ WaitSeen w → Runs (.jxWaitEnd b c t) s (fun u => u = s')))
    ∧ (∀ (rd k n : Nat), s'.palletOf b = some p → (s'.pallet p).live = true → s'.array.stopped.contains b.val = false →
      (s'.core b c).waiting = some (.cwait rd k n) → WaitSeen (.cwait rd k n) →
      ∃ x, x ≤ 8 ∧ Runs (.jxWaitEnd b c t) s (fun u =>
        u.core b c = (if n ≤ x then { ((s'.core b c).setX rd (BitVec.ofNat 32 x)) with
            pc := (s'.core b c).pc + 4, waiting := none } else s'.core b c)
        ∧ OnlyCore b c s' u ∧ OnlyParts [.array, .obs, .free] s' u))
    ∧ (∀ (tag : Fin 16) (m : BulkMove), (s.core b c).bulk.find? (fun m => m.tag == tag.val) = some m →
      Runs (.bulkMoveDone b c tag) s (fun u =>
        (u.brick b).bytes m.dst m.len = (s.brick b).bytes m.src m.len
        ∧ (∀ x, x < m.dst ∨ m.dst + m.len ≤ x → NMap.get 0 (u.brick b).store x = NMap.get 0 (s.brick b).store x)
        ∧ (∀ x ∈ (u.core b c).bulk, x.id ≠ m.id) ∧ (∀ a ∈ (u.core b c).arrives, m.id ∉ a.moves)
        ∧ (∀ r, (u.core b c).getX r = (s.core b c).getX r) ∧ (u.core b c).pc = (s.core b c).pc
        ∧ OnlyBrick b s u ∧ OnlyParts [.array] s u))
    ∧ ∀ (a : HeldArrive) (rest : List HeldArrive), (s'.core b c).arrives = a :: rest → a.acks = [] → a.moves = [] →
      Runs (.arriveSend b c t) s (fun u => u.out = .arrive a.k a.n a.tag :: s'.out
        ∧ u.core b c = { s'.core b c with arrives := rest } ∧ OnlyCore b c s' u ∧ OnlyParts [.array, .out] s' u)

/-- RD, WR and WR_ACK at a brick store or an HBM channel: the data answered, the bytes written, every other byte as
before. From a node of the mortar's table: an RD of 1 to 248 bytes of the brick store answers the bytes there to its
sender under its tag and changes nothing else. A WR of up to 240 bytes writes its data at its address; WR_ACK does the
same and answers WR_DONE. Every byte outside the written range reads as before. A request at an HBM controller reads and
writes HBM in the same way, where the range lies in 8 KiB frames of the controller's stack. A request with a reserved
SRC is handled as an uncorrectable header word, and neither reads, writes nor answers (R23, R27). -/
def Obligations.MortarRequestsServed : Prop :=
  ∀ (s : State) (b : BrickNo) (i : Fin 8) (h : MortarHdr) (a len : Nat) (data : List Byte),
    (validNode h.src = true → 1 ≤ len → len ≤ 248 → a + len ≤ 0x200000 →
      Runs (.rd (.brick b) h a len) s (fun u => u = s.emit (.rdData h.src h.tag (memRead (s.brick b).store a len))))
    ∧ (validNode h.src = true → data ≠ [] → data.length ≤ 240 → a + data.length ≤ 0x200000 →
      let wrote := fun (u : State) => memRead (u.brick b).store a data.length = data
        ∧ (∀ x, x < a ∨ a + data.length ≤ x → NMap.get 0 (u.brick b).store x = NMap.get 0 (s.brick b).store x)
        ∧ (u.brick b).acc = (s.brick b).acc ∧ (u.brick b).cores = (s.brick b).cores ∧ OnlyBrick b s u
      Runs (.wr (.brick b) h a data) s (fun u => wrote u ∧ OnlyParts [.array] s u)
      ∧ Runs (.wrAck (.brick b) h a data) s (fun u => wrote u ∧ u.out = .wrDone h.src h.tag :: s.out
        ∧ OnlyParts [.array, .out] s u))
    ∧ (validNode h.src = true → 1 ≤ len → len ≤ 248 → a + len ≤ frameCount * 8192 → a / 8192 % 8 = i →
      (a + len - 1) / 8192 % 8 = i →
      Runs (.rd (.hbm i) h a len) s (fun u =>
        u = s.emit (.rdData h.src h.tag ((List.range len).map (fun k => s.hbmByte (a + k))))))
    ∧ (validNode h.src = true → data ≠ [] → data.length ≤ 240 → a + data.length ≤ frameCount * 8192 → a / 8192 % 8 = i →
      (a + data.length - 1) / 8192 % 8 = i →
      let wrote := fun (u : State) => memRead u.mem.hbm a data.length = data
        ∧ (∀ x, x < a ∨ a + data.length ≤ x → NMap.get 0 u.mem.hbm x = NMap.get 0 s.mem.hbm x)
        ∧ { u.mem with hbm := [] } = { s.mem with hbm := [] }
      Runs (.wr (.hbm i) h a data) s (fun u => wrote u ∧ OnlyParts [.mem] s u)
      ∧ Runs (.wrAck (.hbm i) h a data) s (fun u => wrote u ∧ u.out = .wrDone h.src h.tag :: s.out
        ∧ OnlyParts [.mem, .out] s u))
    ∧ ∀ tgt : MortarTarget, validNode h.src = false →
      let bad := fun (u : State) => u = flitUncorr s h.pallet (targetNode tgt) h.src true
      Runs (.rd tgt h a len) s bad ∧ Runs (.wr tgt h a data) s bad ∧ Runs (.wrAck tgt h a data) s bad

/-- RD_DATA, WR_DONE and ERR end the request of their tag and let the ARRIVEs that wait for it go. Each answer from a
node of the mortar's table ends the brick's outstanding request of its tag; no WR_ACK of the tag stays outstanding at
any of its micro-cores, and no held ARRIVE waits for it. RD_DATA keeps its data under the tag, ERR its status. No byte
of the stores, no register and no other brick changes. One with a reserved SRC is handled as an uncorrectable header
word (R23, R27). -/
def Obligations.MortarAnswersTaken : Prop :=
  ∀ (s : State) (b : BrickNo) (h : MortarHdr) (data : List Byte) (st : Status),
    let ended := fun (u : State) => (∀ r ∈ (u.brick b).requests, r.tag ≠ h.tag)
      ∧ (∀ e ∈ (u.brick b).cores, h.tag ∉ e.2.acks ∧ ∀ a ∈ e.2.arrives, h.tag ∉ a.acks)
      ∧ (∀ c r, (u.core b c).getX r = (s.core b c).getX r) ∧ (u.brick b).store = (s.brick b).store
      ∧ (u.brick b).acc = (s.brick b).acc ∧ (u.brick b).tokens = (s.brick b).tokens ∧ OnlyBrick b s u
      ∧ OnlyParts [.array] s u
    let bad := fun (u : State) => u = flitUncorr s h.pallet b h.src true
    (validNode h.src = true →
      Runs (.rdData b h data) s (fun u => ended u ∧ (u.brick b).answers = (h.tag, data) :: (s.brick b).answers)
      ∧ Runs (.wrDone b h) s (fun u => ended u ∧ (u.brick b).answers = (s.brick b).answers)
      ∧ Runs (.err b h st) s (fun u => ended u ∧ (u.brick b).errors = (h.tag, st) :: (s.brick b).errors))
    ∧ (validNode h.src = false →
      Runs (.rdData b h data) s bad ∧ Runs (.wrDone b h) s bad ∧ Runs (.err b h st) s bad)

/-- A brick takes a token, is forced to take it, or passes it on to the next brick of the claim ring. A token that is
the oldest on its way from its sender to a brick of a READY or RUNNING pallet leaves the mortar. With a free queue
entry: one that has passed every brick is taken whatever the thresholds; one whose engines all have credit is taken when
the queue is shorter than the threshold of its score. Otherwise, and when the queue is full, it is passed on with PASSES
one more: at once where no token waits before it and a token credit is free, else it waits behind them. When a token
credit returns, the oldest waiting token goes on. A token with a reserved SRC is handled as an uncorrectable header word
(R23, R27). -/
def Obligations.TokenClaimed : Prop :=
  (∀ (s : State) (b : BrickNo) (p : Nat) (tok : Token), s.palletOf b = some p → (s.pallet p).live = true →
    validNode tok.src = true → tokenInOrder s b tok = true →
    let depth := (s.brick b).tokens.length
    let ready := ∀ i < 7, bitOf tok.engines i = true → credits s b (engineCounter i) ≠ 0
    let short := depth < claimThreshold s p (tokenScore s p b tok)
    let passes := 64 ≤ depth ∨ (tok.passes < (s.rect p).size ∧ ¬ (ready ∧ short))
    let same := fun (u : State) => (u.brick b).store = (s.brick b).store ∧ (∀ b', b' ≠ b.val → u.brick b' = s.brick b')
      ∧ u.mem = s.mem ∧ u.req = s.req ∧ u.pallets = s.pallets
    let taken := fun (u : State) => (u.brick b).tokens = (s.brick b).tokens ++ [tok]
      ∧ (u.brick b).passing = (s.brick b).passing ∧ u.array.flying = s.array.flying.erase (b.val, tok) ∧ u.out = s.out ∧ same u
    let on : Token := { tok with passes := min (tok.passes + 1) 65535 }
    (depth < 64 → (s.rect p).size ≤ tok.passes → Runs (.token b tok) s taken)
    ∧ (depth < 64 → ready → short → Runs (.token b tok) s taken)
    ∧ (passes → (s.brick b).passing = [] → credits s b 2 ≠ 0 →
      let sent : Token := { on with src := b }
      Runs (.token b tok) s (fun u => (u.brick b).tokens = (s.brick b).tokens ∧ (u.brick b).passing = []
        ∧ u.out = .token ((s.rect p).next b) sent :: s.out
        ∧ u.array.flying = s.array.flying.erase (b.val, tok) ++ [((s.rect p).next b, sent)] ∧ same u))
    ∧ (passes → (s.brick b).passing ≠ [] ∨ credits s b 2 = 0 →
      Runs (.token b tok) s (fun u => (u.brick b).tokens = (s.brick b).tokens
        ∧ (u.brick b).passing = (s.brick b).passing ++ [on] ∧ u.array.flying = s.array.flying.erase (b.val, tok)
        ∧ u.out = s.out ∧ same u)))
  ∧ (∀ (s : State) (b : BrickNo) (p : Nat) (w : Token) (rest : List Token), s.palletOf b = some p →
      (s.brick b).passing = w :: rest → 1 ≤ NMap.get 0 (s.brick b).used 2 → NMap.get 0 (s.brick b).used 2 ≤ 8 →
      Runs (.tokenCreditReturn b) s (fun u => (u.brick b).passing = rest
        ∧ u.out = .token ((s.rect p).next b) { w with src := b } :: s.out
        ∧ u.array.flying = s.array.flying ++ [((s.rect p).next b, { w with src := b })]
        ∧ (u.brick b).tokens = (s.brick b).tokens ∧ OnlyBrick b s { u with array := { u.array with flying := s.array.flying } }
        ∧ OnlyParts [.array, .out] s u))
  ∧ ∀ (s : State) (b : BrickNo) (tok : Token), validNode tok.src = false →
      Runs (.token b tok) s (fun u => u = flitUncorr s ((s.palletOf b).getD 0) b tok.src true)

/-- ARM, ARRIVE and RELEASE move an arrival counter between IDLE, ARMED and DONE. ARM of an IDLE counter with a target
above 0 arms it with count 0. An ARRIVE of its step tag adds its increment; when the count reaches the target exactly
the counter is DONE and STEP_DONE goes out. An ARRIVE to an IDLE counter, or with another tag, is discarded and counted
in BRK_ARR_STALE. RELEASE of a DONE counter makes it IDLE. STEP_DONE of the running step's tag is noted at the
management cores. No other counter changes. -/
def Obligations.ArrivalCounters : Prop :=
  ∀ (s : State) (k : CounterId) (p : PalletNo) (tag target n t : Nat),
    let s' := s.at t
    let c := s'.counter k
    let only := fun (u : State) => (∀ j, j ≠ k.val → u.counter j = s'.counter j)
      ∧ { u.array with counters := [] } = { s'.array with counters := [] }
    (c.state = .idle → 0 < target →
      Runs (.arm k tag target t) s (fun u => u.counter k = { state := .armed, count := 0, target := target, tag := tag }
        ∧ only u ∧ OnlyParts [.array] s' u))
    ∧ (s'.palletOf (k / 64) = some p.val → c.state = .armed → c.tag = tag → c.count + n < c.target →
      Runs (.arrive k tag n t) s (fun u => u.counter k = { c with count := c.count + n } ∧ only u
        ∧ OnlyParts [.array] s' u))
    ∧ (s'.palletOf (k / 64) = some p.val → c.state = .armed → c.tag = tag → c.count + n = c.target →
      Runs (.arrive k tag n t) s (fun u => u.counter k = { c with count := c.target, state := .done } ∧ only u
        ∧ u.out = .stepDone p tag :: s'.out ∧ OnlyParts [.array, .out, .pallets] s' u))
    ∧ (s'.palletOf (k / 64) = some p.val → (c.state = .idle ∨ (c.tag ≠ tag)) →
      Runs (.arrive k tag n t) s (fun u => u = s'.bump Obj.BRK_ARR_STALE p))
    ∧ ((s.counter k).state = .done →
      Runs (.counterRelease k) s (fun u => u.counter k = { s.counter k with state := .idle }
        ∧ (∀ j, j ≠ k.val → u.counter j = s.counter j) ∧ OnlyParts [.array] s u))
    ∧ ∀ r, (s'.pallet p).run = some r → r.tag = tag →
      Runs (.stepDone p tag t) s (fun u => (u.pallet p).run = some { r with doneSeen := true }
        ∧ (∀ q, q ≠ p.val → u.pallet q = s'.pallet q) ∧ OnlyParts [.pallets] s' u)

/-- A Goullor port: enabling, negotiation, training, alignment, loss, disabling. A privileged write of 1 to
LNK_PORT_ENABLE of a DISABLED port with a MAC address makes it NEGOTIATING. Agreement makes it TRAINING with the
partner's spare capability recorded; trained lanes make it ALIGNING, a lane of a direction spared where the spare is
capable and trained; alignment makes it UP, or UP_SPARED where training spared a lane. A negotiation timeout and a
training failure count in LNK_TRAIN_FAIL, and the failure waits; after the wait and after an alignment timeout the port
negotiates again. A port that is UP and loses alignment negotiates again, counts in LNK_DOWN_EVENTS and raises event
0x20; a write of 0 disables the port and raises it too. No other port changes. -/
def Obligations.PortStateMachine : Prop :=
  ∀ (s : State) (i : PortNo) (via : Via) (spare : Bool) (rx tx : Option (Fin 9)) (t : Nat),
    let v := s.port i
    let vt := (s.at t).port i
    (s.running = true → s.isPriv via = true → s.obj Obj.LNK_MAC i ≠ 0 → v.state = .disabled →
      Runs (.portEnable i via) s (fun u => u.port i = { v with state := .negotiating } ∧ u.obj Obj.LNK_PORT_ENABLE i = 1
        ∧ OnlyPort i s u ∧ OnlyParts [.ports, .dict, .out] s u))
    ∧ (s.running = true → s.isPriv via = true → v.isUp = true →
      Runs (.portDisable i via) s (fun u => (u.port i).state = .disabled ∧ u.obj Obj.LNK_PORT_ENABLE i = 0
        ∧ Raised 0x20 s u ∧ OnlyPort i s u))
    ∧ (v.state = .negotiating → Runs (.negotiationDone i spare) s (fun u =>
        u.port i = { v with state := .training, spareOk := spare, trainWait := false } ∧ OnlyPort i s u
        ∧ OnlyParts [.ports] s u))
    ∧ (v.state = .negotiating → Runs (.negotiationTimeout i) s (fun u => Counted Obj.LNK_TRAIN_FAIL i s u
        ∧ OnlyObject Obj.LNK_TRAIN_FAIL i s u ∧ OnlyParts [.dict] s u))
    ∧ (v.state = .training → v.trainWait = false →
      let failed := fun (u : State) => u.port i = { v with trainWait := true } ∧ OnlyPort i s u
        ∧ Counted Obj.LNK_TRAIN_FAIL i s u ∧ OnlyParts [.ports, .dict] s u
      let spared := rx.isSome || tx.isSome
      ((spared = true → v.spareOk = true) → rx ≠ some 8 → tx ≠ some 8 →
        Runs (.trainingDone i rx tx) s (fun u =>
          u.port i = { v with
            state := .aligning, rxMap := lanesWithout rx, txMap := lanesWithout tx, rxSpareUsed := rx.isSome,
            txSpareUsed := tx.isSome } ∧ OnlyPort i s u ∧ OnlyParts [.ports] s u))
      ∧ ((spared = true ∧ v.spareOk = false) ∨ rx = some 8 ∨ tx = some 8 → Runs (.trainingDone i rx tx) s failed)
      ∧ Runs (.trainingFail i) s failed)
    ∧ (v.state = .training → v.trainWait = true → Runs (.trainingWaitExpiry i) s (fun u =>
        (u.port i).state = .negotiating ∧ (u.port i).trainWait = false ∧ OnlyPort i s u ∧ OnlyParts [.ports] s u))
    ∧ (v.state = .aligning →
      Runs (.alignmentDone i) s (fun u =>
        { u.port i with heldWords := v.heldWords }
          = { v with state := if v.rxSpareUsed || v.txSpareUsed then .upSpared else .up }
        ∧ OnlyPort i s u ∧ OnlyParts [.ports, .trn, .asc, .obs, .dict, .out] s u
        ∧ (s.trn.flows = [] → v.heldWords = [] → OnlyParts [.ports] s u))
      ∧ Runs (.alignmentTimeout i) s (fun u => (u.port i).state = .negotiating ∧ Counted Obj.LNK_TRAIN_FAIL i s u
        ∧ OnlyPort i s u ∧ OnlyParts [.ports, .dict] s u))
    ∧ (vt.isUp = true → Runs (.alignmentLoss i t) s (fun u => (u.port i).state = .negotiating
        ∧ Counted Obj.LNK_DOWN_EVENTS i (s.at t) u ∧ Raised 0x20 (s.at t) u ∧ OnlyPort i (s.at t) u))

/-- The spare lane: a trigger asks for a mirror, the receiver switches, the transmitter follows. On a port that is UP
with a capable, unused spare, a lane whose corrected symbols in a window exceed LNK_REMAP_SYM sends MIRROR_REQ, and so
does a lane that loses signal; the lane is recorded as failed (0xF) until the switch. Exactly the threshold triggers
nothing; of two triggers in one window a lost lane comes first, and the other is a second fault. The window's codewords
and symbols are counted. The partner's MIRROR_REQ is taken once per SEQ, and its lane is recorded as failed. The switch
puts the logical lane on the spare, counts in LNK_REMAPS and sends SWITCHED, which names the spare; on SWITCHED the
transmitter does the same. A message leaves as a spare word, or as a frame where the spare of its direction carries
data. No other port changes. -/
def Obligations.SpareLaneRemap : Prop :=
  ∀ (s : State) (i : PortNo) (l l2 : Fin 9) (k k2 t seq corr uncorr : Nat) (sym : List Nat) (ll : Fin 8) (sudden : Bool),
    let s' := s.at t
    let v := s'.port i
    let free := v.isUp = true ∧ v.rxSpareUsed = false ∧ v.rxRemap = none ∧ v.spareOk = true
    let limit := s'.obj Obj.LNK_REMAP_SYM i
    let counted := fun (u : State) =>
      u.obj Obj.LNK_FEC_CORR_CW i = s'.obj Obj.LNK_FEC_CORR_CW i + corr
      ∧ u.obj Obj.LNK_FEC_UNCORR_CW i = s'.obj Obj.LNK_FEC_UNCORR_CW i + uncorr
      ∧ ∀ j, j < 9 → u.obj (Obj.LNK_LANE_SYM + j) i = s'.obj (Obj.LNK_LANE_SYM + j) i + sym.getD j 0
    let asked := fun (k l : Nat) (sudden : Bool) (u : State) =>
      SpareSent s' i (spareWord 1 k l (b2n sudden) v.seqTx) u ∧ (u.port i).rxMap = setAt v.rxMap k 15
      ∧ (u.port i).rxRemap = some { llane := k, plane := l, sudden := sudden, seq := v.seqTx }
      ∧ (u.port i).seqTx = (v.seqTx + 1) % 65536 ∧ (u.port i).state = v.state ∧ (u.port i).txMap = v.txMap ∧ OnlyPort i s' u
    (free → v.rxMap.findIdx? (fun x => x == l.val) = some k → limit < sym.getD l 0 →
      (∀ j, j ≠ l.val → sym.getD j 0 ≤ limit) →
      Runs (.predictiveTrigger i sym ⟨[], corr, uncorr⟩ t) s (fun u => asked k l false u ∧ counted u
        ∧ OnlyParts [.ports, .dict, .out] s' u))
    ∧ (free → v.rxMap.findIdx? (fun x => x == l.val) = some k →
      Runs (.suddenTrigger i [l] t) s (fun u => asked k l true u ∧ OnlyParts [.ports, .dict, .out] s' u))
    ∧ (free → v.rxMap.findIdx? (fun x => x == l.val) = some k → v.rxMap.findIdx? (fun x => x == l2.val) = some k2 → l ≠ l2 →
      limit < sym.getD l 0 → (∀ j, j ≠ l.val → sym.getD j 0 ≤ limit) →
      Runs (.predictiveTrigger i sym ⟨[l2], corr, uncorr⟩ t) s (fun u => counted u ∧ Counted Obj.LNK_SER_EXCESS i s' u
        ∧ (u.port i).rxRemap = some { llane := k2, plane := l2, sudden := true, seq := v.seqTx } ∧ Raised 0x21 s' u))
    ∧ ((∀ j, sym.getD j 0 ≤ limit) →
      Runs (.predictiveTrigger i sym ⟨[], corr, uncorr⟩ t) s (fun u => counted u ∧ OnlyParts [.dict] s' u))
    ∧ ((s.port i).isUp = true → (s.port i).seen seq = false → (s.port i).spareOk = true → (s.port i).txSpareUsed = false →
      Runs (.mirrorReq i ll l sudden seq) s (fun u => (u.port i).txSpareUsed = true
        ∧ (u.port i).txRemap = some { llane := ll, plane := l, sudden := sudden, seq := seq }
        ∧ (u.port i).seen seq = true ∧ (u.port i).txMap = setAt (s.port i).txMap ll 15 ∧ OnlyPort i s u
        ∧ OnlyParts [.ports] s u))
    ∧ ((s.port i).seen seq = true → Runs (.mirrorReq i ll l sudden seq) s (fun u => u = s))
    ∧ (∀ m, (s.port i).rxRemap = some m →
      let lane := spareOf (s.port i).rxMap m.plane
      Runs (.remapSwitch i) s (fun u => (u.port i).state = .upSpared ∧ (u.port i).rxRemap = none
        ∧ (u.port i).rxSpareUsed = true ∧ (u.port i).rxMap = setAt (s.port i).rxMap m.llane lane
        ∧ Counted Obj.LNK_REMAPS i s u ∧ SpareSent s i (spareWord 2 m.llane lane (b2n m.sudden) (s.port i).seqTx) u
        ∧ OnlyPort i s u ∧ OnlyParts [.ports, .dict, .out] s u))
    ∧ ∀ m, (s.port i).txRemap = some m → m.llane = ll.val → (s.port i).seen seq = false →
      Runs (.switched i ll l seq) s (fun u => (u.port i).state = .upSpared ∧ (u.port i).txRemap = none
        ∧ (u.port i).txMap = setAt (s.port i).txMap ll l
        ∧ Counted Obj.LNK_REMAPS i s u ∧ OnlyPort i s u ∧ OnlyParts [.ports, .dict] s u)

/-- A frame in the receive buffer, XOFF and XON, a received pause, its end, and a pause storm. A good frame of a class
with room adds its bytes to the class's occupancy and counts; one below the XOFF threshold sends nothing. A frame with a
bad FCS counts in LNK_FCS_ERR and is dropped. While the occupancy of a class under XOFF is above the XON level, XOFF is
sent again; when bytes leave and the occupancy is at the level or below, a PFC frame with time 0 goes out. A received
PFC frame pauses each enabled class for its time of 0.32 ns quanta; a pause that has run out ends and its length is
counted. A pause of LNK_STORM_US without a break counts, marks the class degraded and raises event 0x23. -/
def Obligations.FramesAndPriorityFlowControl : Prop :=
  ∀ (s : State) (i : PortNo) (f : Frame) (c : Fin 8) (t taken : Nat),
    let s' := s.at t
    let v := s'.port i
    let occ := NMap.get 0 v.occ f.pcp
    let good := f.fcsOk = true ∧ f.pause8023x = false ∧ f.daOk = true ∧ f.tpid = 0x8100 ∧ f.etype = 0x9A71 ∧ f.gver = 1
      ∧ f.kind < 2 ∧ 36 + f.plen ≤ f.bytes ∧ f.plen ≤ 4224
    let w := s.port i
    (v.isUp = true → good → occ + f.bytes ≤ s'.allot i f.pcp → occ + f.bytes < s'.xoffAt i f.pcp →
      Runs (.goullorFrame i f t) s (fun u => NMap.get 0 (u.port i).occ f.pcp = occ + f.bytes
        ∧ Counted Obj.LNK_FRAMES_RX i s' u ∧ u.obj Obj.LNK_BYTES_RX i = s'.obj Obj.LNK_BYTES_RX i + f.bytes
        ∧ (f.kind = 0 → reservedOp f.op = true → Counted Obj.TRN_MALFORMED 0 s' u)
        ∧ OnlyPort i s' u ∧ OnlyParts [.ports, .dict] s' u))
    ∧ (v.isUp = true → f.fcsOk = false → Runs (.goullorFrame i f t) s (fun u => u = s'.bump Obj.LNK_FCS_ERR i))
    ∧ (w.isUp = true → w.xoff.contains c.val = true → s.xonAt i c < NMap.get 0 w.occ c →
      Runs (.xoffRepeat i c) s (fun u => Counted Obj.LNK_PFC_TX i s u
        ∧ u.out = .pfc i (2 ^ c.val) ((List.range 8).map (fun k => if k = c.val then 0xFFFF else 0)) :: s.out
        ∧ OnlyParts [.dict, .out] s u))
    ∧ (w.isUp = true → w.xoff.contains c.val = true → NMap.get 0 w.occ c - taken ≤ s.xonAt i c →
      Runs (.xon i c taken) s (fun u => NMap.get 0 (u.port i).occ c = NMap.get 0 w.occ c - taken
        ∧ (u.port i).xoff.contains c.val = false ∧ u.out = .pfc i (2 ^ c.val) (List.replicate 8 0) :: s.out
        ∧ OnlyPort i s u ∧ OnlyParts [.ports, .dict, .out] s u))
    ∧ (∀ q, v.isUp = true → 0 < q → q < 65536 →
      Runs (.pfcFrame i (2 ^ c.val) ((List.range 8).map (fun k => if k = c.val then q else 0)) t) s (fun u =>
        NMap.get 0 (u.port i).pausedTill c = s'.now + ceilDiv (q * 32) 100 ∧ Counted Obj.LNK_PFC_RX i s' u
        ∧ OnlyPort i s' u))
    ∧ (∀ a, NMap.get 0 v.pausedTill c ≤ s'.now → NMap.get? v.pausedSince c = some a →
      Runs (.pauseExpiry i c t) s (fun u => NMap.get? (u.port i).pausedSince c = none ∧ c.val ∉ (u.port i).degraded
        ∧ u.obj (Obj.LNK_PAUSED_NS + c) i = s'.obj (Obj.LNK_PAUSED_NS + c) i + (NMap.get 0 v.pausedTill c - a)
        ∧ OnlyPort i s' u ∧ OnlyParts [.ports, .trn, .asc, .obs, .dict, .out] s' u
        ∧ (s'.trn.flows = [] → v.heldWords = [] → OnlyParts [.ports, .dict] s' u)))
    ∧ ∀ a, NMap.get? v.pausedSince c = some a →
      s'.obj Obj.LNK_STORM_US i * 1000 ≤ min s'.now (NMap.get 0 v.pausedTill c) - a →
      v.degraded.contains c.val = false →
      Runs (.pfcStorm i c t) s (fun u => (u.port i).degraded = c.val :: v.degraded
        ∧ Counted Obj.LNK_PFC_STORM i s' u ∧ Raised 0x23 s' u ∧ OnlyPort i s' u)

/-- PTP and PPS: the measurements, the qualification of a source, the switch to another, and TIME64's slewing. In the
domain TB_PTP_DOMAIN a one-step Sync gives the receive time less the origin; a two-step one waits for its Follow_Up,
which gives it; a Sync of another domain changes nothing. A Delay_Req notes its instant and goes out. The fourth
answered delay measurement in a row qualifies a PTP source. An Announce of a better master (log entry 130) starts the
source's qualification again, one of the master in use brings its data set up to date, and one of a worse master changes
nothing. A correction by rate moves TIME64 by at most 50 ppm of the time passed, and never past what is pending. The
fifth consistent edge of TB_PPS_IN with a second number known qualifies it. A source of time that is lost while locked
with no other qualified leaves HOLDOVER; with another qualified, that one is selected and TB_SOURCE_SWITCHES counts. -/
def Obligations.TimebaseSources : Prop :=
  ∀ (s : State) (x : TbSource) (origin rx : Int) (t dom : Nat) (m : PtpMaster),
    let s' := s.at t
    let k := srcNo x
    let v := s'.tbSrc k
    let only := fun (u : State) => (∀ j, j ≠ k → u.tbSrc j = s'.tbSrc j) ∧ { u.tb with sources := [] } = { s'.tb with sources := [] }
    let here := s'.obj Obj.TB_PTP_DOMAIN 0
    (x ≠ .pps → Runs (.ptpSync ⟨x, here⟩ true origin rx t) s (fun u => u.tbSrc k = { v with diff := some (rx - origin), sync := none }
        ∧ only u ∧ OnlyParts [.tb] s' u)
      ∧ Runs (.ptpSync ⟨x, here⟩ false origin rx t) s (fun u => u.tbSrc k = { v with sync := some rx } ∧ only u
        ∧ OnlyParts [.tb] s' u)
      ∧ (dom ≠ here → Runs (.ptpSync ⟨x, dom⟩ true origin rx t) s (fun u => u = s'))
      ∧ Runs (.ptpDelayReq x t) s (fun u => u.tbSrc k = { v with reqAt := some s'.now, delays := if v.reqAt.isSome then 0 else v.delays } ∧ only u
        ∧ u.out = .ptp 1 [(k : Int), (here : Int), (s'.now : Int)] :: s'.out ∧ OnlyParts [.tb, .out] s' u))
    ∧ (∀ a, x ≠ .pps → v.sync = some a → Runs (.ptpFollowUp ⟨x, here⟩ origin t) s (fun u =>
        u.tbSrc k = { v with diff := some (a - origin), sync := none } ∧ only u ∧ OnlyParts [.tb] s' u))
    ∧ (∀ a d, x ≠ .pps → v.reqAt = some a → v.diff = some d → s'.tb.selected ≠ k → 4 ≤ v.delays + 1 →
      Runs (.ptpDelayResp ⟨x, here⟩ rx t) s (fun u => (u.tbSrc k).qualified = true ∧ (u.tbSrc k).reqAt = none
        ∧ (u.tbSrc k).delays = v.delays + 1
        ∧ (u.tbSrc k).offset = 500 * (d - (rx - (a : Int))) + 1000 * ((s'.obj Obj.TB_EPOCH_TAI 0 : Nat) : Int)))
    ∧ (x ≠ .pps →
      let got := fun (w : TbSrc) => Runs (.ptpAnnounce x here m) s' (fun u => u.tbSrc k = w ∧ only u ∧ OnlyParts [.tb] s' u)
      (v.master = none → got { v with master := some m })
      ∧ ∀ w, v.master = some w →
        (w.sender = m.sender → got { v with master := some m })
        ∧ (w.sender ≠ m.sender → betterMaster m w = true → v.qualified = false → got { v.fallen with master := some m })
        ∧ (w.sender ≠ m.sender → betterMaster m w = false → got v))
    ∧ (s'.slewed.natAbs ≤ (s'.now - s'.tb.slewAt) * 50 / 1000 ∧ s'.slewed.natAbs ≤ s'.tb.slewPs.natAbs)
    ∧ (∀ n, (s'.tbSrc 3).second = some n → s'.tb.ppsAt = none → 4 ≤ (s'.tbSrc 3).good → (s'.tbSrc 1).lastDelay = none →
      (s'.tbSrc 2).lastDelay = none →
      Runs (.tbPpsInEdge true true t) s (fun u => (u.tbSrc 3).qualified = true ∧ (u.tbSrc 3).second = some (n + 1)
        ∧ (u.tbSrc 3).good = (s'.tbSrc 3).good + 1))
    ∧ (s'.tb.state = .locked → s'.tb.selected = k → (s'.setTbSrc k v.fallen).bestSrc = 0 →
      Runs (.tbSourceLoss x t) s (fun u => u.tb.state = .holdover ∧ u.tb.holdoverAt = s'.now ∧ u.tb.selected = 0
        ∧ Counted Obj.TB_HOLDOVER_ENTRIES 0 s' u ∧ u.now = s'.now))
    ∧ ∀ j, s'.tb.state = .locked → s'.tb.selected = k → k ≠ j → j ≠ 0 →
      (s'.setTbSrc k v.fallen).bestSrc = j →
      Runs (.tbSourceSwitch x t) s (fun u => u.tb.selected = j ∧ u.tb.state = .locked
        ∧ Counted Obj.TB_SOURCE_SWITCHES 0 s' u ∧ u.now = s'.now)

/-- The end of a holdover, a write of TB_HOLDOVER_S, and TB_PPS_OUT. A holdover that has lasted TB_HOLDOVER_S ends in
FREERUN and raises event 0x50; a shorter one goes on. A privileged write of TB_HOLDOVER_S within its range gives the
object its value, applies to a holdover in progress and is answered OK; outside the range it is answered TRANSPORT_ERROR
and the object keeps its value. TB_PPS_OUT rises at each multiple of 10^9 ns of TIME64. -/
def Obligations.HoldoverAndPpsOut : Prop :=
  ∀ (s : State) (via : Via) (value t : Nat),
    let s' := s.at t
    (s'.tb.state = .holdover → s'.obj Obj.TB_HOLDOVER_S 0 * 1000000000 ≤ s'.now - s'.tb.holdoverAt →
      Runs (.tbHoldoverExpiry t) s (fun u => u.tb = { s'.tb with state := .freerun } ∧ Raised 0x50 s' u))
    ∧ (s'.now - s'.tb.holdoverAt < s'.obj Obj.TB_HOLDOVER_S 0 * 1000000000 →
      Runs (.tbHoldoverExpiry t) s (fun u => u = s'))
    ∧ (s'.running = true → s'.isPriv via = true → inRange Obj.TB_HOLDOVER_S value = true →
      Runs (.tbHoldoverS via value t) s (fun u => u.obj Obj.TB_HOLDOVER_S 0 = value
        ∧ u.out.head? = some (.answer via 0 .ok 0 [])
        ∧ (s'.tb.state = .holdover → value * 1000000000 ≤ s'.now - s'.tb.holdoverAt → u.tb.state = .freerun)))
    ∧ (s'.running = true → s'.isPriv via = true → inRange Obj.TB_HOLDOVER_S value = false →
      Runs (.tbHoldoverS via value t) s (fun u => u.obj Obj.TB_HOLDOVER_S 0 = s'.obj Obj.TB_HOLDOVER_S 0
        ∧ u.out.head? = some (.answer via 0 .transportError 0 []) ∧ u.tb = s'.tb))
    ∧ (s'.now % 1000000000 = 0 → Runs (.tbPpsOut t) s (fun u =>
        u = s'.emit (.ptp 2 [((s'.now / 1000000000 : Nat) : Int)])))

/-- SEND, SEND_IMM, WRITE, WRITE_IMM, READ_REQ and READ_RESP packets accepted in sequence. A packet whose flow expects
it, under a held epoch, is accepted and acknowledged on the port it came by, and the flow expects the next PSN. A WRITE
that its registration permits stores its data at its address, and one that asks for FLUSH_ACK begins a flush of it. The
first packet of a SEND or SEND_IMM takes the next posted buffer that holds the message; a middle packet of a SEND, a
SEND_IMM or a WRITE_IMM whose message holds a buffer stores its data and adds to the message's bytes; a READ_REQ that
its registration permits queues the data on the flow back; a READ_RESP of an outstanding READ stores its data in the
READ's range, and one that names none changes nothing more. Every queue but the one concerned keeps its context. -/
def Obligations.PacketsAccepted : Prop :=
  ∀ (s : State) (i : PortNo) (p : Pkt) (r : RxFlow) (t : Nat),
    let s' := s.at t
    let g := s'.reg (bitsOf p.rkey 0 16)
    let d := s'.queue p.dq
    let stored := fun (u : State) (q va : Nat) =>
      u.mem = (s'.vWrite q va p.data).mem ∧ u.host.hostMem = (s'.vWrite q va p.data).host.hostMem
    let others := fun (u : State) => ∀ q, q ≠ p.dq → u.queue q = s'.queue q
    let writable := regCheck s' p.rkey p.keyId p.addr p.data.length .write = none
      ∧ s'.vWritable g.pallet p.addr p.data.length = true ∧ s'.vHostLds g.pallet p.addr p.data.length = []
    (Arrives s' i 0x03 p r → p.relaxed = false → writable →
      (p.last = false ∨ p.tag = 0 →
        Runs (.write i p t) s (fun u => Acked s' u i p r ∧ stored u g.pallet p.addr ∧ u.trn.queues = s'.trn.queues))
      ∧ (p.last = true → p.tag ≠ 0 →
        Runs (.write i p t) s (fun u => Acked s' u i p r ∧ u.trn.queues = s'.trn.queues
          ∧ u.mem.hbm = (s'.vWrite g.pallet p.addr p.data).mem.hbm
          ∧ NMap.get? u.mem.flushes s'.ids
            = some { what := .flushAck i p, pallet := g.pallet, va := p.addr, len := p.data.length })))
    ∧ (d.place = 0 → s'.trn.missed = [] → p.relaxed = false → p.first = true → p.last = false →
      boundTo d p = none → d.state = 1 → d.typ = 1 → sameTenant s' p.keyId d.keyId = true → d.head ≠ d.tail →
      s'.stalledQueue p.dq = false →
      let b := postedBuffer s' d
      let pal := (s'.reg (bitsOf b.2.1 0 16)).pallet
      b.2.2.1 ≤ 2 ^ 30 → msgLen p ≤ b.2.2.1 → regCheck s' b.2.1 d.keyId b.1 b.2.2.1 .localWrite = none → pal = d.pallet →
      s'.vWritable pal b.1 b.2.2.1 = true →
      let took := fun (u : State) => Acked s' u i p r ∧ stored u pal (b.1 + p.addr) ∧ others u
        ∧ (u.queue p.dq).head = (d.head + 1) % 2 ^ 32 ∧ (u.queue p.dq).outst = d.outst + 1
        ∧ ∃ e, (u.queue p.dq).entries = d.entries ++ [e] ∧ e.w = bufferWqe b ∧ e.bytes = p.data.length ∧ e.ended = none
      (Arrives s' i 0x01 p r → Runs (.send i p t) s took) ∧ (Arrives s' i 0x02 p r → Runs (.sendImm i p t) s took))
    ∧ (∀ e, d.place = 0 → s'.trn.missed = [] → p.relaxed = false → p.first = false → p.last = false →
      boundTo d p = some e →
      let into := fun (imm : Option Nat) (u : State) => Acked s' u i p r
        ∧ u.queue p.dq = { d with
            entries := mapIf d.entries (fun x => x.n == e.n)
              (fun x => { x with bytes := x.bytes + p.data.length, imm := imm }) }
        ∧ others u
      let va := e.w.laddr + p.addr
      let here := fun (u : State) => stored u (s'.reg (bitsOf e.w.lkey 0 16)).pallet va
      (regCheck s' e.w.lkey d.keyId va p.data.length .localWrite = none →
        (Arrives s' i 0x01 p r → Runs (.send i p t) s (fun u => into none u ∧ here u))
        ∧ (Arrives s' i 0x02 p r → Runs (.sendImm i p t) s (fun u => into (some p.imm) u ∧ here u)))
      ∧ (Arrives s' i 0x04 p r → writable → Runs (.writeImm i p t) s (fun u => into (some p.imm) u
        ∧ stored u g.pallet p.addr)))
    ∧ (∀ k f, Arrives s' i 0x05 p r → regCheck s' p.rkey p.keyId p.addr p.aux .read = none → 0 < p.aux →
      s'.vMapped g.pallet p.addr p.aux = true → s'.vHostLds g.pallet p.addr p.aux = [] →
      SendsOn s' p.srcMod p.cls p.epoch k f →
      Runs (.readReq i p t) s (fun u => Acked s' u i p r ∧ u.mem = s'.mem ∧ ∃ new, u.flow? k = some (f.with' new s'.now)
        ∧ new.length = max 1 (ceilDiv p.aux 4096)
        ∧ ∀ h ∈ new, h.op = 0x06 ∧ h.pkt.tag = p.tag ∧ h.pkt.dstMod = p.srcMod))
    ∧ (Arrives s' i 0x06 p r →
      (readEntry s' p.tag p.srcMod = none →
        Runs (.readResp i p t) s (fun u => Acked s' u i p r ∧ u.mem = s'.mem ∧ u.trn.queues = s'.trn.queues))
      ∧ ∀ q e, readEntry s' p.tag p.srcMod = some (q, e) → p.status = .ok →
        regCheck s' e.w.lkey (s'.queue q).keyId e.w.laddr e.w.len .localWrite = none → p.data.length < e.missing →
        Runs (.readResp i p t) s (fun u => Acked s' u i p r
          ∧ stored u (s'.reg (bitsOf e.w.lkey 0 16)).pallet (e.w.laddr + (p.addr - e.w.raddr))
          ∧ u.queue q = { s'.queue q with
              entries := mapIf (s'.queue q).entries (fun x => x.n == e.n) (fun x => { x with
                missing := e.missing - p.data.length, bytes := x.bytes + p.data.length }) }
          ∧ ∀ j, j ≠ q → u.queue j = s'.queue j))

/-- A packet with no flow, of an older incarnation, a duplicate, out of sequence, misrouted or damaged places nothing. A
WRITE with no entry and OPEN 0 is answered NAK NO_FLOW and counted; one of an older incarnation counts in
TRN_STALE_FLOW; a duplicate is acknowledged again; one ahead of its sequence is dropped and counted, and answered NAK
SEQ; one for another module counts in TRN_MISROUTED, and one whose trailer fails in TRN_ICV_ERR, without an answer. In
each case memory and the queues stay as they were. -/
def Obligations.PacketsOutOfPlace : Prop :=
  ∀ (s : State) (i : PortNo) (p : Pkt) (t : Nat),
    let s' := s.at t
    let key := rxKey p.srcMod p.flow
    let same := fun (u : State) => u.mem = s'.mem ∧ u.trn.queues = s'.trn.queues ∧ u.host = s'.host ∧ u.trn.flows = s'.trn.flows
    let up := (s'.port i).isUp = true
    let trailer := s'.icvOk 0x03 (s'.rxExt p) p
    let passes := up ∧ p.dstMod = s'.moduleNum ∧ s'.moduleNum ≠ 0xFFFF ∧ p.keyId = 0 ∧ trailer = true
      ∧ s'.age p + s'.delta ≤ 500000 ∧ s'.dead p.srcMod = false
    (passes → NMap.get? s'.trn.rx key = none → p.openF = false →
      Runs (.write i p t) s (fun u => same u ∧ u.trn.rx = s'.trn.rx ∧ Counted Obj.TRN_NO_FLOW 0 s' u
        ∧ ∃ a fr, u.out = .pkt i (8 + 256 * 2) a fr :: s'.out ∧ a.flowT = p.flowT))
    ∧ (∀ r, passes → NMap.get? s'.trn.rx key = some r → p.flowT < r.flowT →
      Runs (.write i p t) s (fun u => same u ∧ u.trn.rx = s'.trn.rx ∧ Counted Obj.TRN_STALE_FLOW 0 s' u ∧ u.out = s'.out))
    ∧ (∀ r, passes → NMap.get? s'.trn.rx key = some r → p.flowT = r.flowT → 2 ^ 23 ≤ psnDist r.expected p.psn →
      Runs (.write i p t) s (fun u => same u ∧ u.trn.rx = s'.trn.rx ∧ Counted Obj.TRN_DUP_RX 0 s' u
        ∧ ∃ a fr, u.out = .pkt i 7 a fr :: s'.out ∧ a.ackPsn = r.hold.getD r.expected))
    ∧ (∀ r, passes → NMap.get? s'.trn.rx key = some r → p.flowT = r.flowT → 0 < psnDist r.expected p.psn →
      psnDist r.expected p.psn < 2 ^ 23 → r.nakFor = none →
      Runs (.write i p t) s (fun u => same u ∧ NMap.get? u.trn.rx key = some { r with nakFor := some r.expected }
        ∧ Counted Obj.TRN_OOS_DROP 0 s' u ∧ ∃ a fr, u.out = .pkt i 8 a fr :: s'.out ∧ a.ackPsn = r.expected))
    ∧ (up → p.dstMod ≠ s'.moduleNum → Runs (.write i p t) s (fun u => u = s'.bump Obj.TRN_MISROUTED 0))
    ∧ (up → p.dstMod = s'.moduleNum → s'.moduleNum ≠ 0xFFFF → p.keyId = 0 → trailer = false →
      Runs (.write i p t) s (fun u => u = s'.bump Obj.TRN_ICV_ERR 0))

/-- ACK, NAK SEQ, NOT_READY, NO_FLOW and STATUS, and FLUSH_ACK, at the flow or the entry they name. An ACK releases the
packets below ACK_PSN, and what is sent after it has OPEN clear; NAK SEQ releases them and sends the rest again; NAK
NOT_READY begins a backoff of TRN_NR_BACKOFF_NS doubled for each in a row, at most 64 µs; NAK NO_FLOW opens a new
incarnation under which the unacknowledged packets are numbered from 0 and sent again with their BIRTH; NAK STATUS takes
the refused packet out of the flow, and the packets after it keep their places; FLUSH_ACK with OK completes the WRITE
that its TAG names. The packets of these clauses end no message, so that only the flow changes. -/
def Obligations.AnswersAtSender : Prop :=
  ∀ (s : State) (i : PortNo) (p : Pkt) (f : Flow) (h : Held) (hs : List Held) (t : Nat),
    let s' := s.at t
    let k := psnDist h.pkt.psn p.ackPsn
    let freed : Flow := { f with unacked := f.unacked.drop k, expiries := 0, notReady := 0, lastSent := s'.now }
    let others := fun (u : State) => (∀ j, j ≠ p.flow → u.flow? j = s'.flow? j) ∧ u.trn.queues = s'.trn.queues
    f.unacked = h :: hs → f.queued = [] →
    ((0 < k → k ≤ f.unacked.length → (∀ g ∈ f.unacked.take k, g.pkt.last = true) →
        (∀ g ∈ f.unacked.take k, g.purpose = .response) → f.part = [] →
        (Answers s' i 7 p f → Runs (.ack i p t) s (fun u => u.flow? p.flow = some { freed with acked := true }
          ∧ others u ∧ u.out = s'.out ∧ u.mem = s'.mem))
        ∧ (Answers s' i 8 p f → Runs (.nakSeq i p t) s (fun u => u.flow? p.flow = some (freed.resent s'.now) ∧ others u)))
      ∧ (Answers s' i (8 + 256) p f → k = 0 → Runs (.nakNotReady i p t) s (fun u => u.flow? p.flow = some { f with
            notReady := f.notReady + 1,
            backoffTill := some (s'.now + min 64000 (s'.obj Obj.TRN_NR_BACKOFF_NS 0 * 2 ^ f.notReady)) }
          ∧ Counted Obj.TRN_NR_RX 0 s' u ∧ u.out = s'.out ∧ others u))
      ∧ (Answers s' i (8 + 256 * 2) p f →
        Runs (.nakNoFlow i p t) s (fun u => ∃ g, u.flow? p.flow = some g ∧ g.flowT = s'.now ∧ g.acked = false
          ∧ g.nextPsn = f.unacked.length ∧ g.unacked.map (fun x => x.pkt.psn) = List.range f.unacked.length
          ∧ g.unacked.map (fun x => x.pkt.birth) = f.unacked.map (fun x => x.pkt.birth) ∧ others u))
      ∧ (Answers s' i (8 + 256 * 3) p f → p.ackPsn = (h.pkt.psn + 1) % 2 ^ 24 → h.pkt.psn < 2 ^ 24 →
        p.status ≠ .epochStale → h.purpose = .response →
        Runs (.nakStatus i p t) s (fun u => ∃ g, u.flow? p.flow = some g
          ∧ g.unacked.map (fun x => x.pkt) = hs.map (fun x => x.pkt) ∧ g.acked = f.acked ∧ others u))
      ∧ ∀ q e, Answers s' i 9 p f → s'.trn.queues = [(q, { s'.queue q with entries := [e] })] → e.w.flush = true →
        e.tag = p.tag → e.w.dstMod = p.srcMod → e.ended = none → p.status = .ok →
        Runs (.flushAck i p t) s (fun u => (u.queue q).entries = []))

/-- The sender's timers: backoff, the 8 µs timer, failure, idling, a wait for an entry; and the receiver's. A backoff
that has passed sends the unacknowledged packets again. The timer, 8 µs after the oldest packet was sent, counts in
TRN_TIMER_EXP, sends again, and counts one more expiry in a row while these are fewer than TRN_RETRY_MAX. A flow with a
packet older than 400 µs fails: it closes, TRN_FLOW_FAIL counts and event 0x30 is raised. A flow idle for
TRN_FLOW_IDLE_NS closes. The oldest message that waits for a free entry takes one, and the later ones for the same flow
follow it. A receiver entry is freed 500 µs + δ after its newest BIRTH. -/
def Obligations.FlowTimers : Prop :=
  ∀ (s : State) (i : Nat) (f : Flow) (t : Nat),
    let s' := s.at t
    let others := fun (u : State) => ∀ j, j ≠ i → u.flow? j = s'.flow? j
    (s'.flow? i = some f → f.queued = [] →
      (∀ b, f.backoffTill = some b → b ≤ s'.now → Runs (.nrBackoffExpiry i t) s (fun u =>
        u.flow? i = some (Flow.resent { f with backoffTill := none } s'.now) ∧ others u))
      ∧ (f.unacked ≠ [] → 8000 ≤ s'.now - f.lastSent → f.backoffTill = none →
        f.expiries + 1 < s'.obj Obj.TRN_RETRY_MAX 0 →
        Runs (.trnTimerExpiry i t) s (fun u => u.flow? i = some (Flow.resent { f with expiries := f.expiries + 1 } s'.now)
          ∧ Counted Obj.TRN_TIMER_EXP 0 s' u ∧ others u))
      ∧ (f.part = [] → (∀ h ∈ f.unacked, h.purpose = .response) → (∃ h ∈ f.unacked, 0 < h.sent ∧ 400000 < s'.age h.pkt) →
        Runs (.flowFail i t) s (fun u => u.flow? i = none ∧ Counted Obj.TRN_FLOW_FAIL 0 s' u ∧ Raised 0x30 s' u ∧ others u))
      ∧ (f.unacked = [] → s'.obj Obj.TRN_FLOW_IDLE_NS 0 ≤ s'.now - f.lastBusy →
        Runs (.flowIdleExpiry i t) s (fun u => u.flow? i = none ∧ others u ∧ u.trn.rx = s'.trn.rx ∧ u.out = s'.out)))
    ∧ (∀ dst cls lane h hs ws, s'.trn.waiting = (dst, cls, lane, h :: hs) :: ws → s'.flowOf dst cls lane = none →
      NMap.get? s'.trn.flows 0 = none →
      Runs (.flowEntryWaitEnd t) s (fun u =>
        u.trn.waiting = ws.filter (fun w => !(w.1 == dst && w.2.1 == cls && w.2.2.1 == lane)) ∧ (u.flow? 0).isSome = true))
    ∧ ∀ src flow r, NMap.get? s'.trn.rx (rxKey src flow) = some r → r.m + 500000 + s'.delta ≤ s'.now →
      Runs (.receiverFlowExpiry src flow t) s (fun u => NMap.get? u.trn.rx (rxKey src flow) = none
        ∧ (∀ k, k ≠ rxKey src flow → NMap.get? u.trn.rx k = NMap.get? s'.trn.rx k) ∧ OnlyParts [.trn] s' u)

/-- TRN_QMODIFY, the doorbells, and the places of a context. A modify to READY of a queue in RESET by the FM with valid
fields gives it the fields, HEAD and TAIL 0 and the caller's LD; a modify to RESET from ERROR, or from READY with
nothing outstanding, changes its state alone; a modify to ERROR of a READY queue with nothing outstanding leaves it in
ERROR with FLUSHED and counts. A doorbell of the owner within the ring moves the producer index of an SQ, or the
consumer index of a CQ; another is refused and counted. An entry with a reserved OP that comes to the head so completes
with TRANSPORT_ERROR, an error of the queue. A fetched context is cached again; one idle in HBM moves to the least free
place of the host memory that its LD has granted, where its owner's 64 bytes stand. -/
def Obligations.QueueContexts : Prop :=
  ∀ (s : State) (q : QueueNo) (m : QModify) (via : Via) (o : OwnerNo) (index t : Nat),
    let s' := s.at t
    let v := s'.queue q
    let vs := s.queue q
    (s'.running = true → s'.isPriv via = true → v.state = 0 → s'.ownsPallet 16 m.pallet = true → m.keyId = 0 →
      qmodValid m s' 16 = true → s'.cachedQueues.length < 16384 →
      Runs (.qmodifyReady via q m t) s (fun u => u.queue q = { Queue.reset with
          state := 1, typ := m.typ, relaxed := m.relaxed, pallet := m.pallet, ld := 16, cls := m.cls, cqn := m.cqn,
          logSize := m.logSize, ring := m.ring, lastUse := s'.now, errStatus := v.errStatus, pcount := v.pcount,
          tErr := v.tErr }
        ∧ (∀ j, j ≠ q.val → u.queue j = s'.queue j) ∧ OnlyParts [.trn, .dict, .out] s' u))
    ∧ (s.running = true → s.isPriv via = true → vs.state = 3 ∨ (vs.state = 1 ∧ vs.outst = 0) →
      s.ownsPallet 16 m.pallet = true → vs.held = [] →
      Runs (.qmodifyReset via q m) s (fun u => u.queue q = { vs with state := 0, heldSince := none }
        ∧ (∀ j, j ≠ q.val → u.queue j = s.queue j) ∧ OnlyParts [.trn, .dict, .out] s u))
    ∧ (s'.running = true → s'.isPriv via = true → v.state = 1 → v.entries = [] → v.outst = 0 →
      s'.ownsPallet 16 m.pallet = true →
      Runs (.qmodifyError via q m t) s (fun u => (u.queue q).state = 3 ∧ (u.queue q).errStatus = statusCode .flushed
        ∧ (u.queue q).tErr = s'.now ∧ Counted Obj.TRN_Q_ERRORS 0 s' u ∧ (∀ j, j ≠ q.val → u.queue j = s'.queue j)))
    ∧ (v.state = 1 → v.typ = 0 → v.ld = o → v.place = 0 → s'.trn.missed = [] → index < 2 ^ 32 →
      (index + 2 ^ 32 - v.head) % 2 ^ 32 ≤ v.size →
      let op := s'.winNat v.ld (v.ring + v.head % v.size * 64) 1
      (index = v.head ∨ ListedOp op →
        Runs (.queueDoorbell o q index t) s (fun u => u.queue q = { v with tail := index }
          ∧ Counted Obj.HST_DOORBELLS o s' u ∧ (∀ j, j ≠ q.val → u.queue j = s'.queue j) ∧ OnlyParts [.trn, .dict] s' u))
      ∧ (index ≠ v.head → ¬ ListedOp op → v.waits = none → v.relaxed = false → v.entries = [] → s'.stalledQueue q = false →
        Runs (.queueDoorbell o q index t) s (fun u => (u.queue q).head = (v.head + 1) % 2 ^ 32 ∧ (u.queue q).entries = []
          ∧ (u.queue q).errStatus = statusCode .transportError ∧ Counted Obj.TRN_Q_ERRORS 0 s' u)))
    ∧ (v.state = 1 → v.typ = 2 → v.ld = o → v.held = [] → index < 2 ^ 32 → (v.tail + 2 ^ 32 - index) % 2 ^ 32 ≤ v.size →
      Runs (.cqDoorbell o q index t) s (fun u => u.queue q = { v with head := index }
        ∧ (∀ j, j ≠ q.val → u.queue j = s'.queue j) ∧ OnlyParts [.trn, .dict] s' u))
    ∧ (v.ld ≠ o → Runs (.cqDoorbell o q index t) s (fun u => u = (s'.bump Obj.HST_DOORBELLS o).bump Obj.HST_DB_REFUSED o))
    ∧ (v.fetching = true → (∀ d ∈ s'.host.dmas, d.purpose ≠ .context q) → s'.trn.missed = [] →
      s'.cachedQueues.length < 16384 →
      Runs (.contextFetchDone q t) s (fun u => u.queue q = { v with place := 0, fetching := false, lastUse := s'.now }
        ∧ OnlyParts [.trn] s' u))
    ∧ (v.place = 1 → v.fetching = false → s'.obj Obj.TRN_CTX_IDLE_US 0 * 1000 ≤ s'.now - v.lastUse →
      (s'.ld v.ld).busMaster = true → ∀ k,
      leastBelow (s'.objField Obj.TRN_CTX_HOST v.ld 8 8 / 256) (fun k =>
        s'.trn.queues.all (fun e => !(e.2.place == 2 && e.2.ld == v.ld && e.2.hostSlot == k))) = some k →
      let a := hostAddr v.ld (s'.objField Obj.TRN_CTX_HOST v.ld 0 8 + 256 * k)
      Runs (.contextIdleMove q t) s (fun u => u.queue q = { v with place := 2, hostSlot := k }
        ∧ memRead u.host.hostMem a 64 = queueBytes v
        ∧ (∀ x, x < a ∨ a + 256 ≤ x → NMap.get 0 u.host.hostMem x = NMap.get 0 s'.host.hostMem x)
        ∧ (∀ j, j ≠ q.val → u.queue j = s'.queue j) ∧ OnlyParts [.trn, .host, .out, .ids, .free] s' u))

/-- Work queue entries start: SEND, SEND_IMM, WRITE, WRITE_IMM, READ, WAIT_CQ and NOP. The entry at the head of a READY
send queue that may start, with no entry of a reserved OP behind it, leaves the ring: HEAD and OUTST rise by one and the
entry is outstanding. A SEND, SEND_IMM, WRITE or WRITE_IMM whose local registration permits it queues its packets of at
most 4,096 bytes on the flow of its destination and class, and a READ its one request; where that flow is in backoff
they wait there. WAIT_CQ for a count not yet reached stops the queue; when the count is reached it stops it no more. NOP
completes at once. Where no entry completes, no other queue changes. -/
def Obligations.WorkQueueEntries : Prop :=
  ∀ (s : State) (q : QueueNo) (w : Wqe) (k : Nat) (f : Flow) (t : Nat),
    let s' := s.at t
    let v := s'.queue q
    let g := s'.reg (bitsOf w.lkey 0 16)
    let started := fun (u : State) => (u.queue q).head = (v.head + 1) % 2 ^ 32 ∧ (u.queue q).outst = v.outst + 1
      ∧ (u.queue q).entries.length = v.entries.length + 1 ∧ (u.queue q).lastUse = s'.now
      ∧ ∀ j, j ≠ q.val → u.queue j = s'.queue j
    let sent := fun (op n : Nat) (u : State) => started u ∧ u.mem = s'.mem ∧ u.host = s'.host
      ∧ ∃ new, u.flow? k = some (f.with' new s'.now) ∧ new.length = n
        ∧ ∀ h ∈ new, h.op = op ∧ h.purpose = .entry q v.head ∧ h.pkt.dstMod = w.dstMod ∧ h.pkt.epoch = s'.curEpoch
    let quiet := HeadListed s' q ((v.head + 1) % 2 ^ 32)
    let ok := fun (op : Nat) (use : RegUse) => quiet ∧ mayStart s' q op w = true ∧ wqeValid w op = true ∧ 0 < w.len
      ∧ regCheck s' w.lkey v.keyId w.laddr w.len use = none ∧ g.pallet = v.pallet ∧ g.ld = v.ld
      ∧ s'.vHostLds g.pallet w.laddr w.len = [] ∧ SendsOn s' w.dstMod v.cls s'.curEpoch k f ∧ v.relaxed = false
    let n := ceilDiv w.len 4096
    (s'.vMapped g.pallet w.laddr w.len = true →
      (ok 0x01 .localRead → Runs (.wqeSend q w t) s (sent 0x01 n))
      ∧ (ok 0x02 .localRead → Runs (.wqeSendImm q w t) s (sent 0x02 n))
      ∧ (ok 0x03 .localRead → Runs (.wqeWrite q w t) s (sent 0x03 n))
      ∧ (ok 0x04 .localRead → Runs (.wqeWriteImm q w t) s (sent 0x04 n)))
    ∧ (s'.vWritable g.pallet w.laddr w.len = true → ok 0x05 .localWrite → Runs (.wqeRead q w t) s (sent 0x05 1))
    ∧ (mayStart s' q 0x20 w = true → wqeValid w 0x20 = true → w.wcq ≠ q.val → (s'.queue w.wcq).typ = 2 →
      (s'.queue w.wcq).ld = v.ld → (s'.queue w.wcq).pallet = v.pallet → waitDone s' w.wcq w.wcount = false →
      Runs (.waitCq q w t) s (fun u => started u ∧ (u.queue q).waits = some (w.wcq, w.wcount)))
    ∧ (∀ c n, v.waits = some (c, n) → waitDone s' c n = true → HeadListed s' q v.head →
      ((∀ e ∈ v.entries, e.op ≠ 0x20 ∨ e.ended.isSome = true) →
        Runs (.waitCqSatisfied q t) s (fun u => u.queue q = { v with waits := none } ∧ OnlyParts [.trn] s' u))
      ∧ ∀ e, v.entries = [e] → e.op = 0x20 → e.ended = none → v.cqn ≠ q.val →
        Runs (.waitCqSatisfied q t) s (fun u => (u.queue q).waits = none ∧ (u.queue q).entries = []
          ∧ (u.queue q).head = v.head))
    ∧ (quiet → mayStart s' q 0x21 w = true → wqeValid w 0x21 = true → v.entries = [] → v.cqn ≠ q.val →
      Runs (.nop q w t) s (fun u => (u.queue q).head = (v.head + 1) % 2 ^ 32 ∧ (u.queue q).entries = []))

/-- REGISTER, REVOKE, the drain of a revoke, and the return of an index. A REGISTER taken from a CMD ring, of a 64-byte-
aligned range in an owned pallet, takes the lowest unused index, VALID, under the generation after the last (0x001 after
0xFFF). REVOKE of a VALID registration of the LD makes it REVOKING; once nothing that passed its check is outstanding it
is DRAINED and TRN_REVOKES counts; 500 µs later its index is FREE. No other registration changes. -/
def Obligations.Registrations : Prop :=
  ∀ (s : State) (o : OwnerNo) (r : RingNo) (tag access va length rkey t : Nat) (p : PalletNo) (i : Fin 65536),
    let s' := s.at t
    let v := s'.reg i
    let only := fun (u : State) => (∀ j, j ≠ i.val → u.reg j = s'.reg j) ∧ u.trn.queues = s'.trn.queues ∧ u.mem = s'.mem
    ((takeEntry s' o r).isSome = true → access < 16 → va % 64 = 0 → length % 64 = 0 → 0 < length → va + length ≤ 2 ^ 48 →
      s'.ownsPallet o p = true → leastBelow 65536 (fun j => (NMap.get? s'.trn.regs j).isNone) = some i.val →
      Runs (.register o r tag p access 0 va length t) s (fun u => u.reg i = { v with
          state := 1, lwrite := bitOf access 0, rwrite := bitOf access 1, rread := bitOf access 2, ratomic := bitOf access 3,
          pallet := p, ld := o, gen := if v.gen = 0xFFF then 1 else v.gen + 1, keyId := 0, va := va, length := length,
          inflight := 0, source := none } ∧ only u))
    ∧ ((takeEntry s' o r).isSome = true → bitsOf rkey 0 16 = i.val → v.ld = o → v.state = 1 → v.gen = bitsOf rkey 16 12 →
      Runs (.revoke o r tag rkey t) s (fun u =>
        u.reg i = { v with state := 2, tRevoke := s'.now, source := some (o, r, tag) } ∧ only u))
    ∧ (v.state = 2 → v.inflight = 0 → Runs (.revokeDrained i t) s (fun u =>
        u.reg i = { v with state := 3, tDrained := s'.now, source := none } ∧ Counted Obj.TRN_REVOKES 0 s' u ∧ only u))
    ∧ (v.state = 3 → v.tDrained + 500000 ≤ s'.now → Runs (.registrationFree i t) s (fun u =>
        u.reg i = { v with state := 0, freedAt := s'.now } ∧ only u ∧ OnlyParts [.trn] s' u))

/-- RMF_MAP_STAGE, COMMIT and DISCARD and the purge of an epoch: what each search then finds. A staged record takes a
free position as a staged entry of no epoch. A commit that R270 accepts makes its number the current epoch: a search
under it finds, for each KIND and KEY, the record of the staged map, and a search under every other number finds what it
found before. A commit that R270 does not accept changes nothing but the counters and the answer. A discard frees the
staged entries and clears every drop mark. A purge of the oldest of several held epochs with nothing in flight takes its
slot out of every entry; with something in flight nothing changes. -/
def Obligations.MapStagedCommittedPurged : Prop :=
  ∀ (s : State) (via : Via) (m : MapRecord) (epoch : Nat),
    (Served s via → mapValid m = true → m.remove = false →
      (∃ i < 1024 * s.tableBlocks 0, NMap.get? s.rmf.entries i = none) →
      Runs (.rmfMapStage via m) s (fun u =>
        (∃ i, NMap.get? u.rmf.entries i = some { record := m, emask := 0, staged := true, drop := false })
        ∧ Replied via .ok u ∧ u.rmf.epochs = s.rmf.epochs ∧ OnlyParts [.dict, .rmf, .out] s u))
    ∧ (Served s via → commitOk s epoch = true → s.epochSlot epoch = none →
      Runs (.rmfMapCommit via epoch) s (fun u => u.curEpoch = epoch
        ∧ (∀ kind key, u.record? epoch kind key = (newMap s).find? (fun r => r.kind == kind && r.key == key))
        ∧ (∀ e kind key, e ≠ epoch → u.record? e kind key = s.record? e kind key)
        ∧ Replied via .ok u ∧ OnlyParts [.dict, .rmf, .out] s u))
    ∧ (Served s via → commitOk s epoch = false →
      Runs (.rmfMapCommit via epoch) s (fun u =>
        u = ((s.bump Obj.BRK_DICT_WRITES 0).bump Obj.RMF_MAP_REFUSED 0).reply via .accessDenied []))
    ∧ (Served s via → Runs (.rmfMapDiscard via) s (fun u => (∀ x ∈ u.rmf.entries, x.2.staged = false ∧ x.2.drop = false)
        ∧ u.rmf.overflow = false ∧ u.rmf.epochs = s.rmf.epochs ∧ OnlyParts [.dict, .rmf, .out] s u))
    ∧ ∀ (e next : Epoch) (rest : List Epoch), s.rmf.epochs = e :: next :: rest →
      (inFlight s e.number = 0 → Runs .epochPurge s (fun u => u.rmf.epochs = next :: rest ∧ Counted Obj.RMF_PURGES 0 s u
        ∧ (∀ x ∈ u.rmf.entries, bitOf x.2.emask e.slot = false ∧ (x.2.staged = true ∨ x.2.emask ≠ 0))
        ∧ OnlyParts [.dict, .rmf] s u))
      ∧ (inFlight s e.number ≠ 0 → Runs .epochPurge s (fun u => u = s))

/-- GO of a rack command slot: LOAD, STORE, ATOMIC, PUT and GET become a message to the region's HOME. On a free slot
with fields in range and a region of the map, each command makes the slot BUSY with a new tag, counts, and queues its
packets on the flow to HOME (here one that waits out a backoff, so that nothing leaves yet): the request of LOAD and GET
with the length in AUX, the operand words of ATOMIC, the brick-store bytes of STORE and PUT in packets of at most 4,096
bytes. Each packet names the region, the offset and the tag. No brick changes. A GO while the slot is BUSY is ignored.
-/
def Obligations.RackCommands : Prop :=
  ∀ (s : State) (b : BrickNo) (n : Fin 16) (core : CoreNo) (c : RackCmd) (t : Nat),
    let s' := s.at t
    let p := (s'.palletOf b).getD 0
    let epoch := s'.stepEpoch p
    let data := (s'.brick b).bytes c.laddr c.len
    let words := toBytes 8 c.opnd1 ++ (if c.aop = 2 then toBytes 8 c.opnd2 else [])
    let go := fun (op code cls : Nat) (bytes : List Byte) (aux : Option Nat) (cmd : Instr) =>
      ∀ (g : MapRecord) (k : Nat) (f : Flow), (s'.rackSlot b n).busy = false → rackValid op c = true →
        s'.record? epoch 2 c.region = some g → c.offset % rackAlign op c = 0 → SendsOn s' g.home cls epoch k f →
        Runs cmd s (fun u => ∃ new : List Held,
          u.flow? k = some (f.with' new s'.now)
          ∧ new.length = max 1 (ceilDiv bytes.length 4096) ∧ (new.map (fun h => h.pkt.data)).flatten = bytes
          ∧ (∀ h ∈ new, h.op = code ∧ h.pkt.rkey = c.region ∧ h.pkt.tag = s'.trn.nextTag ∧ h.pkt.dstMod = g.home
            ∧ h.pkt.epoch = epoch ∧ h.pkt.data.length ≤ 4096)
          ∧ (∀ h, new.head? = some h → h.pkt.addr = c.offset ∧ ∀ a, aux = some a → h.pkt.aux = a)
          ∧ (let r := u.rackSlot b n
             r.op = op ∧ r.cmd = c ∧ r.busy = true ∧ r.complete = false ∧ r.tag = s'.trn.nextTag ∧ r.dst = g.home)
          ∧ Counted (rackCounter op) 0 s' u ∧ OnlyParts [.dict, .trn, .rmf] s' u)
    go 1 0x20 3 [] (some c.len) (.load b core n c t)
    ∧ go 2 0x22 3 data none (.store b core n c t)
    ∧ go 3 0x23 3 words (some (c.aop + b2n c.w64 * 16)) (.atomic b core n c t)
    ∧ go 4 0x28 2 data none (.put b core n c t)
    ∧ go 5 0x29 2 [] (some c.len) (.get b core n c t)
    ∧ ((s'.rackSlot b n).busy = true → Runs (.load b core n c t) s (fun u => u = s') ∧ Runs (.put b core n c t) s (fun u => u = s'))

/-- RM_STORE, RM_PUT, RM_LOAD, RM_GET_REQ and the seven atomics at HOME: the bytes stored and the answer queued. A
packet in sequence that names a region of this module which its sender may use is acknowledged. RM_STORE and RM_PUT
store their data at BASE plus the offset, and the last packet of an RM_PUT whose IMM names a counter begins a flush of
its range, which the ARRIVE waits for; RM_LOAD and RM_GET_REQ queue the bytes read as the answer to the sender, and
change no byte, an RM_LOAD of a home register held here the register's bytes; an atomic stores the sum, the operand, the
swapped word, the larger, the smaller, the OR or the AND of the word, and queues the word's prior value. A packet whose
region this module does not hold is refused with EPOCH_STALE and stores nothing. -/
def Obligations.RackPacketsAtHome : Prop :=
  ∀ (s : State) (i : PortNo) (p : Pkt) (r : RxFlow) (g : MapRecord) (region t : Nat),
    let s' := s.at t
    let pal := (s'.reg (bitsOf g.rkey 0 16)).pallet
    let va := g.base + p.addr
    let stored := fun (u : State) (bs : List Byte) =>
      u.mem = (s'.vWrite pal va bs).mem ∧ u.host.hostMem = (s'.vWrite pal va bs).host.hostMem
    let n := if bitOf p.aux 4 then 8 else 4
    let old := s'.vNat pal va n
    let a := ofBytes (p.data.take 8) % 2 ^ (8 * n)
    let answered := fun (u : State) (k : Nat) (f : Flow) (op : Nat) (bs : List Byte) => ∃ new : List Held,
      u.flow? k = some (f.with' new s'.now) ∧ (new.map (fun h => h.pkt.data)).flatten = bs
        ∧ ∀ h ∈ new, h.op = op ∧ h.pkt.tag = p.tag ∧ h.pkt.dstMod = p.srcMod
    let atomic := fun (cmd : Instr) (v : Nat) => ∀ k f, Arrives s' i 0x23 p r → RackHere s' region 0x23 n p g →
      s'.vInHbm pal va n = true → SendsOn s' p.srcMod 3 p.epoch k f →
      Runs cmd s (fun u => Acked s' u i p r ∧ stored u (toBytes n v) ∧ answered u k f 0x24 (toBytes 8 old))
    (Arrives s' i 0x22 p r → p.data.length ≤ 4096 → RackHere s' region 0x22 p.data.length p g →
      Runs (.rmStore i p region t) s (fun u => Acked s' u i p r ∧ stored u p.data))
    ∧ (Arrives s' i 0x28 p r → p.data.length ≤ 4096 → RackHere s' region 0x28 p.data.length p g →
      let asks := p.last = true ∧ bitsOf p.imm 0 17 ≠ 0x1FFFF
      (¬ asks → Runs (.rmPut i p region t) s (fun u => Acked s' u i p r ∧ stored u p.data))
      ∧ (asks → Runs (.rmPut i p region t) s (fun u => Acked s' u i p r
        ∧ u.mem.hbm = (s'.vWrite pal va p.data).mem.hbm
        ∧ NMap.get? u.mem.flushes s'.ids = some {
            what := .putArrive (bitsOf p.imm 0 17) (bitsOf p.dq 0 16), pallet := pal, va := va, len := p.data.length })))
    ∧ (∀ k f, Arrives s' i 0x20 p r → SendsOn s' p.srcMod 3 p.epoch k f →
      let load := fun (bs : List Byte) =>
        Runs (.rmLoad i p region t) s (fun u => Acked s' u i p r ∧ stored u [] ∧ answered u k f 0x21 bs)
      (s'.homeAt region p.addr = none → RackHere s' region 0x20 p.aux p g → load (s'.vRead pal va p.aux))
      ∧ ∀ h, s'.homeAt region p.addr = some h → load (h.bytes.take p.aux))
    ∧ (∀ k f, Arrives s' i 0x29 p r → RackHere s' region 0x29 p.aux p g → SendsOn s' p.srcMod 2 p.epoch k f →
      Runs (.rmGetReq i p region t) s (fun u => Acked s' u i p r ∧ stored u [] ∧ answered u k f 0x2A (s'.vRead pal va p.aux)))
    ∧ atomic (.fetchAdd i p region t) ((old + a) % 2 ^ (8 * n))
    ∧ atomic (.swap i p region t) a
    ∧ atomic (.cas i p region t)
        (if old = a then ofBytes ((p.data.drop 8).take 8) % 2 ^ (8 * n) else old)
    ∧ atomic (.fetchMaxu i p region t) (max old a)
    ∧ atomic (.fetchMinu i p region t) (min old a)
    ∧ atomic (.fetchOr i p region t) (old ||| a)
    ∧ atomic (.fetchAnd i p region t) (old &&& a)
    ∧ (Arrives s' i 0x22 p r → s'.record? p.epoch 2 region = none → p.data.length ≤ 4096 →
      Runs (.rmStore i p region t) s (fun u => u.mem = s'.mem ∧ u.host.hostMem = s'.host.hostMem
        ∧ Refused .epochStale u i))

/-- RM_LOAD_RESP, RM_GET_RESP, RM_ATOMIC_RESP, RMF_DEAD, COLL_ABORT and an abort that is not acknowledged. The answer of
a busy command, which no move's read of a home register has asked for, puts its data in the brick store at LADDR plus
its offset; the last of it, or the word of an atomic, completes the command with OK, and no ARRIVE is sent where ARR_ID
names none. RMF_DEAD written 0 clears the mark and nothing else. A COLL_ABORT of a step is noted and counted once, ends
the entry of the running step that it names with TARGET_DEAD, and raises event 0x42 where the map has the group; one of
a step already aborted is acknowledged and changes nothing more. An abort of the origin's that a member has not
acknowledged 50 µs after T_DETECT raises event 0x30. -/
def Obligations.RackAnswersAndAborts : Prop :=
  ∀ (s : State) (i : PortNo) (p : Pkt) (r : RxFlow) (b : BrickNo) (n : Fin 16) (v : RackSlot) (t : Nat),
    let s' := s.at t
    let mine := fun (op : Nat) => rackOf s' [op] p = some (b.val, n.val, v) ∧ v.op = op ∧ v.cmd.arrId = 0x1FFFF
      ∧ s'.rackSlot b n = v
    let data := fun (op code : Nat) (cmd : Instr) => Arrives s' i code p r → mine op → p.data.length ≤ 4096 →
      (∀ m ∈ s'.req.out, m.state = .check → m.checkTag ≠ p.tag) →
      p.data.length ≤ v.missing → p.addr + p.data.length ≤ v.cmd.len →
      Runs cmd s (fun u => Acked s' u i p r ∧ u.brick b = (s'.brick b).write (v.cmd.laddr + p.addr) p.data
        ∧ (∀ b', b' ≠ b.val → u.brick b' = s'.brick b')
        ∧ (u.rackSlot b n).missing = v.missing - p.data.length
        ∧ (p.data.length < v.missing → (u.rackSlot b n).busy = v.busy ∧ (u.rackSlot b n).complete = v.complete)
        ∧ (p.data.length = v.missing → (u.rackSlot b n).busy = false ∧ (u.rackSlot b n).complete = true
          ∧ (u.rackSlot b n).status = 0))
    data 1 0x21 (.rmLoadResp i p t)
    ∧ data 5 0x2A (.rmGetResp i p t)
    ∧ (Arrives s' i 0x24 p r → mine 3 → Runs (.rmAtomicResp i p t) s (fun u => Acked s' u i p r
        ∧ u.rackSlot b n = { v with result := ofBytes (p.data.take 8), busy := false, complete := true, status := 0 }
        ∧ u.array = s'.array))
    ∧ (∀ (via : Via) (m : Fin 65536), Served s via → Runs (.rmfDeadClear via m) s (fun u => u.obj Obj.RMF_DEAD m = 0
        ∧ (∀ k : Fin 65536, k ≠ m → u.obj Obj.RMF_DEAD k = s.obj Obj.RMF_DEAD k) ∧ OnlyParts [.dict, .out] s u))
    ∧ (∀ a : CollAbort, Arrives s' i 0x30 p r → (∀ x ∈ s'.rmf.aborted, x.2.1 ≠ a.rid ∨ x.2.2.1 ≠ a.step) →
      let noted := fun (gid : Nat) (u : State) => Acked s' u i p r ∧ Counted Obj.RMF_COLL_ABORTS 0 s' u
        ∧ u.rmf.aborted = (gid, a.rid, a.step, a.tDetect) :: s'.rmf.aborted
      (s'.groupOf s'.curEpoch a.rid = none →
        (s'.byRid a.rid = none → Runs (.collAbort i p a t) s (noted a.gid))
        ∧ ∀ slot q j e, s'.byRid a.rid = some (slot, q) → s'.entryOf q.pallet slot = some (j, e) → e.d.step = a.step →
          s'.req.calls = [] → (s'.pallet q.pallet).loaded.isSome = true →
          Runs (.collAbort i p a t) s (fun u => noted a.gid u ∧ ∃ run e', (u.pallet q.pallet).run = some run
            ∧ run.entries[j]? = some e' ∧ e'.ended = true ∧ e'.statuses = .targetDead :: e.statuses))
      ∧ ∀ g, s'.groupOf s'.curEpoch a.rid = some g → s'.byRid a.rid = none →
        Runs (.collAbort i p a t) s (fun u => noted g.key u ∧ ∃ e, u.events.head? = some e ∧ e.code = 0x42))
    ∧ (∀ a : CollAbort, Arrives s' i 0x30 p r → (∃ x ∈ s'.rmf.aborted, x.2.1 = a.rid ∧ x.2.2.1 = a.step) →
      Runs (.collAbort i p a t) s (fun u => Acked s' u i p r ∧ u.rmf = s'.rmf ∧ u.pallets = s'.pallets ∧ u.req = s'.req))
    ∧ ∀ (gid step member : Nat) (f : Flow) (h : Held), s'.trn.flows = [(0, f)] → h ∈ f.unacked →
      h.purpose = .abort gid step member → ofBytes ((h.pkt.data.drop 24).take 2) = s'.moduleNum →
      ofBytes ((h.pkt.data.drop 16).take 8) + 50000 ≤ s'.now →
      Runs (.collAbortUnreachable gid step member t) s (fun u => Raised 0x30 s' u ∧ u.trn = s'.trn ∧ u.rmf = s'.rmf)

/-- ORDER inserts, slack moves, a domain's rebase, and the burst that a port pops. An insert of an entity with room in
its block gives it VFT = max(V_d, F_e) + ⌈cost × 65,536 / weight⌉ in VFT order, and moves no other block. A slack move
carries the last entry of a block to the head of a following block that has more free positions. A domain whose V_d has
reached 2^62 is rebased by 2^62, and an earlier one is not. A port that is down pops nothing; a port whose domain holds
one eligible entry of an unshaped flow with one queued packet sends that packet under the flow's next PSN, empties the
entry, and takes its VFT as V_d. -/
def Obligations.FairQueueing : Prop :=
  ∀ (s : State) (d e cost k : Nat) (i : PortNo) (t : Nat),
    let s' := s.at t
    let place := fun (weight : Nat) (ok : Bool) =>
      let vft := max (NMap.get 0 s.asc.v d) (NMap.get 0 s.asc.f (d * 2 ^ 20 + e)) + ceilDiv (max cost 1 * 65536) (max weight 1)
      let b := s.orderBlockFor vft
      s.orderCount < s.tableBlocks 1 * 1024 → (s.orderBlock b).length < 1024 →
      Runs (.orderInsert d e cost) s (fun u =>
        u.orderBlock b = orderPlace (s.orderBlock b) { vft := vft, domain := d, eligible := ok, entity := e }
        ∧ ((s.orderBlock b).Pairwise (fun x y => x.vft ≤ y.vft) → (u.orderBlock b).Pairwise (fun x y => x.vft ≤ y.vft))
        ∧ (∀ j, j ≠ b → u.orderBlock j = s.orderBlock j) ∧ u.asc.waiting = s.asc.waiting
        ∧ Counted Obj.ASC_UPDATES 0 s u ∧ OnlyParts [.asc, .dict] s u)
    (d < 16 → place (s.classWeight (NMap.get 0 s.asc.ringClass e)) true)
    ∧ (∀ f, 16 ≤ d → d < 28 → s.flow? e = some f → place f.weight (s.shaperOk f.shaper cost))
    ∧ (28 ≤ d → Runs (.orderInsert d e cost) s (fun u => u = s))
    ∧ (∀ l x, s.orderBlock k = l ++ [x] → l.length < 1024 → 1023 < s.obj Obj.ASC_ORDER_SLACK 0 + l.length →
      k + 1 < s.tableBlocks 1 → (s.orderBlock (k + 1)).length < l.length → s.asc.waiting = [] →
      Runs (.slackMove k) s (fun u => u.orderBlock k = l ∧ u.orderBlock (k + 1) = x :: s.orderBlock (k + 1)
        ∧ (∀ j, j ≠ k → j ≠ k + 1 → u.orderBlock j = s.orderBlock j) ∧ Counted Obj.ASC_UPDATES 0 s u))
    ∧ (2 ^ 62 ≤ NMap.get 0 s.asc.v d → s.asc.order = [] → s.asc.waiting = [] →
      Runs (.domainRebase d) s (fun u => NMap.get 0 u.asc.v d = NMap.get 0 s.asc.v d - 2 ^ 62
        ∧ (∀ d', d' ≠ d → NMap.get 0 u.asc.v d' = NMap.get 0 s.asc.v d') ∧ Counted Obj.SCH_REBASES 0 s u))
    ∧ (NMap.get 0 s.asc.v d < 2 ^ 62 → Runs (.domainRebase d) s (fun u => u = s))
    ∧ ((s'.port i).isUp = false → Runs (.portBurstPop i t) s (fun u => u = s'))
    ∧ ∀ (x : OrderEntry) (f : Flow) (h : Held), (s'.port i).isUp = true → s'.asc.order = [(0, [x])] → s'.asc.waiting = [] →
      x.domain = 16 + i.val → x.eligible = true → s'.flow? x.entity = some f → f.port = i.val → s'.paused i f.cls = false →
      f.queued = [h] → f.unacked = [] → f.backoffTill = none → f.shaper = 0x1FFF → 0 < s'.obj Obj.TRN_WINDOW 0 →
      h.sent = 0 → h.op ≠ 0x11 → s'.dead h.pkt.dstMod = false →
      Runs (.portBurstPop i t) s (fun u => u.asc.order = [] ∧ NMap.get 0 u.asc.v (16 + i) = x.vft
        ∧ ∃ p fr g, u.out.head? = some (.pkt i h.op p fr) ∧ p.birth = s'.now ∧ p.psn = f.nextPsn ∧ p.data = h.pkt.data ∧ p.flow = x.entity
          ∧ p.flowT = f.flowT ∧ u.flow? x.entity = some g ∧ g.queued = [] ∧ g.nextPsn = (f.nextPsn + 1) % 2 ^ 24
          ∧ g.unacked = [{ h with pkt := p, sent := h.sent + 1 }])

/-- A shaper's tokens at a refill instant (R329). At an instant that is a multiple of SCH_REFILL_NS, with no captured
shaper waiting for it: every shaper with no frame queued on a flow bound to it has TOKENS 0; every other shaper has RATE
× SCH_REFILL_NS / 1,000 bytes more, capped at BURST. At an instant that is no multiple, nothing changes. -/
def Obligations.ShaperRefill : Prop :=
  ∀ (s : State) (t : Nat),
    let s' := s.at t
    let period := s'.obj Obj.SCH_REFILL_NS 0
    (s'.now % period = 0 → (∀ g ∈ s'.dict.groups, g.point ≠ .refill) →
      Runs (.shaperRefill t) s (fun u => ∀ k < 4096,
        u.tokensOf k = if ∀ e ∈ s'.trn.flows, e.2.shaper = k → e.2.queued = [] then 0
          else min (s'.shaperBurst k) (s'.tokensOf k + s'.shaperRate k * period / 1000)))
    ∧ (s'.now % period ≠ 0 → Runs (.shaperRefill t) s (fun u => u = s'))

/-- PAL_IMAGE_APPLY, PALLET_SAVE_DONE and PALLET_LOAD_DONE: loading, saving and unloading a pallet. A captured PAL_IMAGE
value 0 makes a READY pallet without a step SAVING with nothing to load. A value whose image is installed and fits makes
an EMPTY pallet without a marked brick LOADING with that image, and counts in PAL_LOADS; a value whose manifest is
refused changes no pallet and counts in PAL_LOAD_REFUSED. At the end of saving the save holds every brick's memories,
and a pallet with nothing to load is EMPTY; while a scratch tile is not written back yet, the saving goes on. At the end
of loading every brick of the rectangle holds the records of the image's variant, and the pallet is READY; a repeated
march test that fails leaves the pallet EMPTY and counts; a restore of a save that is not there counts in
PAL_RESTORE_MISMATCH. -/
def Obligations.PalletImages : Prop :=
  ∀ (s : State) (p : PalletNo) (g : Group) (v t : Nat),
    let s' := s.at t
    let q := s'.pallet p
    let r := s'.rect p
    let captured := s'.dict.groups.find? (fun g => g.point == .palletIdle && g.pallet == some p.val) = some g
      ∧ g.items = [(objKey Obj.PAL_IMAGE p, v)] ∧ q.run = none
    let dropped := fun (u : State) => ∀ x ∈ u.dict.groups, x.id ≠ g.id
    (captured → bitsOf v 0 48 = 0 → q.state = .ready → bitOf v 68 = false → bitOf v 76 = false →
      Runs (.palImageApply p t) s (fun u => dropped u ∧ u.obj Obj.PAL_IMAGE p = v ∧ OnlyPallet p s' u
        ∧ u.pallet p = { q with
            state := .saving, change := some { target := none, saveSlot := none, restoreSlot := none } }))
    ∧ (∀ l, captured → bitsOf v 0 48 ≠ 0 → q.state = .empty → bitOf v 76 = false → (∀ b ∈ r.bricks, s'.marked b = false) →
      loadedFor s' p (bitsOf v 0 48) = some l →
      Runs (.palImageApply p t) s (fun u => dropped u ∧ u.obj Obj.PAL_IMAGE p = v ∧ Counted Obj.PAL_LOADS p s' u
        ∧ (u.pallet p).state = .loading ∧ (u.pallet p).loaded = some l ∧ (u.pallet p).faulted = false ∧ OnlyPallet p s' u
        ∧ ∀ k, k / 64 ∈ r.bricks → (u.counter k).state = .idle))
    ∧ (captured → bitsOf v 0 48 ≠ 0 → q.state = .empty → (∀ b ∈ r.bricks, s'.marked b = false) →
      loadedFor s' p (bitsOf v 0 48) = none →
      Runs (.palImageApply p t) s (fun u => dropped u ∧ u.pallets = s'.pallets ∧ Counted Obj.PAL_LOAD_REFUSED p s' u
        ∧ u.obj Obj.PAL_IMAGE p = s'.obj Obj.PAL_IMAGE p))
    ∧ (∀ c k l, q.state = .saving → q.change = some c → c.target = none → c.saveSlot = some k → q.loaded = some l →
      (scratchClean s' p = false → Runs (.palletSaveDone p t) s (fun u => u = s')) ∧
      (scratchClean s' p = true → Runs (.palletSaveDone p t) s (fun u => (u.pallet p).state = .empty ∧ (u.pallet p).loaded = none ∧ OnlyPallet p s' u
        ∧ ∃ x, NMap.get? (u.pallet p).saves k = some x ∧ x.imageId = l.manifest.imageId ∧ x.ncol = r.ncol
          ∧ ∀ i < r.size, NMap.get? x.stores i = some ((s'.brick (r.brick i)).store, (s'.brick (r.brick i)).acc))))
    ∧ ∀ c l, q.state = .loading → q.change = some c → c.target = some l →
      let recs := ((List.find? (fun v => v.1 == l.ncol) l.manifest.loads).map (·.2)).getD []
      (c.restoreSlot = none → q.retest = none → r.col0 + r.ncol ≤ 40 →
        Runs (.palletLoadDone p true t) s (fun u => (u.pallet p).state = .ready ∧ (u.pallet p).change = none
          ∧ (∀ i < r.size, (u.brick (r.brick i)).store = loadStore s' p recs i ∧ (u.brick (r.brick i)).acc = [])
          ∧ (∀ b, b ∉ r.bricks → u.brick b = s'.brick b) ∧ OnlyPallet p s' u ∧ OnlyParts [.array, .pallets] s' u))
      ∧ (∀ b, q.retest = some b → Runs (.palletLoadDone p false t) s (fun u => (u.pallet p).state = .empty
          ∧ (u.pallet p).loaded = none ∧ Counted Obj.PAL_LOAD_REFUSED p s' u))
      ∧ ∀ k, c.restoreSlot = some k → NMap.get? q.saves k = none → q.retest = none →
        Runs (.palletLoadDone p true t) s (fun u => (u.pallet p).state = .ready ∧ Counted Obj.PAL_RESTORE_MISMATCH p s' u)

/-- BRK_COMMIT captures the shadows in scope, BRK_STAGE_DISCARD drops them, and neither changes an object. BRK_COMMIT
with a defined scope answers the commit's number, which the next commit's exceeds by one; no pending shadow in scope is
left, each with a commit point stands in a group of that commit, and every object keeps its value. A reserved scope is
answered TRANSPORT_ERROR and changes no shadow. BRK_STAGE_DISCARD keeps exactly the shadows out of scope. -/
def Obligations.CommitsCaptured : Prop :=
  ∀ (s : State) (via : Via) (v t : Nat), Served s via →
    let s' := s.at t
    let id := s.dict.commitNext
    let kept := fun (u : State) => ∀ oid i, objKey oid i ≠ objKey Obj.BRK_DICT_WRITES 0 → u.obj oid i = s.obj oid i
    (bitsOf v 0 2 < 2 → (∀ e ∈ s.dict.shadow, ∀ p, palletOfKey e.1 = some p → p < 16) →
      Runs (.brkCommit via v t) s (fun u => u.dict.commitNext = (id + 1) % 2 ^ 32
        ∧ u.dict.shadow = s.dict.shadow.filter (fun e => !inScope v e.1)
        ∧ (∀ e ∈ s.dict.shadow, inScope v e.1 = true →
          pointOfKey e.1 ∈ [CommitPoint.refill, .stepBoundary, .palletIdle, .idle, .geometry] →
          ∃ g ∈ u.dict.groups, g.commit = id ∧ g.point = pointOfKey e.1 ∧ e ∈ g.items)
        ∧ (∀ g ∈ s.dict.groups, g ∈ u.dict.groups) ∧ kept u
        ∧ u.out = .answer via 0 .ok 4 (toBytes 4 id) :: s.out ∧ OnlyParts [.dict, .out] s' u))
    ∧ (2 ≤ bitsOf v 0 2 → Runs (.brkCommit via v t) s (fun u => u.dict.shadow = s.dict.shadow ∧ u.dict.groups = s.dict.groups
        ∧ kept u ∧ Replied via .transportError u ∧ OnlyParts [.dict, .out] s' u))
    ∧ (bitsOf v 0 2 < 2 → Runs (.brkStageDiscard via v) s (fun u =>
        u.dict.shadow = s.dict.shadow.filter (fun e => !inScope v e.1) ∧ u.dict.groups = s.dict.groups ∧ kept u
        ∧ Replied via .ok u ∧ OnlyParts [.dict, .out] s u))

/-- A bound code below 272 is refused and the object keeps its value; 272 is accepted (R69). A write of two bytes to any
FMT_ERR_BOUND object of a pallet through the privileged view: below 272 it is refused and changes neither the object's
value nor a pending shadow of it; at 272 exactly, and at every greater code of two bytes, it is accepted, and the shadow
holds it for the next commit. -/
def Obligations.ErrorBoundFloor : Prop :=
  ∀ (s : State) (via : Via) (p : PalletNo) (sub : Fin 5) (t : Nat) (a b : Byte), Served s via →
    let oid := Obj.FMT_ERR_BOUND_MXFP4 + sub.val
    let v := a.toNat + 256 * b.toNat
    let at' : ObjAddr := { index := 0x2200, sub := 1 + sub.val, inst := p.val }
    (v < 272 → Runs (.objectWrite via at' [a, b] t) s (fun u => u.obj oid p = s.obj oid p ∧ u.dict.shadow = s.dict.shadow
      ∧ ∃ st, st ≠ .ok ∧ Replied via st u))
    ∧ (272 ≤ v → Runs (.objectWrite via at' [a, b] t) s (fun u => u.obj oid p = s.obj oid p
      ∧ NMap.get? u.dict.shadow (objKey oid p) = some v ∧ Replied via .ok u))

/-- The staged selection objects of a pallet are refused together when their sum exceeds ATT_DENSE_LIMIT (R102). A
captured group of a pallet's selection objects at its step boundary: where sink + recent + selected pages exceed the
dense limit, with the group's values taken where it names the object, every selection object of the pallet keeps its
value, and the refusal is counted; where the sum is at most the limit, equal included, every object of the group has its
new value. The group waits no longer either way. -/
def Obligations.SelectionSums : Prop :=
  ∀ (s : State) (p : PalletNo) (g : Group) (t : Nat),
    let s' := s.at t
    let names := [Obj.ATT_SINK_PAGES, Obj.ATT_RECENT_PAGES, Obj.ATT_SEL_PAGES, Obj.ATT_DENSE_LIMIT]
    let sum := g.obj s' Obj.ATT_SINK_PAGES p + g.obj s' Obj.ATT_RECENT_PAGES p + g.obj s' Obj.ATT_SEL_PAGES p
    s'.dict.groups = [g] → g.point = .stepBoundary → g.pallet = some p.val → s'.calm p = true → g.items ≠ [] →
    (∀ e ∈ g.items, ∃ oid ∈ names, e.1 = objKey oid p) → (g.items.map (fun e => e.1)).Nodup →
    (g.obj s' Obj.ATT_DENSE_LIMIT p < sum → Runs (.commitGroupApply g.id t) s (fun u =>
      (∀ oid ∈ names, u.obj oid p = s'.obj oid p) ∧ u.dict.groups = [] ∧ Counted Obj.BRK_COMMIT_REFUSED 0 s' u))
    ∧ (sum ≤ g.obj s' Obj.ATT_DENSE_LIMIT p → Runs (.commitGroupApply g.id t) s (fun u =>
      (∀ oid ∈ names, u.obj oid p = g.obj s' oid p) ∧ u.dict.groups = [] ∧ OnlyParts [.dict] s' u))

/-- A captured geometry set applies as a whole once no pallet it changes runs a step, or is refused as a whole. A
geometry set of one pallet, with no pallet loaded: where a pallet that it changes runs a step, nothing happens yet;
where the sixteen rectangles with the set applied lie in the array, hold no marked brick and share none, the pallet has
the new rectangle; where they do not, its rectangle stays and the refusal is counted. Other pallets keep their
rectangles. -/
def Obligations.GeometrySets : Prop :=
  ∀ (s : State) (p : PalletNo) (g : Group) (v t : Nat),
    let s' := s.at t
    let rects := (List.range 16).map (fun q => rectOf (g.obj s' Obj.PAL_GEOMETRY q))
    let others := fun (u : State) => ∀ q : PalletNo, q ≠ p → u.obj Obj.PAL_GEOMETRY q = s'.obj Obj.PAL_GEOMETRY q
    s'.dict.groups.find? (fun g => g.point == .geometry) = some g → g.items = [(objKey Obj.PAL_GEOMETRY p, v)] → g.commit ≠ 0 →
    (∀ q, (s'.pallet q).loaded = none) →
    ((s'.pallet p).run ≠ none → v ≠ s'.obj Obj.PAL_GEOMETRY p → Runs (.geometryApply t) s (fun u => u = s'))
    ∧ ((s'.pallet p).run = none → geometryOk s' rects = true → Runs (.geometryApply t) s (fun u =>
        u.obj Obj.PAL_GEOMETRY p = v ∧ others u ∧ (∀ x ∈ u.dict.groups, x.id ≠ g.id) ∧ OnlyParts [.dict] s' u))
    ∧ ((s'.pallet p).run = none → geometryOk s' rects = false → Runs (.geometryApply t) s (fun u =>
        u.obj Obj.PAL_GEOMETRY p = s'.obj Obj.PAL_GEOMETRY p ∧ others u ∧ Counted Obj.BRK_COMMIT_REFUSED 0 s' u
        ∧ (∀ x ∈ u.dict.groups, x.id ≠ g.id) ∧ OnlyParts [.dict] s' u))

/-- The 80/64 code: no error reads good, every one-symbol error is corrected, every two-symbol error is detected. For
every 64-bit word with the check bits that the encoder gives it: the decoder finds no error in it; an error of any non-
zero value in any one of the twenty 4-bit symbols is corrected to the word; and errors of non-zero values in any two
different symbols are found uncorrectable. -/
def Obligations.EccCode : Prop :=
  let hit := fun (e : Fin 20 × Fin 16) (w : Nat × Nat) =>
    if e.1.val < 16 then (w.1 ^^^ (e.2.val <<< (4 * e.1.val)), w.2) else (w.1, w.2 ^^^ (e.2.val <<< (4 * (e.1.val - 16))))
  ∀ word : BitVec 64,
    let w := (word.toNat, eccEncode word.toNat)
    eccDecode w.1 w.2 = .good
    ∧ (∀ (i : Fin 20) (a : Fin 16), a ≠ 0 → eccDecode (hit (i, a) w).1 (hit (i, a) w).2 = .corrected word.toNat)
    ∧ ∀ (i j : Fin 20) (a b : Fin 16), i ≠ j → a ≠ 0 → b ≠ 0 →
      eccDecode (hit (j, b) (hit (i, a) w)).1 (hit (j, b) (hit (i, a) w)).2 = .uncorrectable

/-- Reads and scrubs of protected words: good, corrected and uncorrectable, by the word's place. A word that reads as
good is delivered. A corrected one counts in the corrected counter of its class, is delivered corrected, and is
rewritten in its place. A scrub checks the next line or word of its place in ascending order, a new pass beginning no
sooner than a period after the last began; before that, and out of its turn, it does nothing. An uncorrectable word
counts in the uncorrectable counter of its class and in ERR_UNCORR_WORDS and is not delivered. One of a request's state
raises event 0x10 and marks the request; one of a brick in no pallet faults nothing; one of a brick of a READY pallet
without a step halts the pallet with cause 4 recorded. A mortar flit with an uncorrectable word raises event 0x03 and
halts its pallet. -/
def Obligations.ProtectedWords : Prop :=
  ∀ (s : State) (d : BitVec 64) (c : BitVec 16) (b : BrickNo) (p : PalletNo) (st : Fin 8) (acc : Bool) (addr at' t w : Nat),
    let s' := s.at t
    let res := eccDecode d.toNat c.toNat
    let halted := fun (u : State) => (u.pallet p).state = .halted ∧ Counted Obj.ERR_PALLET_FAULTS p s' u
      ∧ ∃ f, (u.pallet p).fault = some f ∧ f.cause = 4 ∧ f.tFault = s'.now
    let ready := s'.palletOf b = some p.val ∧ (s'.pallet p).state = .ready ∧ (s'.pallet p).run = none
      ∧ (s'.pallet p).faulted = false ∧ s'.trn.queues = []
    let last := fun (key : Nat) => (NMap.get? s'.mem.scrubs key).getD (0, 0)
    let due := fun (key period : Nat) =>
      NMap.get? s'.mem.scrubs key = none ∨ (last key).1 ≠ 0 ∨ (last key).2 + period ≤ s'.now
    let passed := fun (key len : Nat) =>
      let x := (((last key).1 + 1) % len, if (last key).1 = 0 then s'.now else (last key).2)
      { s' with mem := { s'.mem with scrubs := NMap.ins s'.mem.scrubs key x } }
    let stackP := s'.obj Obj.MEM_SCRUB_PERIOD 0 * 10 ^ 9
    let brickP := s'.obj Obj.MEM_BRICK_SCRUB_MS 0 * 10 ^ 6
    let line := passed st 805306368
    let cell := passed (8 + b) 294912
    let turn := due (8 + b) brickP ∧ brickPlace b acc at' = brickWord b (last (8 + b)).1
    let noWord := fun (u : State) => ∀ place a x, Out.word place a x ∈ u.out → Out.word place a x ∈ s'.out
    (res = .good →
      (∀ place, Runs (.protectedRead place addr (d, c) t) s (fun u =>
        u = s'.emit (.word place addr (plainWord s' place addr d.toNat))))
      ∧ (due st stackP → ∀ place, Runs (.hbmScrub st [d] [c] place t) s (fun u => u = line))
      ∧ (turn → Runs (.brickScrub b d c acc at' t) s (fun u => u = cell)))
    ∧ (¬ due st stackP → ∀ ds cs place, Runs (.hbmScrub st ds cs place t) s (fun u => u = s'))
    ∧ (¬ turn → Runs (.brickScrub b d c acc at' t) s (fun u => u = s'))
    ∧ (res = .corrected w →
      (∀ slot region, Runs (.protectedRead (.requestState slot region) addr (d, c) t) s (fun u =>
        (∃ x, u.out = .word (.requestState slot region) addr x :: s'.out) ∧ Counted Obj.MEM_ECC_HBM_CORR 0 s' u
          ∧ OnlyParts [.dict, .mem, .out] s' u))
      ∧ (∀ a, Runs (.protectedRead (.brickStore b a) addr (d, c) t) s (fun u =>
        u.out = .word (.brickStore b a) addr w :: s'.out ∧ Counted Obj.MEM_ECC_BRICK_CORR 0 s' u ∧ OnlyBrick b s' u
          ∧ u.brick b = { s'.brick b with store := memSplice (s'.brick b).store (a / 8 * 8) (toBytes 8 w) }
          ∧ OnlyParts [.dict, .array, .out] s' u))
      ∧ Runs (.protectedRead (.mortarFlit p) addr (d, c) t) s (fun u =>
        u = (s'.bump Obj.MEM_ECC_MORTAR_CORR 0).emit (.word (.mortarFlit p) addr w))
      ∧ (due st stackP → ∀ q, Runs (.hbmScrub st [d] [c] (.queueContext q) t) s (fun u =>
        u = line.bump Obj.MEM_ECC_HBM_CORR 0))
      ∧ (turn → acc = false → Runs (.brickScrub b d c acc at' t) s (fun u =>
        Counted Obj.MEM_ECC_BRICK_CORR 0 s' u ∧ OnlyBrick b s' u ∧ u.mem = cell.mem
          ∧ u.brick b = { s'.brick b with store := memSplice (s'.brick b).store at' (toBytes 8 w) }
          ∧ OnlyParts [.dict, .array, .mem] s' u)))
    ∧ (∀ (slot region : Nat) (r : Request), res = .uncorrectable → s'.request? slot = some r → s'.entryOf r.pallet slot = none →
      let post := fun (u : State) => Raised 0x10 s' u ∧ (u.reqLocal slot).uncorr = true ∧ noWord u
        ∧ Counted Obj.MEM_ECC_HBM_UNCORR 0 s' u ∧ Counted Obj.ERR_UNCORR_WORDS 0 s' u ∧ u.pallets = s'.pallets
      Runs (.protectedRead (.requestState slot region) addr (d, c) t) s post
      ∧ (due st stackP → Runs (.hbmScrub st [d] [c] (.requestState slot region) t) s post))
    ∧ (res = .uncorrectable → turn → (s'.palletOf b = none → Runs (.brickScrub b d c acc at' t) s (fun u =>
        u = (cell.bump Obj.MEM_ECC_BRICK_UNCORR 0).bump Obj.ERR_UNCORR_WORDS 0))
      ∧ (ready → Runs (.brickScrub b d c acc at' t) s (fun u => halted u ∧ Counted Obj.MEM_ECC_BRICK_UNCORR 0 s' u)))
    ∧ (ready → ∀ node src, Runs (.flitUncorrectable p node src false t) s (fun u => halted u
        ∧ Counted Obj.MEM_ECC_MORTAR_UNCORR 0 s' u ∧ ∃ e ∈ u.events, e.code = 3 ∧ e.time = s'.now))

/-- PLACE_HBM, PLACE_HOST, FLUSH and their completion; table walks, prefetch, write-back and stalls. A placement entry
that passes its checks waits under a new number: PLACE_HBM has taken a free frame for every page it will move,
PLACE_HOST has sent every page's bytes to the host; one that fails a check changes no memory. PLACEMENT_DONE of a one-
page PLACE_HOST whose copy is identical, at a pallet without a step, switches the page's leaf to the host address, and
every byte of the page reads as before. A walk of a mapped HBM page enters the TLB and the walk cache first and counts;
of a HOST page it reads the host; where an entry on the way is not valid it faults the pallet. A prefetched page becomes
the brick's most recently used within MEM_PREFETCH_KIB. A write-back writes the sector to HBM and clears its dirty bit,
unless a write landed meanwhile. A wait beyond MEM_STALL_NS counts one event of its cause and its time; a shorter one
counts nothing. -/
def Obligations.PlacementAndTranslation : Prop :=
  ∀ (s : State) (o : OwnerNo) (r : RingNo) (c : PlaceCmd) (b : BrickNo) (p : PalletNo) (va n t wait ns : Nat) (l : Leaf),
    let s' := s.at t
    let src := Source.ring o r c.tag
    let waits := fun (op : Nat) (u : State) => u.ids = s'.ids + 1
      ∧ ∃ fs, u.mem.placements = s'.mem.placements
          ++ [({ id := s'.ids, op := op, cmd := c, source := src, frames := fs, switched := false } : Placement)]
        ∧ fs.map (·.1) = (if op = 1 then movedPages s' c else [])
        ∧ (∀ e ∈ fs, NMap.get? s'.mem.frames e.2 = none ∧ NMap.get? u.mem.frames e.2 = some c.pallet.val)
        ∧ { u.mem with placements := [], frames := [] } = { s'.mem with placements := [], frames := [] }
    let key := leafKey p va
    ((takeEntry s' o r).isSome = true →
      (placeRefusal s' o 1 c = none → Runs (.placeHbm o r c t) s (fun u => waits 1 u
        ∧ OnlyParts [.host, .out, .mem, .ids] s' u))
      ∧ (placeRefusal s' o 2 c = none → (s'.ld c.ld).busMaster = true → Runs (.placeHost o r c t) s (fun u => waits 2 u
        ∧ (∀ a ∈ placePages c, atHost s' c a = false →
          ∃ data, Out.hostWrite s'.ids c.ld (hostLeaf c a).hostPa data ∈ u.out)
        ∧ (c.npages = 1 → atHost s' c c.va = false →
          Out.hostWrite s'.ids c.ld (hostLeaf c c.va).hostPa (s'.vRead c.pallet c.va 8192) ∈ u.out)
        ∧ OnlyParts [.host, .out, .mem, .ids] s' u))
      ∧ (placeRefusal s' o 3 c = none → Runs (.flush o r c t) s (fun u =>
        NMap.get? u.mem.flushes s'.ids
            = some { what := .command src c.tag, pallet := c.pallet, va := c.va, len := c.npages * 8192 }
          ∧ OnlyParts [.host, .out, .mem, .ids] s' u))
      ∧ ∀ st, placeRefusal s' o 1 c = some st → Runs (.placeHbm o r c t) s (fun u => OnlyParts [.host, .out] s' u))
    ∧ (∀ x : Placement, s'.mem.placements = [x] → x.id = n → x.op = 2 → x.switched = false → x.cmd = c → c.npages = 1 →
      x.source = .device → c.va = 8192 * va → (s'.pallet c.pallet).run = none → s'.host.dmas = [] →
      s'.leaf? c.pallet c.va = some l → l.tier = .hbm → hostCopied s' c c.va = true → s'.memWf →
      (∀ j < 8192, s'.recordAt c.pallet (c.va + j) = none) →
      Runs (.placementDone n t) s (fun u => u.mem.placements = []
        ∧ u.leaf? c.pallet c.va = some { l with tier := .host, ld := c.ld, target := (hostLeaf c c.va).target }
        ∧ (∀ j < 8192, u.vByte c.pallet (c.va + j) = s'.vByte c.pallet (c.va + j))
        ∧ ∀ a, a / 8192 ≠ l.target → NMap.get 0 u.mem.hbm a = NMap.get 0 s'.mem.hbm a))
    ∧ (s'.walk p va = some l → l.tier = .hbm → Runs (.translationWalkDone b p va t) s (fun u =>
        (u.brick b).tlb = tlbInsert (s'.brick b).tlb key ∧ (u.brick b).tlb.head? = some key
        ∧ (u.brick b).walks.head? = some (walkKey key) ∧ (u.brick b).walks.length ≤ 64 ∧ OnlyBrick b s' u
        ∧ Counted Obj.MEM_WALKS p s' u ∧ Counted Obj.MEM_TLB_MISSES p s' u ∧ OnlyParts [.dict, .array] s' u))
    ∧ (s'.walk p va = some l → l.tier = .host → (s'.ld l.ld).busMaster = true →
      Runs (.translationWalkDone b p va t) s (fun u => u.out = .hostRead s'.ids l.ld l.hostPa 8192 :: s'.out
        ∧ (u.brick b).tlb.head? = some key ∧ OnlyParts [.dict, .array, .host, .out, .ids] s' u))
    ∧ (s'.walk p va = none → s'.palletOf b = some p.val → (s'.pallet p).state = .ready → (s'.pallet p).run = none →
      s'.trn.queues = [] → Runs (.translationWalkDone b p va t) s (fun u => (u.pallet p).state = .halted
        ∧ Counted Obj.ERR_PALLET_FAULTS p s' u ∧ (u.brick b).tlb = (s'.brick b).tlb))
    ∧ (s'.leaf? p va = some l → l.tier = .hbm → 8 ≤ s'.obj Obj.MEM_PREFETCH_KIB p →
      prefetchBrick s' p l.target = some b.val → Runs (.prefetch p va t) s (fun u =>
        (u.brick b).prefetched.head?.map (fun q => q.1) = some key
          ∧ (u.brick b).prefetched.length ≤ s'.obj Obj.MEM_PREFETCH_KIB p / 8 ∧ OnlyBrick b s' u
          ∧ OnlyParts [.dict, .array] s' u))
    ∧ (n ∈ (s.brick b).dirty → s.palletOf b = some p.val →
      (n ∈ (s.brick b).again → Runs (.writebackComplete b ⟨n, va⟩) s (fun u =>
        u.brick b = { s.brick b with again := (s.brick b).again.filter (fun x => x ≠ n) } ∧ OnlyBrick b s u
        ∧ Counted Obj.MEM_WRITEBACK_SECTORS p s u ∧ OnlyParts [.array, .dict] s u))
      ∧ (n ∉ (s.brick b).again → vRegion va = .scratch → va % 4096 = 0 → s.leaf? p va = some l → l.write = true →
        l.tier = .hbm → s.memWf → Runs (.writebackComplete b ⟨n, va⟩) s (fun u =>
        u.brick b = { s.brick b with dirty := (s.brick b).dirty.filter (fun x => x ≠ n) } ∧ OnlyBrick b s u
        ∧ u.vRead p va 4096 = memSeq (s.brick b).store (n * 4096) 4096
        ∧ Counted Obj.MEM_WRITEBACK_SECTORS p s u ∧ OnlyParts [.array, .dict, .mem] s u)))
    ∧ (let cause := stallCause s' b p va
      cause ≠ 5 → (cause = 3 → ∀ d ∈ s'.host.dmas, ∀ h, d.purpose ≠ .page p h) →
      (cause = 2 → ∀ g ∈ s'.rmf.gathers, g.pallet ≠ p.val) →
      (wait ≤ s'.obj Obj.MEM_STALL_NS p → Runs (.stallThreshold p ⟨b, va, wait, ns⟩ t) s (fun u => u = s'))
      ∧ (s'.obj Obj.MEM_STALL_NS p < wait → Runs (.stallThreshold p ⟨b, va, wait, ns⟩ t) s (fun u =>
        Counted (Obj.MEM_STALL_EVENTS + cause) p s' u
        ∧ u.obj (Obj.MEM_STALL_NS_SUM + cause) p = s'.obj (Obj.MEM_STALL_NS_SUM + cause) p + ns
        ∧ OnlyParts [.dict, .obs] s' u)))

/-- Power on, bulk charge, power good, cuts and restarts, input excursions, RESET_N and the loss of the clock. A rise of
the input through 40 V from no power starts charging, with every register at reset and the flash lands undriven; after a
cut it begins the 100 ms before the restart; the bulk charge and power good follow in order. A brown-out or an over-
voltage takes every register to reset with the rails cut, and power restarts no earlier than 100 ms later. An input
outside 40 to 60 V counts once and raises event 0x70 at entry, below or above. RESET_N low for longer than the upper
edge of its band resets; below the lower edge only the flash lands are let go for its length; within it either happens
(a free choice). The loss of the reference clock stops every island, halts every loaded pallet, and leaves only the
identity area served. -/
def Obligations.PowerCycle : Prop :=
  ∀ (s : State) (mv low t : Nat),
    let s' := s.at t
    let own := [Part.pending, .now, .free, .ids, .out]
    let fresh := fun (stage : BootStage) (except : List Part) (u : State) => u.boot.stage = stage ∧ u.pending = s'.pending
      ∧ u.now = s'.now ∧ u.out = s'.undriven ∧ OnlyParts (own ++ .boot :: except) State.reset u
    (s'.boot.stage = .cut → 40000 ≤ mv →
      (s'.boot.tCut = none → Runs (.powerOn mv t) s (fun u => fresh .charging [.dict] u
        ∧ u.obj Obj.PWR_INPUT_MV 0 = mv))
      ∧ (∀ c, s'.boot.tCut = some c → Runs (.powerOn mv t) s (fun u => u.boot.tCut = some s'.now ∧ u.boot.stage = .cut
        ∧ u.obj Obj.PWR_INPUT_MV 0 = mv ∧ OnlyParts [.boot, .dict] s' u)))
    ∧ (s'.boot.stage ≠ .cut → Runs (.powerOn mv t) s (fun u => u = s'))
    ∧ (s'.boot.stage = .charging → Runs (.bulkCharged t) s (fun u => u.boot.stage = .converting ∧ OnlyParts [.boot] s' u))
    ∧ (s'.boot.stage = .converting → Runs (.modPwrgd t) s (fun u => u.boot.stage = .railsUp ∧ u.boot.modPwrgd = true
        ∧ OnlyParts [.boot] s' u))
    ∧ Runs (.brownOut t) s (fun u => fresh .cut [] u ∧ u.boot.tCut = some s'.now)
    ∧ Runs (.overVoltage t) s (fun u => fresh .cut [] u ∧ u.boot.tCut = some s'.now)
    ∧ (∀ c, s'.boot.stage = .cut → s'.boot.tCut = some c →
      (c + 100000000 ≤ s'.now → Runs (.powerRestart t) s (fresh .charging []))
      ∧ (s'.now < c + 100000000 → Runs (.powerRestart t) s (fun u => u = s')))
    ∧ (s'.boot.stage.powered = true → ((36000 ≤ mv ∧ mv < 40000) ∨ (60000 < mv ∧ mv ≤ 65000)) →
      (s'.boot.excursion = false ∨ (s'.obj Obj.PWR_INPUT_MV 0 < 40000 ∧ 60000 < mv)
        ∨ (40000 ≤ s'.obj Obj.PWR_INPUT_MV 0 ∧ mv < 40000)) →
      Runs (.inputExcursion mv t) s (fun u => u.obj Obj.PWR_INPUT_MV 0 = mv ∧ u.boot.excursion = true
        ∧ Counted Obj.PWR_INPUT_EVENTS 0 s' u ∧ Raised 0x70 s' u))
    ∧ (s'.boot.stage.powered = true → s'.boot.stage ≠ .refLost →
      (10006 < low → Runs (.resetN low t) s (fresh .railsUp []))
      ∧ (low < 9994 → Runs (.resetN low t) s (fun u => u = s'.blink))
      ∧ Runs (.resetN low t) s (fun u => fresh .railsUp [] u ∨ OnlyParts [.free, .out] s' u))
    ∧ (s'.boot.stage.operating = true → (∀ p, (s'.pallet p).run = none) → s'.trn.queues = [] →
      Runs (.refclkLoss t) s (fun u => u.boot.stage = .refLost ∧ (∀ b : BrickNo, b.val ∈ u.array.stopped)
        ∧ (∀ p : PalletNo, (s'.pallet p).state ≠ .empty → (u.pallet p).state = .halted)
        ∧ OnlyParts [.boot, .array, .pallets, .req] s' u))

/-- The boot chain from reset release to the open mailboxes: stages, measurements, the copy used, brick tests. Reset
release latches the straps, drives the flash lands, extends measurement 0 with the mask ROM's digest, and stops the boot
at a reserved FLASH_WIDTH. The identity is copy 0's, or else copy 1's, or none. Both copies of an image are read from
flash with the opcode and clock of the straps; of two images the one of the greater version that R338 accepts for the
stage's TYPE is used, extends its measurement and sets its version; with none accepted the boot stops and BRK_BOOT_STATE
is 2. HBM training draws slot 0's key pair and starts every island at FREQ 0 and the least VOLT. A failed march or codec
test marks the brick and raises event 0x02. The mailboxes open with BRK_BOOT_STATE 1, or 3 without an identity. -/
def Obligations.BootChain : Prop :=
  ∀ (s : State) (strap : BitVec 8) (a b : ImageCheck) (vf : List Nat) (d0 d1 : Option Nat) (k : BrickNo) (n t : Nat),
    let s' := s.at t
    let ext := fun (m : List Nat) (i d : Nat) => m.set i (digest64 (toBytes 64 (m.getD i 0) ++ toBytes 64 d))
    let better := fun (typ : Nat) => imageValid typ a = true ∧ (imageValid typ b = false ∨ b.svn ≤ a.svn)
    let neither := fun (typ : Nat) => imageValid typ a = false ∧ imageValid typ b = false
    let stopped := fun (u : State) => u.boot.stage = .kilnOnly ∧ u.obj Obj.BRK_BOOT_STATE 0 = 2
    let bits := fun (u : State) => bitOf (u.obj Obj.ERR_BRICK_FAILED 0) k = true
    let width := s.obj Obj.BRK_STRAPS 0 % 4
    let flash := Out.flashRead (if width = 0 then 0x13 else if width = 1 then 0x3C else 0x6C) (if width = 0 then 0 else 8)
      (if bitOf (s.obj Obj.BRK_STRAPS 0) 2 then 50 else 25)
    let copies := fun (x y len : Nat) (u : State) => u.out = flash y len :: flash x len :: s.out
    (s'.boot.stage = .railsUp → Runs (.internalResetRelease strap t) s (fun u => u.obj Obj.BRK_STRAPS 0 = strap.toNat
      ∧ u.kiln.meas = ext s'.kiln.meas 0 Config.romDigest ∧ u.boot.tRelease = s'.now
      ∧ u.out = .flDrive true :: s'.out ∧ u.boot.flDriven = true
      ∧ (strap.toNat % 4 ≠ 3 → u.boot.stage = .romRunning) ∧ (strap.toNat % 4 = 3 → stopped u)))
    ∧ (s.boot.stage = .romRunning → Runs (.pufIdentity d0 d1 n) s (fun u => u.kiln.identity = (d0.or d1).isSome
        ∧ u.kiln.deviceId = (d0.or d1).getD 0 ∧ (d0.isSome = true → u.out = flash 0x10000 0x10000 :: flash 0 0x8000 :: s.out)
        ∧ OnlyParts [.kiln, .out] s u))
    ∧ (s.boot.stage = .romRunning →
      (better 1 → Runs (.kilnFwVerified a b) s (fun u => u.boot.stage = .kilnUp ∧ u.kiln.kilnSvn = a.svn
        ∧ u.kiln.meas = ext s.kiln.meas 1 a.digest ∧ copies 0x20000 0x120000 0x100000 u ∧ OnlyParts [.kiln, .boot, .out] s u))
      ∧ (imageValid 1 b = true → a.svn < b.svn → Runs (.kilnFwVerified a b) s (fun u => u.boot.stage = .kilnUp
        ∧ u.kiln.kilnSvn = b.svn ∧ u.kiln.meas = ext s.kiln.meas 1 b.digest))
      ∧ (neither 1 → Runs (.kilnFwVerified a b) s stopped))
    ∧ (s.boot.stage = .kilnUp → (better 3 → Runs (.configVerified a b vf) s (fun u => u.boot.stage = .configUp
        ∧ copies 0x220000 0x260000 0x40000 u
        ∧ u.kiln.cfgSvn = a.svn ∧ u.kiln.cfgSigner = a.signer ∧ u.kiln.meas = ext (ext (ext s.kiln.meas 2 a.digest) 2 a.signer) 3
          (digest64 (toBytes 4 (s.obj Obj.BRK_STRAPS 0))))) ∧ (neither 3 → Runs (.configVerified a b vf) s stopped))
    ∧ (s'.boot.stage = .configUp → Runs (.hbmTrained t) s (fun u => u.boot.stage = .hbmUp
        ∧ (∀ i : BrickNo, islandFreq (u.island i) = 0 ∧ islandVolt (u.island i) = s'.vfMin 0)
        ∧ (u.kslot 0).xts = Config.nonce s'.ids % 2 ^ 256 + Config.nonce (s'.ids + 1) % 2 ^ 256 * 2 ^ 256))
    ∧ (s'.boot.stage = .hbmUp →
      (k.val ∉ s'.boot.marched → Runs (.marchTest k true t) s (fun u => u.boot.marched = k.val :: s'.boot.marched
          ∧ OnlyParts [.boot] s' u)
        ∧ Runs (.marchTest k false t) s (fun u => k.val ∈ u.boot.marched ∧ bits u ∧ Raised 0x02 s' u))
      ∧ (k.val ∈ s'.boot.marched → Runs (.codecSelftest k [] t) s (fun u => u = s')
        ∧ (∀ x xs, Runs (.codecSelftest k (x :: xs) t) s (fun u => bits u ∧ Counted Obj.CMP_SELFTEST_FAIL 0 s' u
          ∧ Raised 0x02 s' u))
        ∧ Runs (.codecSelftest k [.crc] t) s (Counted Obj.CMP_CRC_ERR 0 s'))
      ∧ (better 2 → Runs (.runtimeFwRunning a b t) s (fun u => u.boot.stage = .fwRunning ∧ u.kiln.fwSvn = a.svn
        ∧ u.kiln.meas = ext s'.kiln.meas 4 a.digest ∧ copies 0x400000 0x2000000 0x1C00000 u)) ∧ (neither 2 → Runs (.runtimeFwRunning a b t) s stopped))
    ∧ (s'.boot.stage = .fwRunning → Runs (.mailboxesOpen t) s (fun u => u.running = true
        ∧ u.obj Obj.BRK_BOOT_STATE 0 = if s'.kiln.identity then 1 else 3))

/-- Island settings, temperature samples and the governor's decisions. A setting through the privileged view that R33
permits and R36 does not bar is the island's, with its FREQ kept within the pallet's maximum, and the setting before
stands beside it while the rail slews; one that R33 refuses is counted and changes no island. A sample of one island
above its cool neighbours by less than 26 °C, below every limit, is recorded and lowers nothing; one of 26 to 30 °C
lowers that island by one FREQ code and counts. With no pallet: a decision between 98 % and 100 % of the budget moves no
island; one above the budget lowers every island by the excess in per cent, at most 8 codes; and each decision records
the input's figures. -/
def Obligations.IslandsAndGovernor : Prop :=
  ∀ (s : State) (via : Via) (b : BrickNo) (v : BitVec 16) (x : Int) (mw50 mw1 inW inV inA t : Nat),
    let s' := s.at t
    let w := min (islandFreq v.toNat) (s.freqMax b) + islandVolt v.toNat * 256
    let others := fun (u : State) => ∀ c : BrickNo, c ≠ b → u.island c = s.island c
    (Served s via → islandFreq v.toNat ≤ 84 →
      (islandCheck s b w = true → (isRaise (s.island b) w = false ∨ raiseBarred s b = false) →
        Runs (.pwrIslandSetting via b v) s (fun u => u.island b = w ∧ others u ∧ Replied via .ok u
          ∧ (islandVolt w ≠ islandVolt (s.island b) → ∃ till, NMap.get? u.array.changing b = some (s.island b, till) ∧ s.now < till)
          ∧ { u.array with changing := [] } = { s.array with changing := [] } ∧ OnlyParts [.array, .dict, .obs, .out] s u))
      ∧ (islandCheck s b w = false → Runs (.pwrIslandSetting via b v) s (fun u => u.island b = s.island b ∧ others u
        ∧ Counted Obj.PWR_ISLAND_REFUSED b s u ∧ Replied via .accessDenied u)))
    ∧ (s'.boot.stage.operating = true → s'.instancesOf Obj.PWR_ISLAND_TEMP = [] → s'.array.lowering = [] →
      s'.array.throttled = [] → s'.boot.thermAlert = false → 30 ≤ s'.obj Obj.PWR_TJ_WARN_C 0 →
      30 ≤ s'.obj Obj.PWR_TJ_THROTTLE_C 0 → 30 ≤ s'.obj Obj.PWR_TJ_TRIP_C 0 →
      (0 < x → x < 52 → Runs (.islandTempSample [(b, x)] t) s (fun u => u.temp b = x
        ∧ u.obj Obj.PWR_TJ_HOTTEST 0 = (BitVec.ofInt 16 x).toNat ∧ u.array = s'.array ∧ u.boot = s'.boot ∧ others u))
      ∧ (52 ≤ x → x < 60 → 0 < islandFreq (s'.island b) → Runs (.islandTempSample [(b, x)] t) s (fun u => u.temp b = x
        ∧ u.array.lowering = (neighbours b).map (fun n => (b.val, n)) ∧ islandFreq (u.island b) + 1 = islandFreq (s'.island b) ∧ others u
        ∧ Counted Obj.PWR_THERMAL_LOWERINGS 0 s' u ∧ Counted Obj.PWR_LOWERINGS 0 s' u)))
    ∧ (s'.boot.stage.operating = true → (∀ p, s'.exists? p = false) →
      let budget := s'.obj Obj.PWR_BUDGET_W 0 * 1000
      let figures := fun (u : State) => u.obj Obj.PWR_INPUT_MV 0 = inV ∧ u.obj Obj.PWR_INPUT_MA 0 = inA
        ∧ u.obj Obj.PWR_MODULE_W 0 = inW / 1000
      (mw50 ≤ budget → budget * 98 < mw50 * 100 → Runs (.governorDecision mw50 mw1 inW inV inA t) s (fun u => figures u
        ∧ (∀ c, u.island c = s'.island c) ∧ u.array = s'.array
        ∧ (budget < mw1 → u.obj Obj.PWR_BUDGET_EXCEED_NS 0 = s'.obj Obj.PWR_BUDGET_EXCEED_NS 0 + 5000)))
      ∧ (budget < mw50 → 0 < budget → NMap.get? s'.array.classAt 0 = none → 0 < islandFreq (s'.island b) →
        Runs (.governorDecision mw50 mw1 inW inV inA t) s (fun u => figures u ∧ ∀ c : BrickNo,
          islandFreq (u.island c) = islandFreq (s'.island c) - min 8 (ceilDiv ((mw50 - budget) * 100) budget))))
    ∧ (s'.boot.stage.operating = false → Runs (.governorDecision mw50 mw1 inW inV inA t) s (fun u => u = s'))

/-- Program-counter samples, interval records and the trace from ARM to the final read. At an instant of the period with
the PROFILE gate open a sample is counted and written in place, or counted as dropped, and the walk over the claim ring
goes on; at an instant of a pallet's interval a record with the next number is written. With the TRACE gate open ARM
from OFF arms the trace; a sample that does not match is written at NEXT, the COUNT-th that matches triggers, and so
does the time trigger; a trace whose post-trigger count is spent freezes; a read that covers the last byte of a frozen
buffer turns the trace OFF once the bytes are returned. -/
def Obligations.SamplesRecordsAndTrace : Prop :=
  ∀ (s : State) (p : PalletNo) (via : Via) (ctrl : BitVec 128) (src : Nat) (x : BitVec 40) (off n t : Nat),
    let s' := s.at t
    let period := s'.obj Obj.OBS_PC_PERIOD_NS p
    let size := (s'.rect p).size
    let walk := NMap.get 0 s'.obs.pcNext p
    let core := s'.core ((s'.rect p).ringBrick (walk % size)) (walk / size % 256)
    let pcAt := s'.obj Obj.OBS_PC_SAMPLES p % s'.pcCapacity p * 32
    let seq := NMap.get 0 s'.obs.cntSeq p + 1
    let cntAt := (seq - 1) % 4096 * 256
    let trig := s'.obj Obj.OBS_TRACE_TRIGGER 0
    let sample := src * 2 ^ 60 + (s'.now - s'.obs.traceMark) * 2 ^ 40 + x.toNat
    (period ≠ 0 → s'.now % period = 0 → s'.gate 1 = true → size ≠ 0 →
      Runs (.pcSample p true t) s (fun u => Counted Obj.OBS_PC_DROPPED p s' u ∧ NMap.get 0 u.obs.pcNext p = walk + 1
        ∧ u.obs.pcBufs = s'.obs.pcBufs ∧ OnlyParts [.dict, .obs] s' u)
      ∧ Runs (.pcSample p false t) s (fun u => Counted Obj.OBS_PC_SAMPLES p s' u ∧ NMap.get 0 u.obs.pcNext p = walk + 1
        ∧ (let m := NMap.get [] u.obs.pcBufs p
           memRead m pcAt 4 = toBytes 4 core.pc.toNat ∧ memRead m (pcAt + 16) 8 = toBytes 8 s'.now
           ∧ ∀ a, (a < pcAt ∨ pcAt + 32 ≤ a) → NMap.get 0 m a = NMap.get 0 (NMap.get [] s'.obs.pcBufs p) a)
        ∧ OnlyParts [.dict, .obs, .free] s' u))
    ∧ (s'.obj Obj.OBS_CNT_INTERVAL_NS p ≠ 0 → s'.now % s'.obj Obj.OBS_CNT_INTERVAL_NS p = 0 → s'.gate 1 = true →
      Runs (.counterIntervalRecord (some p) t) s (fun u => NMap.get 0 u.obs.cntSeq p = seq
        ∧ (let m := NMap.get [] u.obs.cntBufs p
           memRead m (cntAt + 8) 4 = toBytes 4 seq ∧ memRead m (cntAt + 16) 8 = toBytes 8 s'.now)
        ∧ OnlyParts [.obs, .free] s' u))
    ∧ (Served s via → s'.gate 0 = true → s'.obs.traceState = 0 → bitsOf ctrl.toNat 32 1 = 0 → bitsOf ctrl.toNat 42 6 = 0 →
      bitOf ctrl.toNat 0 = true → s'.obj Obj.OBS_TRACE_POST 0 < 131072 * 2 ^ bitsOf ctrl.toNat 1 2 → triggerOk trig = true →
      Runs (.traceArm via ctrl t) s (fun u => u.obs.traceState = 1 ∧ u.obs.traceNext = 1 ∧ u.obs.traceWrapped = false
        ∧ u.obj Obj.OBS_TRACE_CTRL 0 = ctrlStored ctrl.toNat ∧ Replied via .ok u))
    ∧ (s'.gate 0 = true → s'.obs.traceState = 1 → (bitsOf trig 4 4 = 2 ∨ bitsOf trig 4 4 = 3) → bitsOf trig 192 64 ≤ s'.now →
      Runs (.traceTimeTrigger t) s (fun u => u.obs.traceState = 2 ∧ u.obs.tTrigger = s'.now
        ∧ u.obs.postLeft = s'.obj Obj.OBS_TRACE_POST 0))
    ∧ (1 ≤ src → src ≤ 9 → s'.traceOn src (sampleUnit s' src x.toNat) = true → s'.obs.traceState = 1 →
      s'.obs.traceWrapped = false → s'.now - s'.obs.traceMark < 2 ^ 20 → s'.obs.traceSince < 1024 →
      (s'.traceMatch src x.toNat = false → Runs (.traceTrigger src x t) s (fun u => u.obs.traceState = 1
        ∧ NMap.get 0 u.obs.trace s'.obs.traceNext = sample ∧ u.obs.traceNext = (s'.obs.traceNext + 1) % s'.traceCapacity
        ∧ OnlyParts [.obs] s' u))
      ∧ (s'.traceMatch src x.toNat = true → s'.obs.traceMatches + 1 = bitsOf trig 8 8 →
        Runs (.traceTrigger src x t) s (fun u => u.obs.traceState = 2 ∧ u.obs.tTrigger = s'.now
          ∧ u.obs.postLeft = s'.obj Obj.OBS_TRACE_POST 0)))
    ∧ (s.obs.traceState = 2 → s.obs.postLeft = 0 → Runs .traceFreeze s (fun u =>
        u = { s with obs := { s.obs with traceState := 3 } }))
    ∧ (Served s via → s.obs.traceState = 3 → 0 < n → off + n = s.traceSize → Runs (.traceFinalRead via off n) s (fun u =>
        u.obs.traceState = 0 ∧ u.out = .answer via 0 .ok s.traceSize (s.traceBytes off n) :: s.out))

/-- OBS_MUX_SEL, ERR_FAULT_CLEAR, the management links and the test port. With the OBS gate open sixteen valid
selections are held, one that is not valid leaves all sixteen, and with the gate closed none changes. ERR_FAULT_CLEAR 1
removes the event assertion, another value nothing. A management link is up or down as the event says and the other
keeps its state. EXTEST, SAMPLE/PRELOAD, IDCODE and BYPASS select their instruction and scan their register out; EXTEST
is BYPASS while the TAP gate is closed. -/
def Obligations.PinsAndHealth : Prop :=
  ∀ (s : State) (via : Via) (sel : List Nat) (pins : List Bool) (port : Fin 2) (v t : Nat),
    let s' := s.at t
    let ok := sel.length = 16 ∧ ∀ x ∈ sel, x < 65536
    (Served s via →
      (s.gate 2 = true → ok →
        ((∀ x ∈ sel, selectionValid x = true) → Runs (.obsMuxSel via sel) s (fun u =>
          (∀ k < 16, bitsOf (u.obj Obj.OBS_MUX_SEL 0) (16 * k) 16 = sel.getD k 0) ∧ Replied via .ok u))
        ∧ ((∃ x ∈ sel, selectionValid x = false) → Runs (.obsMuxSel via sel) s (fun u =>
          u.obj Obj.OBS_MUX_SEL 0 = s.obj Obj.OBS_MUX_SEL 0 ∧ Replied via .transportError u)))
      ∧ (s.gate 2 = false → ok → Runs (.obsMuxSel via sel) s (fun u =>
          u.obj Obj.OBS_MUX_SEL 0 = s.obj Obj.OBS_MUX_SEL 0 ∧ Replied via .accessDenied u))
      ∧ Runs (.errFaultClear via 1) s (fun u => u.boot = { s.boot with assertion := false } ∧ Replied via .ok u
          ∧ OnlyParts [.boot, .dict, .out] s u)
      ∧ (v ≠ 1 → Runs (.errFaultClear via v) s (fun u => u.boot = s.boot ∧ Replied via .transportError u)))
    ∧ (∀ up, Runs (.managementPortLink port up t) s (fun u => (port.val ∈ u.boot.mgmtUp ↔ (up = true ∧ s'.mgmtFitted port = true))
        ∧ (∀ q : Fin 2, q ≠ port → (q.val ∈ u.boot.mgmtUp ↔ q.val ∈ s'.boot.mgmtUp)) ∧ OnlyParts [.boot] s' u))
    ∧ (let taps := fun (ir x : Nat) (u : State) => u.boot.tapIr = ir ∧ u.out = .tap x :: s.out ∧ OnlyParts [.boot, .out] s u
      (s.gate 3 = true → Runs (.extest pins) s (fun u => taps 0 (pinsNat pins) u ∧ u.boot.boundary = pins))
      ∧ (s.gate 3 = false → Runs (.extest pins) s (fun u => taps 0xFF 0 u ∧ u.boot.boundary = s.boot.boundary))
      ∧ Runs (.samplePreload pins) s (fun u => taps 2 (pinsNat pins) u ∧ u.boot.boundary = pins)
      ∧ Runs .idcode s (taps 1 0xB4810A5B) ∧ Runs .bypass s (taps 0xFF 0))

/-- VDP sessions from HELLO to CLOSE, the frame checks and the expiries. With fewer than eight sessions a HELLO with the
configured credential opens a session under the next number; a bad credential is counted, and a ninth is answered
NOT_READY. CHALLENGE goes out once; an AUTH in time with a valid signature establishes the session and is accepted, a
bad one drops the session and is counted. CLOSE, 10 s without AUTH and BRK_SESSION_IDLE_S without a frame end a session,
and no other. A frame that fails a check or repeats a sequence number is dropped and counted; a sealed frame that is
whole is accepted and holds no fragment; a fragment 10 ms old is dropped. -/
def Obligations.SessionsAndFrames : Prop :=
  ∀ (s : State) (port : Fin 2) (k msg t : Nat) (v : Session) (h : FrameHdr),
    let s' := s.at t
    let others := fun (u : State) => ∀ j, j ≠ k → u.session? j = s'.session? j
    let n := s'.vdp.next + 1
    let frame := Instr.vdpFrame port h.session h.typ h.magic h.version h.msgLen h.off h.len h.seq h.isSealed h.tagOk msg t
    (s'.running = true →
      (countIf s'.vdp.sessions (fun e => e.1 ≠ 0) < 8 → Runs (.hello port true t) s (fun u =>
        u.session? n = some (Session.opened port s'.now) ∧ u.vdp.next = n ∧ OnlyParts [.vdp] s' u))
      ∧ Runs (.hello port false t) s (fun u => u = s'.bump Obj.BRK_VDP_AUTH_FAIL 0)
      ∧ (8 ≤ countIf s'.vdp.sessions (fun e => e.1 ≠ 0) → Runs (.hello port true t) s (fun u => u.vdp = s'.vdp
        ∧ u.out = .vdp port 0 0x13 0 [9] :: s'.out))
      ∧ (frameOk s' h = false → Runs frame s (fun u => u = s'.bump Obj.BRK_VDP_DROPPED 0))
      ∧ (frameOk s' h = true → h.isSealed = true → s'.session? h.session = some v →
        (seqFresh v h.seq = false → Runs frame s (fun u => u = s'.bump Obj.BRK_VDP_DROPPED 0))
        ∧ (seqFresh v h.seq = true → h.tagOk = true → h.off = 0 → h.len = h.msgLen → (∀ q ∈ v.partials, q.msg ≠ msg) →
          Runs frame s (fun u => u.session? h.session = some { seqAccept v h.seq with last := s'.now }
            ∧ OnlyParts [.vdp] s' u))))
    ∧ (s'.session? k = some v →
      (v.stage = .hello → k ≠ 0 → Runs (.challenge k t) s (fun u =>
        u.session? k = some { v with stage := .challenged, last := s'.now } ∧ others u
        ∧ ∃ body, u.out = .vdp v.port k 0x02 0 body :: s'.out))
      ∧ (v.stage = .challenged → v.last + 10000000000 ≤ s'.now → Runs (.challengeExpiry k t) s (fun u =>
        u.session? k = none ∧ others u))
      ∧ (v.stage = .challenged → s'.now < v.last + 10000000000 → Runs (.challengeExpiry k t) s (fun u => u = s')
        ∧ Runs (.auth port k true t) s (fun u => others u ∧ u.out = .vdp port k 0x04 0 [] :: s'.out
          ∧ u.session? k = some { v with stage := .established, port := port, last := s'.now, txSeq := 1 })
        ∧ Runs (.auth port k false t) s (fun u => u.session? k = none ∧ others u
          ∧ Counted Obj.BRK_VDP_AUTH_FAIL 0 s' u))
      ∧ (v.stage = .established → v.last + s'.obj Obj.BRK_SESSION_IDLE_S 0 * 1000000000 ≤ s'.now →
        Runs (.sessionIdleExpiry k t) s (fun u => u.session? k = none ∧ others u
          ∧ u.out = .vdp v.port k 0x13 0 [] :: s'.out))
      ∧ Runs (.reassemblyExpiry k msg t) s (fun u => others u ∧ ∃ x, u.session? k = some x
          ∧ (∀ q ∈ x.partials, q.msg = msg → s'.now < q.since + 10000000)
          ∧ ∀ q ∈ v.partials, q.msg ≠ msg → q ∈ x.partials))
    ∧ (k ≠ 0 → Runs (.close k) s (fun u => u.session? k = none ∧ ∀ j, j ≠ k → u.session? j = s.session? j))

/-- Reads, writes and shadows of a dictionary object over VDP and over a mailbox, repeats, KEEPALIVE and telemetry. For
ATT_DENSE_LIMIT of a pallet (two bytes, committed): a new READ of an established session is answered with its value,
READ_SHADOW with the pending shadow where there is one, and a WRITE in range leaves the value and sets the shadow; the
FM-owned LD's mailbox reads and writes the same. A REQ_ID answered before is answered again from the kept answer, and
nothing else is done. KEEPALIVE is answered OK. An active subscription sends one notification at an instant of its
period, and none at another. -/
def Obligations.DictionaryRequests : Prop :=
  ∀ (s : State) (port : Fin 2) (k req t : Nat) (v : Session) (p : PalletNo) (x : Fin 4096) (sub : Fin 64) (o : OwnerNo),
    let s' := s.at t
    let oid := Obj.ATT_DENSE_LIMIT
    let a : ObjAddr := { index := 0x3002, sub := 1, inst := p.val }
    let reads := fun (n : Nat) => Answer.bytes { status := .ok, length := 2, data := toBytes 2 n }
    let wrote := Answer.bytes { status := .ok, length := 0, data := [] }
    let data := toBytes 2 (x.val + 1)
    let now := s'.obj oid p
    let pending := (NMap.get? s'.dict.shadow (objKey oid p)).getD now
    let set := fun (u : State) => u.obj oid p = now ∧ NMap.get? u.dict.shadow (objKey oid p) = some (x.val + 1)
    let same := fun (u : State) => u.obj oid p = now ∧ u.dict.shadow = s'.dict.shadow
    (s'.running = true → k ≠ 0 → s'.session? k = some v → v.stage = .established →
      let tells := fun (bs : List Byte) (u : State) => u.out = .vdp port k 0x11 req bs :: s'.out
      ((∀ y ∈ v.answers, y.1 ≠ req) →
        Runs (.vdpRead port k req a 0 2 t) s (fun u => tells (reads now) u ∧ same u)
        ∧ Runs (.readShadow port k req a 0 2 t) s (fun u => tells (reads pending) u ∧ same u)
        ∧ Runs (.vdpWrite port k req a 0 data t) s (fun u => tells wrote u ∧ set u)
        ∧ Runs (.keepalive port k req t) s (fun u => tells wrote u ∧ u.dict = s'.dict))
      ∧ ∀ bs, v.answers.find? (fun y => y.1 == req) = some (req, bs) →
        Runs (.vdpWrite port k req a 0 data t) s (fun u => tells bs u ∧ same u ∧ Counted Obj.BRK_VDP_REPEATS 0 s' u))
    ∧ (s'.running = true → o = 16 →
      Runs (.dictRead o a 0 2 t) s (fun u => same u ∧ u.out = .mailbox o .success (reads now) :: s'.out)
      ∧ Runs (.dictWrite o a 0 data t) s (fun u => set u ∧ u.out = .mailbox o .success wrote :: s'.out))
    ∧ (let w := s'.obj Obj.OBS_SUB sub
       let period := bitsOf w 64 32 * 1000
       bitOf w 0 = true → bitsOf w 32 32 = k → s'.session? k = some v → v.stage = .established →
       (period ≠ 0 → s'.now % period = 0 → Runs (.telemetrySample sub t) s (fun u =>
         u.session? k = some { v with noteSeq := v.noteSeq + 1, txSeq := v.txSeq + 2 }
         ∧ ∃ bs, u.out = .notify k v.noteSeq bs :: s'.out ∧ bs.length = 16 + 8 * bitsOf w 8 8))
       ∧ (s'.now % period ≠ 0 → Runs (.telemetrySample sub t) s (fun u => u = s')))

/-- The CXL mailbox commands, the HDM decoder and accesses to an LD's window. With the mailboxes open each command is
answered once: identity, capacity, timestamp and policy with the module's own values in their places, bytes that only
CXL gives as free values, firmware, timestamp-set and poison commands as unsupported. An allocation that fits is set for
its LDs. A decoder commit accepts one way only. A read of a line in the window returns the line, from the second copy
where the first is bad, which counts; with both bad it returns all ones; a write stores its line and no other byte; an
address outside the window is no address of the machine, and the model stops there by name. -/
def Obligations.MailboxAndWindow : Prop :=
  ∀ (s : State) (o : LdNo) (w : OwnerNo) (log : Fin 4) (x y t : Nat) (bs : List Byte) (mib fs : List Nat),
    let s' := s.at t
    let d := s.ld o
    let answers := fun (w : Nat) (ret : MboxRet) (ok : List Byte → Prop) (u : State) =>
      ∃ a, u.out = .mailbox w ret a :: s.out ∧ ok a
    let only := fun (ret : MboxRet) (ok : List Byte → Prop) (u : State) => answers o ret ok u ∧ OnlyParts [.out] s u
    let units := d.hdmMib / 256
    let line := x / 64 * 64
    let no := only .unsupported (fun a => a = [])
    (s.running = true →
      Runs (.identify w) s (answers w .success (fun a =>
        a.take 4 = pack [(0x1F3A, 2), (0x4810, 2)] ∧ (a.drop 8).take 8 = toBytes 8 s.kiln.serial))
      ∧ Runs (.getEventRecords o log) s (only .success (fun a =>
        (a.drop 20).take 2 = toBytes 2 (NMap.get [] d.logs log).length))
      ∧ Runs (.clearEventRecords o log true []) s (fun u => NMap.get [] (u.ld o).logs log = []
        ∧ answers o .success (fun a => a = []) u ∧ ∀ q : Fin 4, q ≠ log →
          NMap.get [] (u.ld o).logs q = NMap.get [] d.logs q)
      ∧ Runs (.getEventInterruptPolicy o) s (only .success (fun a => a = padTo 4 d.policy))
      ∧ (bs.length = 4 → Runs (.setEventInterruptPolicy o bs) s (fun u => (u.ld o).policy = bs
        ∧ answers o .success (fun a => a = []) u ∧ ∀ q : LdNo, q ≠ o → u.ld q = s.ld q))
      ∧ Runs (.getFwInfo o) s (only .success (fun a => a.length = 0x50))
      ∧ Runs (.getTimestamp o t) s (fun u => u.out = .mailbox o .success (toBytes 8 (Config.cxlTime s'.now)) :: s.out
        ∧ OnlyParts [.out, .now] s u)
      ∧ Runs (.getSupportedLogs o) s (only .success (fun a => a.length = 28))
      ∧ Runs (.getLog o x y t) s (only .success (fun a => a.length = t))
      ∧ Runs (.identifyMemoryDevice o) s (only .success (fun a =>
        (a.drop 0x10).take 24 = pack [(units, 8), (units, 8), (0, 8)]))
      ∧ Runs (.getPartitionInfo o) s (only .success (fun a => a = pack [(units, 8), (0, 24)]))
      ∧ Runs (.getHealthInfo o) s (only .success (fun a => a.length = 18))
      ∧ Runs (.transferFw o) s no ∧ Runs (.activateFw o) s no ∧ Runs (.setTimestamp o) s no
      ∧ Runs (.getPoisonList o) s no ∧ Runs (.injectPoison o) s no ∧ Runs (.clearPoison o) s no
      ∧ (allocOk s o mib = true → Runs (.setLdAllocations o mib) s (fun u =>
        (∀ q : LdNo, (u.ld q).hdmMib = newAlloc s o mib q) ∧ answers 16 .success (fun _ => True) u))
      ∧ Runs .getLdInfo s (answers 16 .success (fun a => a.take 10 = pack [(s.obj Obj.HST_HDM_POOL_MIB 0 * 2 ^ 20, 8), (16, 2)]))
      ∧ Runs (.getLdAllocations o 1) s (answers 16 .success (fun a => a.drop 4 = pack [(units, 8), (0, 8)]))
      ∧ Runs (.qosTelemetry o none) s (answers 16 .success (fun a => a.length = 18 - o))
      ∧ (o + fs.length ≤ 16 → Runs (.qosTelemetry o (some fs)) s (fun u =>
        (∀ i < fs.length, (u.ld (o + i)).qosFraction = fs.getD i 0) ∧ answers 16 .success (fun _ => True) u)))
    ∧ (x ≤ 6 → Runs (.hdmDecoderCommit o 0 x) s (fun u => u.ld o = { d with
        decoderCommitted := true, decoderError := false, decoderIg := x } ∧ OnlyParts [.host] s u))
    ∧ (y ≠ 0 → Runs (.hdmDecoderCommit o y x) s (fun u =>
        u.ld o = { d with decoderCommitted := false, decoderError := true } ∧ OnlyParts [.host] s u))
    ∧ (line + 64 ≤ s.winSize o →
      Runs (.cxlMemRead o x false false t) s (fun u => u.out = .cxlData o line (s.winRead o line 64) :: s.out
        ∧ OnlyParts [.out] s' u)
      ∧ Runs (.cxlMemRead o x true false t) s (fun u => u.out = .cxlData o line (s.winRead o line 64) :: s.out
        ∧ Counted Obj.HST_MIRROR_CORR o s u ∧ OnlyParts [.out, .dict] s' u)
      ∧ (s.host.rings = [] → s.trn.queues = [] → Runs (.cxlMemRead o x true true t) s (fun u => u.out.head? = some (.cxlData o line (List.replicate 64 0xFF))
        ∧ Counted Obj.HST_MIRROR_UNCORR o s u))
      ∧ Runs (.cxlMemWrite o x bs) s (fun u => u.winRead o line 64 = padTo 64 bs ∧ u.out = .cxlDone o line :: s.out
        ∧ (∀ a, (a < winAddr o line ∨ winAddr o line + 64 ≤ a) → NMap.get 0 u.host.window a = NMap.get 0 s.host.window a)
        ∧ u.host = { s.host with window := u.host.window } ∧ OnlyParts [.host, .out] s u))
    ∧ (s.winSize o < line + 64 → exec (.cxlMemRead o x false false t) s = .fault .outsideWindow
      ∧ exec (.cxlMemWrite o x bs) s = .fault .outsideWindow)

/-- Ring enable, disable and configuration, LD resets, configuration requests and the CXL link. An enable of a disabled
ring that passes the checks makes it active with HEAD and TAIL 0; another is refused and counted. A disable with nothing
taken disables the ring at once, and with entries taken it drains. A word written to a disabled ring sets its fields; to
an enabled ring it is refused and counted. An LD reset disables every ring of that LD and leaves its configuration and
every other owner's rings; a conventional reset does so for every LD and uncommits its decoder. A configuration request
is retried until the function may answer; a write then sets Bus Master Enable and D3hot, and a read gives the IDs, the
class code with the Revision ID, and the 16 LDs of the MLD DVSEC. The trained link is reported degraded where it is
narrower than sixteen lanes or slower than 32 GT/s. -/
def Obligations.RingConfiguration : Prop :=
  ∀ (s : State) (o : OwnerNo) (r : RingNo) (d : LdNo) (x n t : Nat),
    let s' := s.at t
    let v := s.ring o r
    let rings := fun (u : State) => ∀ q : RingNo, q ≠ r → u.ring o q = s.ring o q
    (v.enable = false → v.state = 0 →
      (enableOk s o r = true → Runs (.ringEnable o r) s (fun u => u.ring o r = { v with
          enable := true, state := 1, head := 0, tail := 0, errStatus := 0, visible := 0, waitSince := none, taken := 0,
          draining := false, unsignalled := 0, firstAt := none, held := [], heldRecs := [], heldSince := none, pass := 0 }
        ∧ rings u ∧ OnlyParts [.host, .asc] s u))
      ∧ (enableOk s o r = false → Runs (.ringEnable o r) s (fun u => u = s.bump Obj.HST_DB_REFUSED o)))
    ∧ (v.enable = true → v.kind ≠ 2 →
      (v.taken = 0 → Runs (.ringDisable o r) s (fun u => (u.ring o r).enable = false ∧ (u.ring o r).state = 0
        ∧ (u.ring o r).base = v.base ∧ rings u ∧ OnlyParts [.host] s u))
      ∧ (v.taken ≠ 0 → Runs (.ringDisable o r) s (fun u =>
        u.ring o r = { v with enable := false, draining := true, waitSince := none } ∧ rings u)))
    ∧ (v.enable = false → x < 2 ^ 32 →
      Runs (.ringConfigurationWrite o r 4 x) s (fun u => (u.ring o r).base % 2 ^ 32 = x
        ∧ (u.ring o r).base / 2 ^ 32 = v.base / 2 ^ 32 ∧ rings u)
      ∧ Runs (.ringConfigurationWrite o r 1 x) s (fun u => (u.ring o r).vector = bitsOf x 0 11
        ∧ (u.ring o r).coalCount = bitsOf x 16 16 ∧ rings u))
    ∧ (v.enable = true → Runs (.ringConfigurationWrite o r 4 x) s (fun u => u = s.bump Obj.HST_DB_REFUSED o))
    ∧ (s'.trn.queues = [] → s'.trn.regs = [] →
      Runs (.ldReset d t) s (fun u => Counted Obj.HST_LD_RESETS d s' u ∧ (u.ld d).busMaster = false ∧ (u.ld d).unmasked = []
        ∧ (∀ q : RingNo, (u.ring d q).state = 0 ∧ (u.ring d q).enable = false ∧ (u.ring d q).base = (s'.ring d q).base)
        ∧ ∀ e : OwnerNo, e.val ≠ d.val → ∀ q : RingNo, u.ring e q = s'.ring e q)
      ∧ Runs (.conventionalReset t) s (fun u => ∀ e : LdNo, Counted Obj.HST_LD_RESETS e s' u ∧ (u.ld e).busMaster = false
        ∧ (u.ld e).decoderCommitted = false ∧ ∀ q : RingNo, (u.ring e q).state = 0))
    ∧ (∀ b1 b2, s'.cfgRetry = false → Runs (.configurationRequest d .write (some b1) (some b2) t) s (fun u =>
        u.ld d = { s'.ld d with busMaster := b1, d3hot := b2 } ∧ u.out = .cfg d false none :: s'.out
        ∧ OnlyParts [.host, .out] s' u))
    ∧ (s'.cfgRetry = false →
      Runs (.configurationRequest d (.read none 0) none none t) s (fun u => u = s'.emit (.cfg d false (some 0x48101F3A)))
      ∧ Runs (.configurationRequest d (.read none 8) none none t) s (fun u => u = s'.emit (.cfg d false (some 0x050210B0)))
      ∧ Runs (.configurationRequest d (.read (some 9) 8) none none t) s (fun u =>
        u = s'.emit (.cfg d false (some (16 * 2 ^ 16 + 9)))))
    ∧ (∀ op b1 b2, s'.cfgRetry = true → Runs (.configurationRequest d op b1 b2 t) s (fun u => u = s'.emit (.cfg d true none)))
    ∧ Runs (.cxlPerstN t) s (fun u => u.boot.perstAt = some s'.now ∧ OnlyParts [.boot] s' u)
    ∧ (s'.boot.perstAt ≠ none → Runs (.cxlLinkTrained x n t) s (fun u => (∀ e : LdNo,
        u.obj Obj.HST_LINK_DEGRADED e = if x < 16 ∨ n < 32 then 1 else 0) ∧ OnlyParts [.boot, .dict] s' u))

/-- Doorbells, SEQ waits, MSI-X, status bits, and accesses to host memory. A tail doorbell of a STEP ring makes the next
entry visible where its SEQ matches, begins a counted wait where it does not, and is a ring error beyond the ring's
size; a later read of the entry ends the wait, and one that still differs after HST_SEQ_WAIT_US is a ring error. A head
doorbell frees the entries before it; the FM-owned LD's doorbell object does the same. A held MSI-X message is sent when
its vector is unmasked, and a coalesced one at COAL_NS. STATUS bits written 1 clear, and EVENT_RING and EVENT_EN take
what is written to them. An access to host memory that ends well is forgotten, and counts as a stall where its page was
waited for beyond MEM_STALL_NS; one that fails or times out counts in HST_DMA_ERRORS and raises event 0x14. -/
def Obligations.DoorbellsAndSignals : Prop :=
  ∀ (s : State) (o : OwnerNo) (r : RingNo) (d : LdNo) (via : Via) (x t : Nat) (b : BitVec 3) (m : Dma),
    let s' := s.at t
    let v := s'.ring o r
    let next := (v.visible + 1) % 2 ^ 32
    let wrong := fun (u : State) => (u.ring o r).state = 2 ∧ (u.ring o r).errStatus = 12 ∧ Counted Obj.HST_RING_ERRORS o s' u
    (v.enable = true → v.state = 1 → v.kind = 2 → v.visible < 2 ^ 32 →
      (v.tail = v.visible → v.head = v.visible → v.waitSince = none →
        (seqMatches s' o v = true → Runs (.ringTailDoorbell o r next t) s (fun u =>
          u.ring o r = { v with tail := next, visible := next } ∧ Counted Obj.HST_DOORBELLS o s' u))
        ∧ (seqMatches s' o v = false → Runs (.ringTailDoorbell o r next t) s (fun u =>
          u.ring o r = { v with tail := next, waitSince := some s'.now } ∧ Counted Obj.HST_SEQ_WAITS o s' u))
        ∧ (x < 2 ^ 32 → v.size < (x + 2 ^ 32 - v.head) % 2 ^ 32 → Runs (.ringTailDoorbell o r x t) s wrong))
      ∧ ∀ w, v.waitSince = some w →
        (v.tail = next → v.visible ≠ next → seqMatches s' o v = true → Runs (.seqReread o r t) s (fun u =>
          u.ring o r = { v with visible := next, waitSince := none }))
        ∧ (seqMatches s' o v = false → w + s'.obj Obj.HST_SEQ_WAIT_US o * 1000 ≤ s'.now →
          Runs (.seqWaitExpiry o r t) s wrong))
    ∧ (v.enable = true → v.kind = 3 → v.held = [] → x < 2 ^ 32 → (v.tail + 2 ^ 32 - x) % 2 ^ 32 ≤ v.used →
      Runs (.ringHeadDoorbell o r x t) s (fun u => u.ring o r = { v with head := x } ∧ Counted Obj.HST_DOORBELLS o s' u)
      ∧ (Served s via → o = 16 → Runs (.hstFmDoorbell via r x t) s (fun u => u.ring 16 r = { v with head := x }
        ∧ Replied via .ok u ∧ Counted Obj.HST_DOORBELLS 16 s' u)))
    ∧ (v.enable = false → Runs (.ringTailDoorbell o r x t) s (fun u => (∀ q : RingNo, u.ring o q = s'.ring o q)
        ∧ Counted Obj.HST_DB_REFUSED o s' u))
    ∧ (∀ f, o.val = d.val → v.firstAt = some f → v.coalNs ≠ 0 → f + v.coalNs ≤ s'.now → v.vector ∈ (s'.ld d).unmasked →
      Runs (.msixCoalesceExpiry d r t) s (fun u => u.ring d r = { v with unsignalled := 0, firstAt := none }
        ∧ u.out = .msix d v.vector :: s'.out))
    ∧ (x ∈ (s.ld d).msixPending → Runs (.msixVectorUnmask d x) s (fun u => x ∈ (u.ld d).unmasked
        ∧ x ∉ (u.ld d).msixPending ∧ u.out = .msix d x :: s.out))
    ∧ (x ∉ (s.ld d).msixPending → Runs (.msixVectorUnmask d x) s (fun u => x ∈ (u.ld d).unmasked ∧ u.out = s.out))
    ∧ Runs (.ldStatusClear d ⟨b, none⟩) s (fun u =>
        u.ld d = { s.ld d with status := (s.ld d).status &&& ~~~b } ∧ OnlyParts [.host] s u)
    ∧ (∀ en, Runs (.ldStatusClear d ⟨b, some (r, en)⟩) s (fun u =>
        u.ld d = { s.ld d with status := (s.ld d).status &&& ~~~b, eventRing := r, eventEn := en } ∧ OnlyParts [.host] s u))
    ∧ (s'.host.dmas = [m] →
      (m.stalled = 0 → (∀ p h, m.purpose = .page p h → s'.now - m.since ≤ s'.obj Obj.MEM_STALL_NS p) →
        Runs (.hostDmaDone m.id true t) s (fun u => u.host.dmas = [] ∧ OnlyParts [.host] s' u))
      ∧ (∀ p h, m.purpose = .page p h → m.stalled = 0 → s'.obj Obj.MEM_STALL_NS p < s'.now - m.since →
        Runs (.hostDmaDone m.id true t) s (fun u => u.host.dmas = [] ∧ Counted (Obj.MEM_STALL_EVENTS + 3) p s' u
          ∧ u.obj (Obj.MEM_STALL_NS_SUM + 3) p = s'.obj (Obj.MEM_STALL_NS_SUM + 3) p + (s'.now - m.since)))
      ∧ ∀ p h, m.purpose = .page p h → s'.byHandle h = none →
        (let failed := fun (u : State) => u.host.dmas = [] ∧ Counted Obj.HST_DMA_ERRORS m.ld s' u ∧ Raised 0x14 s' u
         Runs (.hostDmaDone m.id false t) s failed
         ∧ (m.since + s'.obj Obj.HST_DMA_TIMEOUT_US m.ld * 1000 ≤ s'.now → Runs (.dmaTimeout m.id t) s failed)
         ∧ (s'.now < m.since + s'.obj Obj.HST_DMA_TIMEOUT_US m.ld * 1000 → Runs (.dmaTimeout m.id t) s (fun u => u = s'))))

/-- Key slots: assignment, attestation requests and reports, expiry, retirement, drain and zeroisation. An EMPTY slot
other than 0 takes an assignment with a new generation, and no other; every other assignment is refused and changes no
slot. An attestation request that nothing refuses joins the queue of at most 16. The signed report of a slot, its laid-
out body with the signature behind it, takes the slot to RESERVED with the digest of the whole report and its expiry,
counts, and leaves the queue; the pair of a RESERVED slot is erased at its expiry. A retire of an ASSIGNED or RESERVED
slot empties it and keeps its generation as the last; of an INSTALLING slot it waits; of an ACTIVE slot it starts the
drain, here of a slot with no work. A drained slot is DRAINED; a drain past SEC_DRAIN_MAX_MS with placements still
outstanding is forced, counts and raises event 0x80. Zeroisation 500 µs later leaves the slot EMPTY. -/
def Obligations.KeySlotLifecycle : Prop :=
  ∀ (s : State) (via : Via) (k : SlotNo) (gen lds nonce t : Nat) (sig : List Byte),
    let s' := s.at t
    let v := s.kslot k
    let others := fun (u : State) => ∀ j : SlotNo, j ≠ k → u.kslot j = s.kslot j
    let emptied := fun (u : State) => u.kslot k = { KeySlot.reset with lastGen := v.gen } ∧ others u
    (Served s via →
      (k.val ≠ 0 → gen ≠ 0 → gen ≠ v.lastGen → v.state = .empty → Runs (.secSlotAssign via k gen lds) s (fun u =>
        u.kslot k = { v with state := .assigned, gen := gen, lds := lds } ∧ others u ∧ Replied via .ok u
          ∧ OnlyParts [.keys, .dict, .out] s u))
      ∧ ((k.val = 0 ∨ gen = 0 ∨ gen = v.lastGen ∨ v.state ≠ .empty) → Runs (.secSlotAssign via k gen lds) s (fun u =>
        Replied via .accessDenied u ∧ OnlyParts [.dict, .out] s u))
      ∧ (attestRefusal s k = none →
        (s.kiln.attestQ.length < 16 → Runs (.secAttestReq via k nonce t) s (fun u =>
          u.kiln = { s.kiln with attestQ := s.kiln.attestQ ++ [(k.val, nonce, via)] } ∧ Replied via .ok u
            ∧ OnlyParts [.kiln, .dict, .out] s' u))
        ∧ (16 ≤ s.kiln.attestQ.length → Runs (.secAttestReq via k nonce t) s (fun u =>
          Replied via .notReady u ∧ OnlyParts [.dict, .out] s' u)))
      ∧ (k.val ≠ 0 →
        (v.state = .assigned ∨ v.state = .reserved → Runs (.secRetire via k t) s (fun u => emptied u
          ∧ Counted Obj.SEC_RETIREMENTS 0 s u ∧ Replied via .ok u ∧ OnlyParts [.keys, .dict, .out] s' u))
        ∧ (v.state = .installing → Runs (.secRetire via k t) s (fun u => u.kslot k = { v with retireWaits := true }
          ∧ others u ∧ Replied via .ok u ∧ OnlyParts [.keys, .dict, .out] s' u))
        ∧ (v.state = .active → s.req.requests = [] → s.trn.queues = [] → s.trn.regs = [] →
          (∀ p ∈ slotPallets s k, (s.pallet p).state = .empty) → Runs (.secRetire via k t) s (fun u =>
            u.kslot k = { v with state := .retiring, tRetire := s'.now } ∧ others u ∧ Counted Obj.SEC_RETIREMENTS 0 s u
              ∧ OnlyParts [.keys, .dict, .host, .out] s' u))))
    ∧ (∀ rest, s.kiln.attestQ = (k.val, nonce, via) :: rest → k.val ≠ 0 → attestRefusal s k = none → v.state ≠ .active →
      let pair := ({ s' with kiln := { s'.kiln with attestQ := rest } }).newId
      let expire := s'.now + s.obj Obj.SEC_EK_LIFE_S 0 * 1000000000
      let report := reportBody pair.2 k nonce expire (Config.encapKey pair.1) ++ padTo 29792 sig
      Runs (.attestReportSigned sig t) s (fun u => u.kiln.attestQ = rest ∧ u.kiln.report = ofBytes report
        ∧ Counted Obj.SEC_ATTEST_REPORTS 0 s u ∧ others u
        ∧ u.kslot k = { v with state := .reserved, reportDigest := digest64 report, ekExpire := expire }))
    ∧ (v.state = .reserved → v.ekExpire ≤ s'.now → Runs (.ekExpiry k t) s (fun u =>
        u.kslot k = { v with state := .assigned, reportDigest := 0, ekExpire := 0 } ∧ others u ∧ OnlyParts [.keys] s' u))
    ∧ (s'.now < v.ekExpire → Runs (.ekExpiry k t) s (fun u => u = s'))
    ∧ (v.state = .retiring →
      (drained s' k = true → Runs (.drainComplete k t) s (fun u => u.kslot k = { v with state := .drained, tD := s'.now }
        ∧ others u ∧ OnlyParts [.keys] s' u))
      ∧ (drained s' k = false → Runs (.drainComplete k t) s (fun u => u = s'))
      ∧ (drained s' k = false → s.req.requests = [] → s.trn.queues = [] → s.trn.regs = [] → s.trn.flows = [] →
        s.trn.waiting = [] → (∀ p ∈ slotPallets s k, (s.pallet p).state = .empty) →
        (v.tRetire + s.obj Obj.SEC_DRAIN_MAX_MS 0 * 1000000 ≤ s'.now → Runs (.drainForced k t) s (fun u =>
          u.kslot k = { v with state := .drained, tD := s'.now } ∧ others u ∧ Counted Obj.SEC_DRAIN_FORCED 0 s u
            ∧ (∃ e, u.events.head? = some e ∧ e.code = 0x80 ∧ e.time = s'.now) ∧ ∀ x ∈ u.mem.placements, x.cmd.pallet.val ∉ slotPallets s k))
        ∧ (s'.now < v.tRetire + s.obj Obj.SEC_DRAIN_MAX_MS 0 * 1000000 → Runs (.drainForced k t) s (fun u => u = s'))))
    ∧ (v.state = .drained →
      (v.tD + 500000 ≤ s'.now → Runs (.zeroise k t) s (fun u => emptied u ∧ Counted Obj.SEC_ZEROISED 0 s u))
      ∧ (s'.now < v.tD + 500000 → Runs (.zeroise k t) s (fun u => u = s')))

/-- Key release, install and distribution; pallet image installs. A release that names a RESERVED slot with its
generation, its report's digest and a live pair takes the slot to INSTALLING; another leaves every slot and is counted.
A bundle that passes makes the slot ACTIVE with its keys and its tenant, which becomes resident, where it was not, with
the policy's identity, consent, pallets, LDs and signer; one that fails returns the slot to ASSIGNED with its pair
erased. The copies of an ACTIVE slot's keys are marked distributed. An image install of a pallet of an ACTIVE slot joins
the pallet's installs; when decrypted, one that R338 and the tenant's policy accept stands at DST with its body in
memory, and one that fails is counted, and any image at DST goes. -/
def Obligations.KeysAndImagesInstalled : Prop :=
  ∀ (s : State) (via : Via) (k : SlotNo) (keys : SlotKeys) (q : Policy) (p : PalletNo) (chk : ImageCheck) (m : Manifest) (body : List Byte)
    (magic version gen digest src dst tag t : Nat),
    let s' := s.at t
    let v := s.kslot k
    let others := fun (u : State) => ∀ j : SlotNo, j ≠ k → u.kslot j = s.kslot j
    (Served s via →
      (releaseOk s' magic version k gen digest = true → Runs (.secKeyRelease via magic version k gen digest t) s (fun u =>
        u.kslot k = { v with state := .installing, release := some via } ∧ others u ∧ Replied via .ok u
          ∧ OnlyParts [.keys, .dict, .out] s' u))
      ∧ (releaseOk s' magic version k gen digest = false → Runs (.secKeyRelease via magic version k gen digest t) s (fun u =>
        u.keys = s.keys ∧ Counted Obj.SEC_RELEASE_REFUSED 0 s u
          ∧ Replied via (if s.slotRetired k then .keyRetired else .accessDenied) u)))
    ∧ (v.state = .installing → v.retireWaits = false → v.release = some via →
      (bundleOk s' true q = true → Runs (.keyInstallDone k true ⟨keys, q⟩ t) s (fun u => ∃ i, tenantIndex s q = some i
        ∧ u.kslot k = { v with
            state := .active, tenant := some i, reportDigest := 0, ekExpire := 0, distributed := false, release := none,
            xts := keys.xts, link := keys.link, model := keys.model }
        ∧ others u ∧ Counted Obj.SEC_RELEASES_OK 0 s u
        ∧ (s.tenant? i = none → ∃ x, u.tenant? i = some x ∧ x.id = q.tenantId ∧ x.consent = q.consent ∧ x.pallets = q.pallets
          ∧ x.lds = q.lds ∧ x.signer = q.imageSigner)
        ∧ (s.tenant? i ≠ none → u.keys.tenants = s.keys.tenants)))
      ∧ Runs (.keyInstallDone k false ⟨keys, q⟩ t) s (fun u =>
        u.kslot k = { v with state := .assigned, reportDigest := 0, ekExpire := 0, release := none } ∧ others u
        ∧ Counted Obj.SEC_RELEASE_REFUSED 0 s u ∧ u.keys.tenants = s.keys.tenants))
    ∧ (v.state = .active → Runs (.keyDistributionDone k t) s (fun u => u.kslot k = { v with distributed := true } ∧ others u
        ∧ OnlyParts [.keys] s' u))
    ∧ (Served s via →
      (ownerSlot s p = .ok k.val → Runs (.secImageInstall via p src dst tag t) s (fun u =>
        u.pallet p = { s.pallet p with
          installs := (s.pallet p).installs ++ [{ src := src, dst := dst, tag := tag, keyslot := k.val, via := via }] }
        ∧ OnlyPallet p s u ∧ Replied via .ok u ∧ OnlyParts [.pallets, .dict, .out] s' u))
      ∧ (∀ st, ownerSlot s p = .error st → Runs (.secImageInstall via p src dst tag t) s (fun u =>
        Replied via st u ∧ OnlyParts [.dict, .out] s' u)))
    ∧ ∀ (x : Install) (rest : List Install), (s.pallet p).installs = x :: rest →
      let kept := (s.pallet p).installed.filter (fun y => y.addr ≠ x.dst)
      (installOk s p chk m body = true → s.vMapped p x.dst body.length = true → Runs (.imageInstallDone p chk m body t) s (fun u =>
        u.pallet p = { s.pallet p with
          installs := rest,
          installed := kept ++
            [{ addr := x.dst, manifest := m, length := body.length, digest := chk.digest, keyslot := x.keyslot }] }
        ∧ OnlyPallet p s u ∧ u.mem = (s.vWrite p x.dst body).mem))
      ∧ (installOk s p chk m body = false → Runs (.imageInstallDone p chk m body t) s (fun u =>
        u.pallet p = { s.pallet p with installs := rest, installed := kept } ∧ OnlyPallet p s u
          ∧ Counted Obj.SEC_IMAGE_REFUSED 0 s u))

/-- ADMIT, REQ_UPDATE, RESERVE, RELEASE, CANCEL of a CMD ring, and the freeing of a released request. Where the ring has
a visible entry to take: an ADMIT that no check refuses makes the resident request of the picked slot, with CTXLEN and
NEXT_STEP 0, and counts; a refused one makes none and counts where R302 says. An update whose blocks agree waits for the
next step; one that R117 or R118 refuses counts and changes nothing. An accepted reserve takes effect at once while no
step runs, and waits otherwise. A release waits for RELEASE_FREE, which frees the request and stamps its slot once no
step names it. A cancel of a past step changes no request; of a later one it is noted; of the running one, before J, it
marks the entry. -/
def Obligations.RequestCommands : Prop :=
  ∀ (s : State) (o : OwnerNo) (r : RingNo) (tag handle mask lmax step slot k t : Nat) (b : AdmitBody) (blocks : List Block)
    (q : Request) (h : HSlot) (src : Source),
    let s' := s.at t
    let taken := (takeEntry s' o r).isSome = true
    let rest := fun (u : State) => ∀ j, j ≠ slot → u.request? j = s'.request? j ∧ u.reqLocal j = s'.reqLocal j
    let l := s'.reqLocal slot
    (taken →
      (admitRefusal s' o b = none → pickSlot s' = some k → Runs (.admitCmd o r tag b t) s (fun u =>
        (∃ x, u.request? k = some x ∧ x.handle = (issueSlot s' k).1 ∧ x.rid = b.rid ∧ x.pallet = b.pallet.val
          ∧ x.keyslot = b.keyslot.val ∧ x.life = .resident ∧ x.geom = admitGeom b ∧ x.nstream = b.nstream ∧ x.pfmt = b.pfmt
          ∧ x.ctxlen = 0 ∧ x.nextStep = 0 ∧ x.cstep = 0xFFFFFFFF ∧ x.pendValid = false ∧ x.tAdmit = s'.now)
        ∧ (u.reqLocal k).lmax = b.lmax ∧ (u.reqLocal k).owner = o.val
        ∧ (∀ j, j ≠ k → u.request? j = s'.request? j) ∧ Counted Obj.SCH_ADMITTED b.pallet s' u))
      ∧ (∀ st c, admitRefusal s' o b = some (st, c) → Runs (.admitCmd o r tag b t) s (fun u =>
        OnlyParts [.dict, .host, .out] s' u ∧ ∀ x, c = some x → Counted x b.pallet s' u))
      ∧ (s'.owned o handle = some (slot, q) →
        let old := nextBlocks s' slot q
        let new := applyBlocks mask blocks old
        (blocks.length = (maskStreams mask).length →
          ((∀ e ∈ old.zip new, e.1.active = e.2.active ∧ (e.1.active = true → e.1.window = e.2.window ∧ e.1.vocab = e.2.vocab)) →
            blocksOk q.nstream new = true → Runs (.reqUpdate o r tag handle mask blocks t) s (fun u =>
              u.reqLocal slot = { l with update := some (0xFFFF, new) } ∧ u.request? slot = some q ∧ rest u
              ∧ OnlyParts [.req, .host, .out] s' u))
          ∧ (blocksOk q.nstream new = false → Runs (.reqUpdate o r tag handle mask blocks t) s (fun u =>
              Counted Obj.SMP_BLOCK_REFUSED q.pallet s' u ∧ OnlyParts [.dict, .host, .out] s' u)))
        ∧ (reserveRefusal s' o handle lmax = none →
          ((s'.pallet q.pallet).run = none → Runs (.reserve o r tag handle lmax t) s (fun u =>
            let v := reservation s' q.pallet q.geom lmax q.blocks
            u.request? slot = some { q with resPages := v.2.1, resSpill := v.2.2 } ∧ (u.reqLocal slot).lmax = lmax
              ∧ (u.reqLocal slot).reserve = none ∧ rest u ∧ OnlyParts [.req, .host, .out] s' u))
          ∧ ((s'.pallet q.pallet).run ≠ none → Runs (.reserve o r tag handle lmax t) s (fun u =>
            u.request? slot = some q ∧ u.reqLocal slot = { l with reserve := some lmax } ∧ rest u
              ∧ OnlyParts [.req, .host, .out] s' u)))
        ∧ (q.life = .resident → l.release = none → Runs (.release o r tag handle t) s (fun u =>
          u.reqLocal slot = { l with release := some (.ring o r tag) } ∧ u.request? slot = some q ∧ rest u
            ∧ OnlyParts [.req, .host, .out] s' u))
        ∧ (step < q.nextStep → Runs (.cancel o r tag handle step t) s (OnlyParts [.host, .out] s'))
        ∧ (q.nextStep ≤ step → (s'.pallet q.pallet).run = none → Runs (.cancel o r tag handle step t) s (fun u =>
          u.reqLocal slot = { l with cancel := some step } ∧ u.request? slot = some q ∧ rest u
            ∧ OnlyParts [.req, .host, .out] s' u))
        ∧ (∀ i e run, q.nextStep ≤ step → s'.entryOf q.pallet slot = some (i, e) → (s'.pallet q.pallet).run = some run →
          e.nostep = false → e.d.step = step → beforeJ s' run e = true → Runs (.cancel o r tag handle step t) s (fun u =>
            u.entryOf q.pallet slot = some (i, { e with statuses := e.statuses ++ [.cancelledDropped] })
              ∧ OnlyPallet q.pallet s' u ∧ OnlyParts [.pallets, .host, .out] s' u))))
    ∧ (s'.request? slot = some q → l.release = some src →
      (s'.inStep q.pallet slot = false → s'.req.out = [] → s'.req.into = [] → NMap.get? s'.req.hslots slot = some h →
        Runs (.releaseFree slot t) s (fun u => u.request? slot = none
          ∧ NMap.get? u.req.hslots slot = some { h with freedAt := some s'.now } ∧ rest u ∧ u.pallets = s'.pallets))
      ∧ (s'.inStep q.pallet slot = true → Runs (.releaseFree slot t) s (fun u => u = s')))

/-- Quantiser commands, HALT, and a module declared dead. GO on a slot that is free with a legal command makes it BUSY
and queues it with the limits of the step that runs; on a BUSY slot it is ignored; an illegal command faults the pallet,
which halts. The oldest queued command runs its blocks, is COMPLETE, and is charged to the pallet. HALT of a pallet that
runs no step leaves it HALTED with every wait of its micro-cores ended, and touches no brick outside it. A module
declared dead is marked; each rack command outstanding to it ends with TARGET_DEAD, and the pallet that sent it halts;
one declared dead before stays so. -/
def Obligations.QuantiserHaltAndDeath : Prop :=
  ∀ (s : State) (b : BrickNo) (c : CoreNo) (n : Fin 8) (p : PalletNo) (via : Via) (m : Fin 65536) (t : Nat),
    let s' := s.at t
    let k := s'.brick b
    let q := k.qslot n
    (q.busy = false → qslotValid q = true → Runs (.quantiserGo b c n t) s (fun u =>
        (u.brick b).qslot n = { q with busy := true, complete := false, spillFull := false, done := 0, fallbacks := 0, outliers := 0 }
        ∧ (u.brick b).qqueue = k.qqueue ++
          [{ slot := n.val, core := c.val, pc := (k.core c).pc.toNat, limits := s'.qlimits ((s'.palletOf b).getD 0) }] ∧ OnlyBrick b s' u ∧ OnlyParts [.array] s' u))
    ∧ (q.busy = true → Runs (.quantiserGo b c n t) s (fun u => u = s'))
    ∧ (q.busy = false → qslotValid q = false → s'.palletOf b = some p.val → (s'.pallet p).run = none →
      (s'.pallet p).state ≠ .empty → s'.trn.queues = [] → Runs (.quantiserGo b c n t) s (fun u =>
        (u.pallet p).state = .halted ∧ Counted Obj.ERR_PALLET_FAULTS p s' u ∧ Raised 0x01 s' u ∧ OnlyPallet p s' u))
    ∧ (∀ x rest, k.qqueue = x :: rest → s'.palletOf b = some p.val → Runs (.quantiserDone b t) s (fun u =>
        let y := runBlocks x.limits (k.qslot x.slot).nblk 0 ({ k with qqueue := rest }, k.qslot x.slot, QCounts.zero)
        u.brick b = y.1.setQslot x.slot { y.2.1 with busy := false, complete := true } ∧ OnlyBrick b s' u
        ∧ u.obj Obj.FMT_BLOCKS_WRITTEN p = s'.obj Obj.FMT_BLOCKS_WRITTEN p + y.2.2.blocks
        ∧ u.obj Obj.FMT_FALLBACK_BLOCKS p = s'.obj Obj.FMT_FALLBACK_BLOCKS p + y.2.2.fallbacks
        ∧ OnlyParts [.array, .dict, .req] s' u))
    ∧ ((s.pallet p).state ≠ .empty → (s.pallet p).run = none → s.trn.queues = [] → Runs (.halt p) s (fun u =>
        u.pallet p = { s.pallet p with state := .halted, change := none, retest := none } ∧ OnlyPallet p s u
        ∧ (∀ d, (s.rect p).has d = true → ∀ e, u.core d e = (s.core d e).halt)
        ∧ (∀ d, (s.rect p).has d = false → u.brick d = s.brick d) ∧ OnlyParts [.array, .pallets] s u))
    ∧ (Served s via →
      (s.dead m = true → Runs (.rmfDeadSet via m t) s (fun u => u.dead m = true ∧ Replied via .ok u
        ∧ OnlyParts [.dict, .out] s' u))
      ∧ (s.dead m = false → s.trn.queues = [] → s.trn.flows = [] → s.trn.waiting = [] → s.req.requests = [] → s.req.locals = [] →
        s.req.into = [] → s.req.out = [] → s.req.homes = [] → (∀ j, s.windows j = [] ∧ (s.pallet j).run = none) →
        (∀ e ∈ s.rmf.rack, s.rackSlot (e.1 / 16) (e.1 % 16) = e.2 ∧ e.2.cmd.arrId = 0x1FFFF) →
        Runs (.rmfDeadSet via m t) s (fun u => u.dead m = true ∧ Replied via .ok u
          ∧ (∀ d : BrickNo, ∀ i : Fin 16, let v := s.rackSlot d i
              (v.busy = true ∧ v.dst = m.val → (u.rackSlot d i).busy = false ∧ (u.rackSlot d i).complete = true
                ∧ (u.rackSlot d i).status = statusCode .targetDead
                ∧ (v.pallet = p.val → (s.pallet p).state ≠ .empty → (u.pallet p).state = .halted))
              ∧ (v.busy = false ∨ v.dst ≠ m.val → u.rackSlot d i = v)))))

/-- A step from its descriptor to its boundary. A STEP entry of the ring's next visible place shows its descriptor; an
entry of another opcode puts the ring in ERROR. At STEP_START the pallet at its boundary takes the descriptor of the
ring that the step domain gives: refused, it counts and no step runs; otherwise the pallet is RUNNING under the next
sequence number, and its counter is ARMED with ARR_TARGET. A single entry that names its request rightly is judged fit;
one whose handle names no resident request is refused and consumes no number. A held entry resumes once its move has
ended, and a hold beyond MEM_STALL_NS counts as a stall of cause 6 with its time. At the boundary of a counted step the
pallet is READY; an entry whose status is not OK commits nothing and consumes its number; a prefill entry that commits
adds its positions. -/
def Obligations.StepLifecycle : Prop :=
  ∀ (s : State) (o : OwnerNo) (r : RingNo) (p : PalletNo) (d : StepDesc) (l : Loaded) (q : Request) (e : EntryRun) (run : StepRun)
    (i slot t : Nat),
    let s' := s.at t
    let k := o.val * 64 + r.val
    let v := s'.ring o r
    let at' := v.entryAddr (v.head + (s'.descsOf k).length)
    let seq := (s'.pallet p).seq + 1
    let op := fun (u : State) => (u.pallet p).run
    (v.active = true → v.kind = 2 → v.draining = false → (s'.descsOf k).length < (v.visible + 2 ^ 32 - v.head) % 2 ^ 32 →
      (s'.winNat o at' 1 = 0x40 → s'.role ≠ 0 → s'.role ≠ 3 → Runs (.step o r d t) s (fun u =>
        u.descsOf k = s'.descsOf k ++ [d] ∧ (∀ j, j ≠ k → u.descsOf j = s'.descsOf j) ∧ OnlyParts [.asc, .dict] s' u))
      ∧ (s'.winNat o at' 1 ≠ 0x40 → Runs (.step o r d t) s (fun u =>
        (u.ring o r).state = 2 ∧ (u.ring o r).errStatus = 12 ∧ Counted Obj.HST_RING_ERRORS o s' u)))
    ∧ (canStart s' p = false → Runs (.stepStart p t) s (fun u => u = s'))
    ∧ (∀ x ds, canStart s' p = true → (orderPop s' p (fun _ => true)).1 = some x → x.entity = k → s'.descsOf k = d :: ds →
      (s'.pallet p).loaded = some l → d.pallet = p →
      let refusal := descRefusal s' o r (s'.winNat o (v.entryAddr v.head + 8) 4) d
      (∀ st, refusal = some st → Runs (.stepStart p t) s (fun u => u.pallets = s'.pallets ∧ u.descsOf k = ds
        ∧ Counted Obj.SCH_DESC_REFUSED p s' u ∧ u.req = s'.req))
      ∧ (∀ f : StepEntry, refusal = none → 0 < d.arrTarget → d.entries = [f] →
        let starts := fun (u : State) (g : EntryRun → Prop) => ∃ w x, op u = some w ∧ (u.pallet p).state = .running
          ∧ (u.pallet p).seq = seq ∧ w.desc = d ∧ w.tStart = s'.now ∧ w.tag = seq % 65536 ∧ w.entries = [x] ∧ x.d = f ∧ g x
          ∧ w.counter = stepCounter s' p l seq
          ∧ u.counter w.counter = { state := .armed, count := 0, target := d.arrTarget, tag := seq % 65536 }
          ∧ OnlyPallet p s' u
        (s'.byHandle f.handle = some (slot, q) → misnamed p d f q = false → refusals s' slot q = [] → movingNow s' slot = false →
          f.attach = false → (d.kind = 1 → q.pendValid = true) → (s'.reqLocal slot).uncorr = false →
          (s'.reqLocal slot).cancel = none → s'.abortedStep q.rid f.step = false → Runs (.stepStart p t) s (fun u => starts u (fun x => x.slot = some slot
            ∧ x.statuses = [] ∧ x.ended = false ∧ x.held = none ∧ x.blocks = nextBlocks s' slot q)))
        ∧ (s'.byHandle f.handle = none → Runs (.stepStart p t) s (fun u => starts u (fun x => x.statuses = [.accessDenied]
          ∧ x.nostep = true ∧ x.ended = true)))))
    ∧ (op s' = some run → run.entries[i]? = some e → e.slot = some slot → s'.request? slot = some q → e.held = some .moving →
      (movingNow s' slot = true → Runs (.heldEntryResume p i t) s (fun u => u = s'))
      ∧ (movingNow s' slot = false → e.d.attach = false → (run.desc.kind = 1 → q.pendValid = true) → e.stalled = 0 →
        let wait := s'.now - e.heldAt
        let goes := fun (u : State) =>
          op u = some { run with entries := run.entries.set i { e with held := none } } ∧ OnlyPallet p s' u
        (wait ≤ s'.obj Obj.MEM_STALL_NS p → Runs (.heldEntryResume p i t) s (fun u => goes u ∧ OnlyParts [.pallets] s' u))
        ∧ (s'.obj Obj.MEM_STALL_NS p < wait → Runs (.heldEntryResume p i t) s (fun u => goes u
          ∧ Counted (Obj.MEM_STALL_EVENTS + 5) p s' u
          ∧ u.obj (Obj.MEM_STALL_NS_SUM + 5) p = s'.obj (Obj.MEM_STALL_NS_SUM + 5) p + wait))))
    ∧ (op s' = some run → run.doneAt = none → Runs (.stepBoundary p t) s (fun u => u = s'))
    ∧ (op s' = some run → run.doneAt ≠ none → noTokens s' p run.tag = true → run.entries = [e] → e.slot = some slot →
      s'.req.requests = [(slot, q)] → e.nostep = false → s'.slotRetired q.keyslot = false → (s'.pallet p).unload = false →
      s'.dict.groups = [] →
      let ends := fun (u : State) (n : Nat) => op u = none ∧ (u.pallet p).state = .ready ∧ ∃ x, u.request? slot = some x
        ∧ x.handle = q.handle ∧ x.ctxlen = q.ctxlen + n ∧ x.nextStep = q.nextStep + 1
      (endStatus s' run e ≠ .ok → e.d.offer = false → Runs (.stepBoundary p t) s (fun u => ends u 0))
      ∧ (endStatus s' run e = .ok → run.desc.kind = 2 → e.d.last = false → e.d.offer = false →
        (commitRows s' slot e.fresh (List.range e.d.ntok)).1 = true →
        Runs (.stepBoundary p t) s (fun u => ends u e.d.ntok)))

/-- Attention calls: arrival, service, answer and deadline. A call in sequence for a READY service queue of its
request's pallet and of its key's tenant, and that agrees with R86 to R89, is acknowledged, counted and held; a
malformed one is answered TRANSPORT_ERROR and held no longer; one of a freed handle's successor is dropped. The first
waiting call of a triple starts when its step's entry is ready and none of the triple is served, and its fresh rows
become the entry's. The answer of a served call takes it out, and counts where every page could be read and no TIMEOUT
had left; a page that fails R83 marks the request and raises event 0x10. A DECODE call unanswered 4 µs after its
arrival, without the time its answer's class was held under PFC, counts a TIMEOUT and is marked answered; before that
nothing happens. -/
def Obligations.AttentionCalls : Prop :=
  ∀ (s : State) (i : PortNo) (p : Pkt) (x : RxFlow) (c : AttCall) (q : Request) (w : CallRun) (e : EntryRun) (paused : Bool)
    (slot n handle layer step t : Nat),
    let s' := s.at t
    let pal := (s'.queue p.dq).pallet
    let mine := fun (v : CallRun) => v.of handle layer step
    let late := fun (v : CallRun) => mine v && !v.call.bulk && !v.answered && decide (v.tArr + 4000 + s'.heldNs v ≤ s'.now)
    let sv := s'.queue p.dq
    let serves := sv.ready 3 = true ∧ sameTenant s' p.keyId sv.keyId = true
    let held : CallRun :=
      { call := c, pallet := pal, srcMod := p.srcMod, sq := p.sq, svq := p.dq, keyId := p.keyId, port := i, tArr := s'.now,
        paused0 := s'.pausedNs i 4, serving := false, answered := false }
    let acked := AckedN (packetsOf c.length) s'
    (Arrives s' i 0x10 p x → serves →
      (s'.byHandle c.handle = some (slot, q) → q.pallet = pal → (s'.reqLocal slot).halted.contains c.step = false →
        (callStatus s' c = none → Runs (.attCall i p c t) s (fun u =>
          acked u i p x ∧ u.req = { s'.req with calls := s'.req.calls ++ [held] } ∧ Counted Obj.ATT_CALLS pal s' u
            ∧ (∀ j, (u.pallet j).run = (s'.pallet j).run)))
        ∧ (callFormOk c = false → s'.rmf.aborted = [] → s'.slotRetired q.keyslot = false →
          Runs (.attCall i p c t) s (fun u => acked u i p x ∧ u.req = s'.req ∧ Counted Obj.ATT_CALLS pal s' u ∧ Counted Obj.ATT_MALFORMED pal s' u)))
      ∧ (s'.request? (slotOf c.handle) = some q → q.handle ≠ c.handle → Runs (.attCall i p c t) s (fun u => acked u i p x
          ∧ u.req = s'.req ∧ Counted Obj.ATT_CALL_DROPPED pal s' u)))
    ∧ (s'.byHandle handle = some (slot, q) → s'.req.calls.find? (fun v => mine v && !v.serving) = some w →
      ((∃ v ∈ s'.req.calls, mine v = true ∧ v.serving = true) → Runs (.attCallService handle layer step t) s (fun u => u = s'))
      ∧ ((∀ v ∈ s'.req.calls, mine v = true → v.serving = false) → s'.entryOf q.pallet slot = some (n, e) → e.nostep = false →
        e.held = none → e.d.step = step → s'.keysReady q.keyslot = true →
        Runs (.attCallService handle layer step t) s (fun u =>
          u.req.calls = onCall (fun v => mine v && !v.serving) (fun v => { v with serving := true }) s'.req.calls
          ∧ u.obj Obj.FMT_NAN_INPUT q.pallet = s'.obj Obj.FMT_NAN_INPUT q.pallet + callNans w.call
          ∧ u.entryOf q.pallet slot
            = some (n, if w.call.fresh then { e with fresh := NMap.ins e.fresh layer (some w.call) } else e))))
    ∧ (s'.byHandle handle = some (slot, q) → s'.req.calls.find? (fun v => mine v && v.serving) = some w →
      let bad := ((List.range w.call.nkv).map (runHead s' q w.call)).any (·.2.2)
      let out := fun (u : State) => u.req.calls = s'.req.calls.filter (fun v => !(mine v && v.serving))
        ∧ u.req.requests = s'.req.requests
      (bad = false → Runs (.attAnswer handle layer step paused t) s (fun u => out u
        ∧ (w.answered = false → Counted Obj.ATT_ANSWERS_OK q.pallet s' u)))
      ∧ (bad = true → s'.entryOf q.pallet slot = none → Runs (.attAnswer handle layer step paused t) s (fun u => out u
        ∧ (u.reqLocal slot).uncorr = true ∧ Raised 0x10 s' u)))
    ∧ (s'.req.calls.find? late = none → Runs (.attDeadline handle layer step t) s (fun u => u = s'))
    ∧ (s'.byHandle handle = some (slot, q) → s'.req.calls.find? late = some w →
      Runs (.attDeadline handle layer step t) s (fun u =>
        u.req.calls = onCall late (fun v => { v with answered := true }) s'.req.calls ∧ u.req.requests = s'.req.requests
        ∧ Counted Obj.ATT_TIMEOUT q.pallet s' u))

/-- The draft tree of an entry, LOGITS and verification, and the wait for LOGITS. For an entry of a DECODE step with no
tree yet, the tree has the pallet's shape with the pending frame at node 0, and counts; without a draft pallet it is
node 0 alone, and counts so. LOGITS that agree with the tree are acknowledged and verified: the path, the emitted frames
and T_DONE are those of the walk, and the entry's work ends; LOGITS for a handle that names no resident request are
dropped and counted. Past DRF_LOGITS_WAIT_US without LOGITS the entry's work ends with TIMEOUT (the only status added
where its request has no collective group), and it counts. -/
def Obligations.DraftsAndLogits : Prop :=
  ∀ (s : State) (i : PortNo) (p : Pkt) (x : RxFlow) (m : LogitsMsg) (q : Request) (e : EntryRun) (run : StepRun) (tr : Tree)
    (rows : List (List (List (BitVec 32)))) (slot n handle t : Nat),
    let s' := s.at t
    let pal := (s'.queue p.dq).pallet
    (s'.byHandle handle = some (slot, q) → s'.entryOf q.pallet slot = some (n, e) → (s'.pallet q.pallet).run = some run →
      (run.desc.kind = 1 → e.ended = false → e.nostep = false → e.held = none → e.tree = none →
        Runs (.draftTree handle rows t) s (fun u => Counted Obj.DRF_STEPS q.pallet s' u ∧ u.req = s'.req
          ∧ u.obj Obj.DRF_NODES_DRAFTED q.pallet
            = s'.obj Obj.DRF_NODES_DRAFTED q.pallet + ((treeShape s' q.pallet).length - 1)
          ∧ (∃ y, u.entryOf q.pallet slot = some (n, { e with tree := some y, sentAt := s'.now })
            ∧ y.parent = treeShape s' q.pallet
            ∧ (0 < y.parent.length → y.frames.head? = some (q.pending.take q.nstream))
            ∧ (draftPallet s' q.pallet = none → y.q = []))
          ∧ (draftPallet s' q.pallet = none → Counted Obj.DRF_NO_DRAFT q.pallet s' u)))
      ∧ (e.ended = false → e.held = none → e.tree = some tr → e.logits = none → (s'.pallet q.pallet).loaded ≠ none →
        e.sentAt + 1000 * s'.obj Obj.DRF_LOGITS_WAIT_US q.pallet ≤ s'.now → Runs (.drfLogitsTimeout handle t) s (fun u =>
          Counted Obj.DRF_LOGITS_TIMEOUT q.pallet s' u ∧ ∃ l, Status.timeout ∈ l ∧ u.entryOf q.pallet slot
              = some (n, { e with statuses := l, ended := true })
            ∧ (s'.groupOf s'.curEpoch q.rid = none → l = .timeout :: e.statuses)))
      ∧ (s'.now < e.sentAt + 1000 * s'.obj Obj.DRF_LOGITS_WAIT_US q.pallet → Runs (.drfLogitsTimeout handle t) s (fun u =>
        u = s')))
    ∧ (Arrives s' i 0x13 p x → (s'.queue p.dq).ready 3 = true → sameTenant s' p.keyId (s'.queue p.dq).keyId = true →
      (s'.byHandle m.handle = none → Runs (.logits i p m t) s (fun u => AckedN (packetsOf m.length) s' u i p x ∧ u.pallets = s'.pallets
        ∧ Counted Obj.DRF_LOGITS_DROPPED pal s' u))
      ∧ (s'.byHandle m.handle = some (slot, q) → q.pallet = pal → s'.entryOf q.pallet slot = some (n, e) → e.nostep = false → e.d.step = m.step →
        e.logits = none → e.ended = false → logitsOk m q e = true → e.tree = some tr →
        let z := (logitRows m).map (fun a => a.map logitRow)
        (∀ a ∈ z, ∀ b ∈ a, b ≠ []) →
        let w : Walk := { e := e, t := tr, z := z, handle := q.admitHandle, step := m.step, nstream := q.nstream }
        let y := w.go 33 0
        Runs (.logits i p m t) s (fun u => AckedN (packetsOf m.length) s' u i p x ∧ u.entryOf q.pallet slot = some (n, { e with
            logits := some m, path := 0 :: y.1, accepted := y.1.length, tDone := s'.now, ended := true,
            emitted := y.1.map (fun j => tr.frames.getD j []) ++ [y.2.1] })
          ∧ u.obj Obj.DRF_NODES_ACCEPTED q.pallet = s'.obj Obj.DRF_NODES_ACCEPTED q.pallet + y.1.length)))

/-- Moves at their source: the command, OFFER, PULL, expiry, RELEASE, the check of the home register, MOVE_STUCK. A move
command of a resident request waits for its boundary; MOVE_OFFER then makes the request MOVING_OUT and offers it under a
new XID until RQS_OFFER_TIMEOUT. A PULL with OK is served; a refusal, T_EXPIRE, or a destination dead already goes to a
live alternate, and without one leaves the request RESIDENT and ends the move. RELEASE frees the request and ends the
move. Without RELEASE in time the source enters CHECK; where the register it reads names itself, and no alternate is
left, the request stays. A move stuck in CHECK for RQS_PLACE_WAIT raises event 0x40 once. An offered increment is served
on PULL and forgotten at its expiry. -/
def Obligations.MovesAtSource : Prop :=
  ∀ (s : State) (o : OwnerNo) (r : RingNo) (i : PortNo) (p : Pkt) (x : RxFlow) (h : HoHdr) (via : Via) (dstPallet : PalletNo)
    (q : Request) (m : MoveOut) (hs : HSlot) (reg : HomeReg) (tag rid dst alt a slot t : Nat),
    let s' := s.at t
    let te := s'.now + s'.obj Obj.RQS_OFFER_TIMEOUT 0
    let fresh := fun (src : Source) =>
      ({
        rid := rid, dst := dst, dstPallet := dstPallet.val, alt := if alt = 0xFFFF then none else some alt, xid := 0,
        state := .waiting, tExpire := 0, tPull := 0, stride := 0, dstHandle := 0, last := .ok, source := src, tCheck := 0,
        checkTag := 0, stuck := false } : MoveOut)
    let waits := fun (owner : Nat) => s'.byRid rid = some (slot, q) ∧ s'.ownsPallet owner q.pallet = true ∧ q.life = .resident
      ∧ s'.req.out.any (fun v => v.rid == rid) = false
    let offered := fun (u : State) (y : MoveOut) => moveOf u slot
      = some ({ q with life := .movingOut }, { y with xid := s'.req.xidNext, state := .offered, tExpire := te })
        ∧ Counted Obj.RQS_OFFERS 0 s' u
    let stays := fun (u : State) => u.request? slot = some { q with life := .resident }
      ∧ u.req.out = s'.req.out.filter (fun v => v.rid ≠ q.rid)
    let freed := fun (u : State) => u.request? slot = none ∧ u.req.out = s'.req.out.filter (fun v => v.rid ≠ q.rid)
      ∧ NMap.get? u.req.hslots slot = some { hs with freedAt := some s'.now }
    let here := Arrives s' i 0x18 p x ∧ hoKnown h = true ∧ staleHo s' h = false
    let pulled := mapIf s'.req.incs (fun v => v.rid == h.rid && v.xid == h.xid && !v.pulling)
      (fun v => { v with pulling := true, tPull := s'.now })
    let unexpired := s'.req.incs.filter (fun v => v.pulling || v.handle ≠ q.handle || decide (s'.now < v.tExpire))
    ((takeEntry s' o r).isSome = true →
      (waits o → Runs (.move o r tag rid dst dstPallet alt t) s (fun u =>
        u.req = { s'.req with out := s'.req.out ++ [fresh (.ring o r tag)] } ∧ OnlyParts [.req, .host, .out] s' u))
      ∧ (s'.byRid rid = none → Runs (.move o r tag rid dst dstPallet alt t) s (OnlyParts [.host, .out] s')))
    ∧ (Served s via →
      (waits 16 → Runs (.rqsMove via rid dst dstPallet alt t) s (fun u => Replied via .ok u
        ∧ u.req = { s'.req with out := s'.req.out ++ [fresh (.object via Obj.RQS_MOVE 0)] }))
      ∧ (s'.byRid rid = none → Runs (.rqsMove via rid dst dstPallet alt t) s (fun u => Replied via .accessDenied u
        ∧ u.req = s'.req)))
    ∧ (moveOf s' slot = some (q, m) →
      (m.state = .waiting → q.life = .resident →
        ((s'.pallet q.pallet).run = none → s'.dead m.dst = false → Runs (.moveOffer slot t) s (fun u => offered u m))
        ∧ ((s'.pallet q.pallet).run = none → s'.dead m.dst = true → m.alt = none → Runs (.moveOffer slot t) s (fun u =>
          stays u ∧ Counted Obj.RMF_TARGET_DEAD 0 s' u))
        ∧ ((s'.pallet q.pallet).run ≠ none → Runs (.moveOffer slot t) s (fun u => u = s')))
      ∧ (m.state = .offered →
        (m.tExpire ≤ s'.now →
          (m.alt = none → Runs (.offerExpiry slot t) s stays)
          ∧ (m.alt = some a → s'.dead a = false → q.life = .movingOut → Runs (.offerExpiry slot t) s (fun u =>
            offered u { m with dst := a, alt := none, last := .timeout })))
        ∧ (s'.now < m.tExpire → Runs (.offerExpiry slot t) s (fun u => u = s')))
      ∧ (here → s'.byRid h.rid = some (slot, q) → q.rid = h.rid →
        (s'.req.out.find? (fun v => v.rid == h.rid && v.xid == h.xid && v.state == .offered) = some m →
          (h.status = .ok → Runs (.pull i p h t) s (fun u => Acked s' u i p x ∧ moveOf u slot
            = some (q, { m with
                state := .pulling, tPull := s'.now, stride := s'.obj Obj.CMP_SAMPLE_STRIDE 0, dstHandle := h.dstHandle })))
          ∧ (h.status ≠ .ok → m.alt = none → Runs (.pull i p h t) s (fun u => Acked s' u i p x ∧ stays u)))
        ∧ (s'.req.out.find? (fun v => v.rid == h.rid && v.xid == h.xid && (v.state == .pulling || v.state == .check)) = some m →
          NMap.get? s'.req.hslots slot = some hs → Runs (.handoverRelease i p h t) s (fun u => Acked s' u i p x ∧ freed u)))
      ∧ (m.state = .pulling → m.tPull + s'.obj Obj.RQS_OFFER_TIMEOUT 0 + s'.obj Obj.RQS_PLACE_WAIT 0 ≤ s'.now →
        (holderOf s' q ≠ s'.moduleNum → Runs (.placeWaitExpiry slot t) s (fun u => moveOf u slot
          = some (q, { m with state := .check, tCheck := s'.now, checkTag := s'.trn.nextTag })))
        ∧ (holderOf s' q = s'.moduleNum → s'.home? q.rid = some reg → reg.homeMod = s'.moduleNum → reg.handle = q.handle →
          m.alt = none → Runs (.placeWaitExpiry slot t) s stays))
      ∧ (m.state = .pulling → s'.now < m.tPull + s'.obj Obj.RQS_OFFER_TIMEOUT 0 + s'.obj Obj.RQS_PLACE_WAIT 0 →
        Runs (.placeWaitExpiry slot t) s (fun u => u = s'))
      ∧ (m.state = .check → m.tCheck + s'.obj Obj.RQS_PLACE_WAIT 0 ≤ s'.now →
        (m.stuck = false → Runs (.moveStuck slot t) s (fun u => moveOf u slot = some (q, { m with stuck := true })
          ∧ Raised 0x40 s' u))
        ∧ (m.stuck = true → Runs (.moveStuck slot t) s (fun u => u = s'))))
    ∧ (s'.req.out = [] →
      (here → h.status = .ok → Runs (.pull i p h t) s (fun u => Acked s' u i p x
        ∧ u.req = { s'.req with incs := pulled }))
      ∧ (s'.request? slot = some q → Runs (.offerExpiry slot t) s (fun u => u.req = { s'.req with incs := unexpired })))

/-- Moves at their destination and the home register: OFFER, the image, the flush, PLACED and its answers, the backup.
An OFFER that no check refuses reserves a MOVING_IN request, or an inbox place and spill slots for an increment, and is
pulled; a refused one reserves nothing and is counted. The image read is installed and flushed; the flush of an
increment places it, that of a whole request sends PLACED. The primary takes the sender as home where HOME_SEQ agrees,
acknowledging at once or once its backup has, and refuses another. The backup holds what the mirror carries. An accepted
PLACED makes the request RESIDENT, or AWAIT_REPLAY after a rebuild; a refused one, or none within RQS_PLACE_WAIT of a
dead primary, frees it; the unpromoted backup's refusal sends PLACED again. -/
def Obligations.MovesAtDestination : Prop :=
  ∀ (s : State) (i : PortNo) (p : Pkt) (x : RxFlow) (h : HoHdr) (b : OfferBody) (hdr : ImageHdr) (img : Image) (wire : WireRead) (q : Request)
    (m : MoveIn) (reg : HomeReg) (s1 : State) (src : Source) (fl : FlushRec) (k slot id rid srcMod xid tag tSent handle homeMod homeSeq copyVer
      cstep tHome t : Nat),
    let s' := s.at t
    let here := Arrives s' i 0x18 p x ∧ hoKnown h = true ∧ staleHo s' h = false
    let heard := here ∧ (p.keyId = 0 ∨ s'.slotRetired (bitsOf p.keyId 0 10) = false)
    let open' := heard ∧ b.kind < 2
    let mine := fun (v : Inbox) => v.srcMod == m.srcMod && v.xid == m.xid
    let place : Inbox :=
      { srcMod := h.srcMod, xid := h.xid, pos0 := b.pos0, ntok := b.ntok, last := b.last, pending := b.pending, placed := false,
        pages := [] }
    let mirrored : HomeReg :=
      { handle := handle, homeMod := homeMod, homeSeq := homeSeq, copyVer := copyVer, cstep := cstep, tHome := tHome,
        primary := false, backup := 0xFFFF, peer := p.srcMod, waiting := [] }
    let replaced := fun (u : State) (n : MoveIn) => u.req.into = s'.req.into.map (fun v => if v = m then n else v)
    let gone := fun (u : State) => u.req.into = s'.req.into.filter (fun v => v ≠ m)
    (open' →
      (s'.takesMoves = true → s'.now ≤ b.tExpire → s'.byRid h.rid = none →
        arrivalRefusal s' b.dstPallet b.keyslot b.pos0 b.nspill hdr false = none → pickSlot s' = some k →
        Runs (.offerWhole i p h b hdr t) s (fun u => Acked s' u i p x
          ∧ (∃ y, u.request? k = some y ∧ y.handle = (issueSlot s' k).1 ∧ y.rid = h.rid ∧ y.life = .movingIn
            ∧ y.pallet = b.dstPallet.val ∧ y.keyslot = b.keyslot.val ∧ y.homeSeq = h.homeSeq ∧ y.geom = hdr.geom
            ∧ y.resPages = hdr.resPages ∧ y.resSpill = hdr.resSpill)
          ∧ u.req.into = s'.req.into ++ [.begin .whole h (issueSlot s' k).1 k b.dstPallet .device]))
      ∧ (s'.takesMoves = false → Runs (.offerWhole i p h b hdr t) s (fun u => Acked s' u i p x ∧ u.req = s'.req
        ∧ Counted Obj.RQS_DECLINED 0 s' u))
      ∧ (s'.byHandle h.dstHandle = some (slot, q) → incrementRefusal s' h b slot q = none →
        (takeSpills slot b.nspill s').isSome = true →
        Runs (.offerIncrement i p h b t) s (fun u => Acked s' u i p x
          ∧ u.request? slot = some { q with inbox := q.inbox ++ [place] }
          ∧ ∃ ks, ks.length = b.nspill ∧ u.req.into = s'.req.into
            ++ [{ MoveIn.begin .increment h q.handle slot q.pallet .device with spill := ks }]))
      ∧ (s'.byHandle h.dstHandle = none → Runs (.offerIncrement i p h b t) s (fun u => Acked s' u i p x ∧ u.req = s'.req
        ∧ Counted Obj.RQS_DECLINED 0 s' u)))
    ∧ (heard → 2 ≤ b.kind → Runs (.offerWhole i p h b hdr t) s (fun u => Acked s' u i p x ∧ u.req = s'.req
      ∧ Counted Obj.RQS_DECLINED 0 s' u))
    ∧ (s'.req.into.find? (fun v => v.srcMod == srcMod && v.xid == xid && v.state == .pulling && v.kind ≠ .rebuild) = some m →
      let read := if wire.stream.isEmpty then s' else codecWork (countWire s' wire) m.pallet
      let flushes := fun (u : State) (n : MoveIn) (va : Nat) =>
        ({ n with flush := s'.ids, state := .flushing } : MoveIn) ∈ u.req.into
        ∧ NMap.get? u.mem.flushes s'.ids
          = some { what := .moveIn, pallet := m.pallet, va := va, len := s'.spanSize m.pallet }
      (m.kind = .increment → img.pages = [] → s'.request? m.slot = some q → Runs (.imageReadDone srcMod xid img wire t) s (fun u =>
        flushes u { m with spill := [] } q.vbase))
      ∧ (m.kind = .whole →
        (installImage read m.slot img (wireTables wire) = some s1 → s1.request? m.slot = some q →
          Runs (.imageReadDone srcMod xid img wire t) s (fun u =>
            flushes u { m with copyGroup := img.copyGroup } q.vbase ∧ u.request? m.slot = some q ∧ u.mem.hbm = s1.mem.hbm))
        ∧ (installImage read m.slot img (wireTables wire) = none → Runs (.imageReadDone srcMod xid img wire t) s (fun u => gone u
          ∧ u.request? m.slot = none))))
    ∧ (NMap.get? s'.mem.flushes id = some fl →
      (flushReady s' fl = false → Runs (.flushComplete id t) s (fun u => u = s'))
      ∧ (flushReady s' fl = true → fl.what = .command src tag → Runs (.flushComplete id t) s (fun u =>
        NMap.get? u.mem.flushes id = none ∧ u.mem.hbm = s'.mem.hbm ∧ u.req = s'.req))
      ∧ (flushReady s' fl = true → fl.what = .putArrive k tag → Runs (.flushComplete id t) s (fun u =>
        u = { s' with mem := { s'.mem with flushes := NMap.del s'.mem.flushes id } }.emit (.arrive k 1 tag)))
      ∧ (flushReady s' fl = true → fl.what = .flushAck i p → Runs (.flushComplete id t) s (fun u =>
        u = sendFlushAck { s' with mem := { s'.mem with flushes := NMap.del s'.mem.flushes id } } i p (flushStatus s' fl))))
    ∧ (NMap.get? s'.mem.flushes id = some fl → fl.what = .moveIn → flushReady s' fl = true → s'.req.into.find? (fun v => v.flush == id && v.state == .flushing) = some m →
      (m.kind = .increment → s'.request? m.slot = some q → Runs (.flushComplete id t) s (fun u => gone u
        ∧ u.request? m.slot = some { q with inbox := mapIf q.inbox mine (fun v => { v with placed := true }) }
        ∧ u.obj Obj.RQS_PLACED 0 = s'.obj Obj.RQS_PLACED 0 + 1))
      ∧ (m.kind = .whole → m.copyGroup.getD 0 0xFFFF ≠ s'.moduleNum → s'.dead (m.copyGroup.getD 0 0xFFFF) = false →
        Runs (.flushComplete id t) s (fun u => replaced u { m with state := .placing, tPlaced := s'.now })))
    ∧ (here → s'.home? h.rid = some reg → reg.primary = true →
      let next := { reg with handle := h.dstHandle, homeMod := p.srcMod, homeSeq := reg.homeSeq + 1, tHome := s'.now }
      (reg.homeSeq = h.homeSeq → reg.alone s' = true → Runs (.placed i p h tSent t) s (fun u => Acked s' u i p x
          ∧ u.home? h.rid = some next))
      ∧ (reg.homeSeq = h.homeSeq → reg.alone s' = false → Runs (.placed i p h tSent t) s (fun u =>
          u.home? h.rid = some { next with waiting := reg.waiting ++ [(i.val, p)] }))
      ∧ (reg.homeSeq ≠ h.homeSeq → reg.homeMod ≠ p.srcMod → Runs (.placed i p h tSent t) s (fun u =>
          Refused .accessDenied u i ∧ u.req = s'.req)))
    ∧ (Arrives s' i 0x18 p x → Runs (.homeRegisterMirror i p rid handle homeMod homeSeq copyVer cstep tHome t) s (fun u =>
        Acked s' u i p x ∧ u.home? rid = some mirrored))
    ∧ (s'.home? rid = some reg →
      (mirrorPending s' rid = true → Runs (.homeUpdateAck rid t) s (fun u => u = s'))
      ∧ (mirrorPending s' rid = false → reg.waiting = [(i.val, p)] → s'.dead p.srcMod = false → NMap.get? s'.trn.rx (rxKey p.srcMod p.flow) = some x →
        Runs (.homeUpdateAck rid t) s (fun u => u.home? rid = some { reg with waiting := [] }
          ∧ NMap.get? u.trn.rx (rxKey p.srcMod p.flow) = some { x with hold := none }
          ∧ ∃ a fr, u.out.head? = some (.pkt i 7 a fr) ∧ a.ackPsn = x.expected ∧ a.dstMod = p.srcMod)))
    ∧ (placingOf s' rid = some m → s'.request? m.slot = some q →
      (m.kind = .whole → Runs (.placedResponse rid true t) s (fun u => gone u ∧ Counted Obj.RQS_PLACED 0 s' u
          ∧ u.request? m.slot = some { q with life := .resident, homeSeq := m.homeSeq + 1 }
          ∧ (u.reqLocal m.slot).refreshDue = true)
        ∧ (placedAgain s' m = false → Runs (.placedResponse rid false t) s (fun u => gone u ∧ u.request? m.slot = none))
        ∧ (placedAgain s' m = true → s'.dead (m.copyGroup.getD 1 0xFFFF) = false →
          Runs (.placedResponse rid false t) s (fun u => u.req = s'.req))
        ∧ (s'.dead (m.copyGroup.getD 0 0xFFFF) = true → m.tPlaced + s'.obj Obj.RQS_PLACE_WAIT 0 ≤ s'.now → Runs (.placedResendExpiry rid t) s (fun u => gone u
          ∧ u.request? m.slot = none)))
      ∧ (m.kind = .rebuild → Runs (.placedResponse rid true t) s (fun u => gone u ∧ Counted Obj.RQS_REBUILDS 0 s' u
          ∧ u.request? m.slot = some { q with life := .awaitReplay, homeSeq := m.homeSeq + 1 }))
      ∧ (s'.now < m.tPlaced + s'.obj Obj.RQS_PLACE_WAIT 0 → Runs (.placedResendExpiry rid t) s (fun u => u = s')))

/-- The coded copy, rebuilds, regroups, reads of an image and verification. A due refresh starts version COPY_VER + 1
over the image's stripes; once every live member has acknowledged, the request takes the version. A member stores a unit
beside its committed version, refuses a damaged one with UNCORRECTABLE, and flushes at COPY_COMMIT, then switches; the
register takes the version. A rebuild is refused by role or takes a slot; with fewer than four members it ends, and
otherwise installs the image with NEXT_STEP at CSTEP. A regroup that R154 permits changes the group where no step names
the request and waits otherwise. Reads of an image give its units, uncoded where the wire or the read is, never coded
for an increment; a damaged block of a shard is reported absent. A verification is accepted where the RID's blocks are
coded here; each damaged unit counts the check it failed, while no step of the holding pallet runs. Where a unit is
stored, and a coded block, are the model's (log entries 123, 125 and 126). -/
def Obligations.CopiesRebuildsAndImages : Prop :=
  ∀ (s : State) (via v : Via) (i : PortNo) (p : Pkt) (x : RxFlow) (h : HoHdr) (q : Request) (f : Refresh) (sh : CopyShard)
    (reg : HomeReg) (m : MoveIn) (mo : MoveOut) (mi : IncOut) (img : Image) (wire : WireRead) (s1 : State) (members : List Nat)
    (damaged : List (Nat × CheckFail)) (fl : FlushRec) (b : Stored) (c : CheckFail) (ack : Option (Nat × Pkt)) (pal : PalletNo)
    (shard : Fin 6) (unit : List Byte) (ask : Bool)
    (slot k id rid reader first count version stripe cstep stripes homeSeq copyVer good t : Nat),
    let s' := s.at t
    let l := s'.reqLocal slot
    let here := Arrives s' i 0x18 p x ∧ hoKnown h = true ∧ staleHo s' h = false
    let hdr : ImageHdr :=
      { geom := img.geom, pfmt := img.pfmt, resPages := img.resPages, resSpill := img.resSpill, blocks := img.blocks }
    (s'.request? slot = some q →
      (l.refreshDue = true → l.refresh = none → q.life ≠ .movingIn → l.parked = false → Runs (.copyRefresh slot t) s (fun u =>
        (∃ g, (u.reqLocal slot).refresh = some g ∧ g.version = q.copyVer + 1 ∧ g.cstep = q.nextStep
          ∧ g.units = imageUnits s' slot ∧ g.stripes = stripeCount (imageUnits s' slot))
        ∧ (u.reqLocal slot).refreshDue = false ∧ u.request? slot = some q
        ∧ ((copyMembers s' slot q).length < 6 → Counted Obj.RQS_COPY_DEGRADED 0 s' u)))
      ∧ (l.refreshDue = true → l.refresh = none → q.life ≠ .movingIn → l.parked = true → parkDamaged s' q = true →
        Runs (.copyRefresh slot t) s (fun u => Raised 0x10 s' u ∧ (u.reqLocal slot).uncorr = true ∧ (u.reqLocal slot).refresh = none))
      ∧ (l.refreshDue = false → Runs (.copyRefresh slot t) s (fun u => u = s'))
      ∧ (l.refresh = some f →
        let live := copyMembers s' slot q
        ((∃ y ∈ f.unacked, y.1 ∈ live) → Runs (.copyCommitSend slot t) s (fun u => u = s'))
        ∧ ((∀ y ∈ f.unacked, y.1 ∉ live) → Runs (.copyCommitSend slot t) s (fun u =>
          u.request? slot = some { q with copyVer := f.version, cstep := f.cstep }
          ∧ u.reqLocal slot = { l with refresh := none, committed := f.units, kept := [] }))))
    ∧ (here →
      Runs (.copyWrite i p h version stripe shard unit true t) s (fun u => AckedN (packetsOf (copyWriteLen p)) s' u i p x
        ∧ ∃ y, u.shard? h.rid = some y ∧ y.nextShard = shard.val ∧ y.nextVersion = version
          ∧ y.units = ((s'.shard? h.rid).map (·.units)).getD []
          ∧ ∃ e, NMap.get? y.nextUnits stripe = some e ∧ (((s'.shard? h.rid).bind (·.tables)) = none → e.block = rawBlock unit))
      ∧ Runs (.copyWrite i p h version stripe shard unit false t) s (fun u => Refused .uncorrectable u i ∧ u.req = s'.req)
      ∧ Runs (.copyCommit i p h version cstep stripes t) s (fun u => u.req = s'.req
        ∧ NMap.get? u.mem.flushes s'.ids = some
          { what := .commit (some (i.val, p)) h version cstep stripes, pallet := ((s'.shard? h.rid).map (·.pallet)).getD 0, va := 0,
            len := 0 }))
    ∧ (NMap.get? s'.mem.flushes id = some fl → flushReady s' fl = true → fl.what = .commit ack h version cstep stripes →
      s'.shard? h.rid = some sh →
      (sh.nextVersion = version → sh.version ≠ 0 → sh.follows version sh.nextShard = true → Runs (.flushComplete id t) s (fun u =>
        u.shard? h.rid = some { sh with
          shard := sh.nextShard, version := version, cstep := cstep, stripes := stripes, nextUnits := [],
          units := placeZeros ((sh.nextUnits.foldl (fun c y => NMap.ins c y.1 y.2) sh.units).filter (fun y => y.1 < stripes)) }))
      ∧ (committedHome s' h version cstep = some reg → reg.alone s' = true → Runs (.flushComplete id t) s (fun u =>
        u.home? h.rid = some reg))
      ∧ (committedHome s' h version cstep = some reg → reg.alone s' = false → Runs (.flushComplete id t) s (fun u =>
        u.home? h.rid = some { reg with waiting := reg.waiting ++ ack.toList }))
      ∧ (sh.nextVersion ≠ version → Runs (.flushComplete id t) s (fun u => u.req = s'.req)))
    ∧ (Served s via →
      (s'.takesMoves = true → s'.byRid rid = none → s'.req.into.any (fun y => y.rid == rid) = false → pickSlot s' = some k →
        Runs (.rqsRebuild via rid members pal t) s (fun u => Replied via .ok u ∧ ∃ y, u.req.into = s'.req.into ++ [y]
          ∧ y.kind = .rebuild ∧ y.rid = rid ∧ y.slot = k ∧ y.handle = (issueSlot s' k).1 ∧ y.pallet = pal.val
          ∧ y.copyGroup = members ∧ y.state = .pulling))
      ∧ (s'.takesMoves = false → Runs (.rqsRebuild via rid members pal t) s (fun u => Replied via .admitDenied u ∧ u.req = s'.req))
      ∧ (s.byRid rid = some (slot, q) → s.request? slot = some q →
        (groupChangeOk q.copyGroup members = true →
          (s.inStep q.pallet slot = false → Runs (.rqsRegroup via rid members) s (fun u => Replied via .ok u
            ∧ u.request? slot = some { q with copyGroup := members }))
          ∧ (s.inStep q.pallet slot = true → Runs (.rqsRegroup via rid members) s (fun u => Replied via .ok u
            ∧ u.request? slot = some q
            ∧ (u.reqLocal slot).regroup = some (members, .object via Obj.RQS_REGROUP 0))))
        ∧ (groupChangeOk q.copyGroup members = false → Runs (.rqsRegroup via rid members) s (fun u =>
          Replied via .accessDenied u ∧ u.req = s.req)))
      ∧ (codedHere s rid = true → Runs (.cmpVerify via rid) s (fun u => Replied via .ok u
        ∧ u.req = { s.req with verify := s.req.verify ++ [(rid, via)] }))
      ∧ (codedHere s rid = false → Runs (.cmpVerify via rid) s (fun u => Replied via .accessDenied u ∧ u.req = s.req)))
    ∧ (s'.req.into.find? (fun y => y.rid == rid && y.kind == .rebuild && y.state == .pulling) = some m →
      let read := if wire.damaged.isEmpty && wire.stream.isEmpty then s' else codecWork (countWire s' wire) m.pallet
      (good < 4 → Runs (.rebuildReadDone rid homeSeq copyVer good ⟨none, wire⟩ t) s (fun u => m ∉ u.req.into))
      ∧ (4 ≤ good → arrivalRefusal read m.pallet img.keyslot img.ctxlen (imageSpill img) hdr true = none →
        installImage (reserveArrival read m.slot m.handle rid img.keyslot m.pallet homeSeq (imageSpill img) hdr) m.slot
          { img with copyVer := copyVer, copyGroup := m.copyGroup } none = some s1 → s1.request? m.slot = some q →
        Runs (.rebuildReadDone rid homeSeq copyVer good ⟨some img, wire⟩ t) s (fun u =>
          u.request? m.slot = some { q with cstep := q.nextStep }
          ∧ ({ m with homeSeq := homeSeq, flush := s'.ids, state := .flushing } : MoveIn) ∈ u.req.into)))
    ∧ (serving s rid = none → Runs (.imageTableRead rid reader) s (fun u => u = s)
        ∧ Runs (.imageUnitRead rid reader ⟨first, count⟩ ask) s (fun u => u = s))
    ∧ (serving s rid = some (.increment mi) →
        Runs (.imageTableRead rid reader) s (fun u => u = s.emit (.image reader false []))
        ∧ Runs (.imageUnitRead rid reader ⟨first, count⟩ ask) s (fun u =>
          u = s.emit (.image reader false ((mi.units.drop first).take count).flatten)))
    ∧ (serving s rid = some (.whole slot q mo) → (s.reqLocal slot).parked = false →
      (s.wireCodes = false → Runs (.imageTableRead rid reader) s (fun u => u = s.emit (.image reader false [])))
      ∧ (ask && s.wireCodes = false → Runs (.imageUnitRead rid reader ⟨first, count⟩ ask) s (fun u =>
          u = s.emit (.image reader false (((imageUnits s slot).drop first).take count).flatten)))
      ∧ (s.wireCodes = true → Runs (.imageTableRead rid reader) s (fun u => ∃ bs, u = s.emit (.image reader true bs))
        ∧ Runs (.imageUnitRead rid reader ⟨first, count⟩ true) s (fun u => (∃ bs, u.out.head? = some (.image reader true bs))
          ∧ OnlyParts [.out, .dict] s u)))
    ∧ (serving s rid = some (.shard sh) →
      (s.wireCodes = false → Runs (.imageTableRead rid reader) s (fun u => u = s.emit (.image reader false [])))
      ∧ (NMap.get? sh.units first = some b → checkedUnit true sh.codes b.block = .ok unit → ask && s.wireCodes = false →
        Runs (.imageUnitRead rid reader ⟨first, 1⟩ ask) s (fun u => u.out.head? = some (.image reader false unit)))
      ∧ (NMap.get? sh.units first = some b → checkedUnit true sh.codes b.block = .damaged c →
        Runs (.imageUnitRead rid reader ⟨first, 1⟩ ask) s (fun u => u.out.head? = some (.absent reader first)
          ∧ OnlyParts [.out, .dict] s u)))
    ∧ (s.req.verify.find? (fun y => y.1 == rid) = some (rid, v) →
      ((∀ n ∈ verifyPallets s rid, (s.pallet n).run = none) → Runs (.cmpVerifyDone rid damaged) s (fun u =>
        u.req = { s.req with verify := s.req.verify.erase (rid, v) }
        ∧ u.obj Obj.CMP_CRC_ERR 0 = s.obj Obj.CMP_CRC_ERR 0 + ((verifyFound s rid damaged).filter (fun y => y.2 = .crc)).length
        ∧ (verifyFound s rid damaged = [] ∨ Out.damaged rid ((verifyFound s rid damaged).map (·.1)) ∈ u.out)))
      ∧ ((∃ n ∈ verifyPallets s rid, (s.pallet n).run ≠ none) → Runs (.cmpVerifyDone rid damaged) s (fun u => u = s)))

/-- The state after reset meets the invariant of every step. After reset no memory lists a byte and the log holds no
event, so that the memories have their canonical form and the log its bound of 128 events. -/
def Obligations.ResetKeepsForm : Prop := State.reset.Inv

/-- Every step keeps the memories' canonical form and the bound of the event log. From every state in which HBM, the HDM
windows and the host memory written by the device list strictly rising addresses and no byte that an unlisted address
reads as, and in which the log holds at most 128 events, whatever command is taken: the next state is such a state too.
Equal memories are therefore equal data after every command, and no command lets the log outgrow R412. -/
def Obligations.StepKeepsInvariant : Prop :=
  ∀ s s' : State, s.Inv → step s = .next s' → s'.Inv
end

