-- ==== Sys2Proof/Laws/NMap.lean ====
section
/-! SUPPORT. The laws of the one sparse table: reading after writing, leaving every other key alone, and the canonical form,
which every operation keeps. -/

namespace Sys2Proof.NMap

variable {β : Type}

/-! ## Reading after writing -/

theorem get_del (d : β) (m : NMap β) (k k' : Nat) : get d (del m k) k' = if k' = k then d else get d m k' := by
  induction m with
  | nil => simp [del, get]
  | cons e m ih =>
    obtain ⟨a, v⟩ := e
    by_cases h : a = k
    · subst h
      simp only [del, if_true, ih, get]
      by_cases h' : k' = a
      · simp [h']
      · simp [h', Ne.symm h']
    · simp only [del, h, if_false, get, ih]
      by_cases h' : a = k'
      · subst h'; simp [h]
      · simp [h']

theorem get_ins (d : β) (m : NMap β) (k k' : Nat) (w : β) : get d (ins m k w) k' = if k' = k then w else get d m k' := by
  induction m with
  | nil =>
    by_cases h : k' = k
    · simp [ins, get, h]
    · simp [ins, get, h, Ne.symm h]
  | cons e m ih =>
    obtain ⟨a, v⟩ := e
    by_cases h : a = k
    · subst h
      by_cases h' : k' = a
      · simp [ins, get, h']
      · simp [ins, get, h', Ne.symm h']
    · by_cases hl : k < a
      · by_cases h' : k' = k
        · simp [ins, get, h, hl, h']
        · simp [ins, get, h, hl, h', Ne.symm h']
      · simp only [ins, h, hl, if_false, get, ih]
        by_cases h' : a = k'
        · simp [← h', h]
        · simp [h']

/-- A read after a write gives the value written, and every other key reads as before. -/
theorem get_put [DecidableEq β] (d : β) (m : NMap β) (k k' : Nat) (w : β) :
    get d (put d m k w) k' = if k' = k then w else get d m k' := by
  unfold put
  split
  · next h => rw [get_del, h]
  · exact get_ins d m k k' w

@[simp] theorem get_put_self [DecidableEq β] (d : β) (m : NMap β) (k : Nat) (w : β) : get d (put d m k w) k = w := by
  simp [get_put]

/-- Whatever an unlisted key reads as, a key that is not written reads as before. -/
theorem get_put_other [DecidableEq β] (d e : β) (m : NMap β) {k k' : Nat} (w : β) (h : k' ≠ k) :
    get e (put d m k w) k' = get e m k' := by
  unfold put
  split
  · simp [get_del, h]
  · simp [get_ins, h]

theorem get_put_ne [DecidableEq β] (d : β) (m : NMap β) {k k' : Nat} (w : β) (h : k' ≠ k) :
    get d (put d m k w) k' = get d m k' := by
  simp [get_put, h]

theorem get?_del (m : NMap β) (k k' : Nat) : get? (del m k) k' = if k' = k then none else get? m k' := by
  induction m with
  | nil => simp [del, get?]
  | cons e m ih =>
    obtain ⟨a, v⟩ := e
    by_cases h : a = k
    · subst h
      simp only [del, if_true, ih, get?]
      by_cases h' : k' = a
      · simp [h']
      · simp [h', Ne.symm h']
    · simp only [del, h, if_false, get?, ih]
      by_cases h' : a = k'
      · subst h'; simp [h]
      · simp [h']

theorem get?_ins (m : NMap β) (k k' : Nat) (w : β) : get? (ins m k w) k' = if k' = k then some w else get? m k' := by
  induction m with
  | nil =>
    by_cases h : k' = k
    · simp [ins, get?, h]
    · simp [ins, get?, h, Ne.symm h]
  | cons e m ih =>
    obtain ⟨a, v⟩ := e
    by_cases h : a = k
    · subst h
      by_cases h' : k' = a
      · simp [ins, get?, h']
      · simp [ins, get?, h', Ne.symm h']
    · by_cases hl : k < a
      · by_cases h' : k' = k
        · simp [ins, get?, h, hl, h']
        · simp [ins, get?, h, hl, h', Ne.symm h']
      · simp only [ins, h, hl, if_false, get?, ih]
        by_cases h' : a = k'
        · simp [← h', h]
        · simp [h']

@[simp] theorem get?_ins_self (m : NMap β) (k : Nat) (w : β) : get? (ins m k w) k = some w := by simp [get?_ins]

/-! ## The canonical form -/

/-- The canonical form, as a proposition over the first entry and the rest. -/
theorem wf_cons [DecidableEq β] (d : β) (k : Nat) (v : β) (m : NMap β) :
    wf d ((k, v) :: m) = true ↔ v ≠ d ∧ above k m ∧ wf d m = true := by
  simp [wf, above, and_assoc]

theorem wf_nil [DecidableEq β] (d : β) : wf d ([] : NMap β) = true := rfl

theorem above_mono {k k' : Nat} {m : NMap β} (h : k' ≤ k) (hm : above k m) : above k' m :=
  fun e he => Nat.lt_of_le_of_lt h (hm e he)

theorem above_ins {k n : Nat} {m : NMap β} {w : β} (hm : above k m) (hn : k < n) : above k (ins m n w) := by
  induction m with
  | nil => intro e he; simp [ins] at he; simp [he, hn]
  | cons x m ih =>
    obtain ⟨a, v⟩ := x
    have ha : k < a := hm (a, v) (by simp)
    have hm' : above k m := fun e he => hm e (by simp [he])
    intro e he
    simp only [ins] at he
    split at he
    · rcases List.mem_cons.1 he with rfl | h
      · exact hn
      · exact hm' e h
    · split at he
      · rcases List.mem_cons.1 he with rfl | h
        · exact hn
        · exact hm e h
      · rcases List.mem_cons.1 he with rfl | h
        · exact ha
        · exact ih hm' e h

theorem del_sub {k : Nat} {m : NMap β} {e : Nat × β} (h : e ∈ del m k) : e ∈ m := by
  induction m with
  | nil => simp [del] at h
  | cons x m ih =>
    obtain ⟨a, v⟩ := x
    simp only [del] at h
    split at h
    · exact List.mem_cons_of_mem _ (ih h)
    · rcases List.mem_cons.1 h with rfl | h
      · simp
      · exact List.mem_cons_of_mem _ (ih h)

theorem wf_del [DecidableEq β] {d : β} {m : NMap β} (k : Nat) (h : wf d m = true) : wf d (del m k) = true := by
  induction m with
  | nil => exact h
  | cons x m ih =>
    obtain ⟨a, v⟩ := x
    obtain ⟨hv, ha, hm⟩ := (wf_cons d a v m).1 h
    simp only [del]
    split
    · exact ih hm
    · exact (wf_cons d a v _).2 ⟨hv, fun e he => ha e (del_sub he), ih hm⟩

theorem wf_ins [DecidableEq β] {d : β} {m : NMap β} (k : Nat) {w : β} (hw : w ≠ d) (h : wf d m = true) :
    wf d (ins m k w) = true := by
  induction m with
  | nil => simp [ins, wf, hw]
  | cons x m ih =>
    obtain ⟨a, v⟩ := x
    obtain ⟨hv, ha, hm⟩ := (wf_cons d a v m).1 h
    simp only [ins]
    split
    · next hk => subst hk; exact (wf_cons d a w m).2 ⟨hw, ha, hm⟩
    · next hk =>
      split
      · next hl =>
        refine (wf_cons d k w _).2 ⟨hw, ?_, h⟩
        intro e he
        rcases List.mem_cons.1 he with rfl | he
        · exact hl
        · exact Nat.lt_trans hl (ha e he)
      · next hl => exact (wf_cons d a v _).2 ⟨hv, above_ins ha (by omega), ih hm⟩

/-- Writing a key keeps the canonical form. -/
theorem wf_put [DecidableEq β] {d : β} {m : NMap β} (k : Nat) (w : β) (h : wf d m = true) : wf d (put d m k w) = true := by
  unfold put
  split
  · exact wf_del k h
  · next hw => exact wf_ins k hw h

theorem wf_filter [DecidableEq β] {d : β} {m : NMap β} (f : Nat × β → Bool) (h : wf d m = true) :
    wf d (m.filter f) = true := by
  induction m with
  | nil => exact h
  | cons x m ih =>
    obtain ⟨a, v⟩ := x
    obtain ⟨hv, ha, hm⟩ := (wf_cons d a v m).1 h
    simp only [List.filter_cons]
    split
    · exact (wf_cons d a v _).2 ⟨hv, fun e he => ha e (List.mem_of_mem_filter he), ih hm⟩
    · exact ih hm

theorem wf_append [DecidableEq β] {d : β} {m n : NMap β} (hm : wf d m = true) (hn : wf d n = true)
    (h : ∀ e ∈ m, above e.1 n) : wf d (m ++ n) = true := by
  induction m with
  | nil => exact hn
  | cons x m ih =>
    obtain ⟨a, v⟩ := x
    obtain ⟨hv, ha, hm'⟩ := (wf_cons d a v m).1 hm
    refine (wf_cons d a v (m ++ n)).2 ⟨hv, ?_, ih hm' (fun e he => h e (by simp [he]))⟩
    intro e he
    rcases List.mem_append.1 he with he | he
    · exact ha e he
    · exact h (a, v) (by simp) e he

end Sys2Proof.NMap

namespace Sys2Proof.Machine

/-- Storing bytes keeps the canonical form of a memory. -/
theorem memWrite_wf {m : Mem} (a : Nat) (bs : List Byte) (h : NMap.wf 0 m = true) : NMap.wf 0 (memWrite m a bs) = true := by
  induction bs generalizing m a with
  | nil => exact h
  | cons b bs ih => exact ih (a + 1) (NMap.wf_put a b h)

/-- Clearing a range keeps the canonical form of a memory. -/
theorem memClear_wf {m : Mem} (lo hi : Nat) (h : NMap.wf 0 m = true) : NMap.wf 0 (memClear m lo hi) = true :=
  NMap.wf_filter _ h

/-- A byte after storing bytes: the byte stored there, or the one before. -/
theorem memWrite_get (m : Mem) (a : Nat) (bs : List Byte) (x : Nat) :
    NMap.get 0 (memWrite m a bs) x = if a ≤ x ∧ x < a + bs.length then bs.getD (x - a) 0 else NMap.get 0 m x := by
  induction bs generalizing m a with
  | nil => simp [memWrite]
  | cons b bs ih =>
    simp only [memWrite, ih, NMap.get_put, List.length_cons]
    by_cases h : x = a
    · subst h; simp
    · by_cases h1 : a + 1 ≤ x ∧ x < a + 1 + bs.length
      · have h2 : a ≤ x ∧ x < a + (bs.length + 1) := by omega
        obtain ⟨n, rfl⟩ : ∃ n, x = a + 1 + n := ⟨x - (a + 1), by omega⟩
        have e1 : a + 1 + n - (a + 1) = n := by omega
        have e2 : a + 1 + n - a = n + 1 := by omega
        simp [h1, h2, e1, e2]
      · have h2 : ¬ (a ≤ x ∧ x < a + (bs.length + 1)) := by omega
        rw [if_neg h1, if_neg h2, if_neg h]

/-- Reading back the bytes stored. -/
theorem memRead_memWrite (m : Mem) (a : Nat) (bs : List Byte) : memRead (memWrite m a bs) a bs.length = bs := by
  have key : ∀ (l : List Byte) (m : Mem) (a' : Nat) (n : Nat),
      (∀ i, i < n → NMap.get 0 m (a' + i) = l.getD i 0) → l.length = n → memRead m a' n = l := by
    intro l m a' n h hl
    induction n generalizing l a' with
    | zero => cases l with
      | nil => rfl
      | cons => simp at hl
    | succ n ih => cases l with
      | nil => simp at hl
      | cons b l =>
        have h0 : NMap.get 0 m a' = b := by simpa using h 0 (by omega)
        simp only [memRead]
        rw [h0]
        congr 1
        refine ih l (a' + 1) ?_ (by simpa using hl)
        intro i hi
        have := h (i + 1) (by omega)
        simpa [Nat.add_assoc, Nat.add_comm 1 i] using this
  refine key bs _ a _ ?_ rfl
  intro i hi
  rw [memWrite_get]
  simp [hi]

end Sys2Proof.Machine
end

