-- ==== Sys2Proof/Laws/State.lean ====
section
/-! SUPPORT. What each update of the state does to each of its parts, and to what each accessor reads: one lemma each, true by
unfolding, so that no later proof unfolds a record update. -/

namespace Sys2Proof.Machine

/-- The tables once the entries that lead to a page are valid. -/
abbrev linked (p va : Nat) (tables : NMap Nat) : NMap Nat :=
  [3, 2, 1].foldl (fun m level =>
    if (NMap.get? m (tableKey p level va)).isSome then m
    else NMap.ins m (tableKey p level va) (Config.tableFrame (tableKey p level va))) tables

/-! ### at -/

@[simp] theorem State.at_pending (s : State) (t : Nat) : (s.at t).pending = s.pending := rfl
@[simp] theorem State.at_now (s : State) (t : Nat) : (s.at t).now = max s.now t := rfl
@[simp] theorem State.at_free (s : State) (t : Nat) : (s.at t).free = s.free := rfl
@[simp] theorem State.at_ids (s : State) (t : Nat) : (s.at t).ids = s.ids := rfl
@[simp] theorem State.at_out (s : State) (t : Nat) : (s.at t).out = s.out := rfl
@[simp] theorem State.at_dict (s : State) (t : Nat) : (s.at t).dict = s.dict := rfl
@[simp] theorem State.at_events (s : State) (t : Nat) : (s.at t).events = s.events := rfl
@[simp] theorem State.at_boot (s : State) (t : Nat) : (s.at t).boot = s.boot := rfl
@[simp] theorem State.at_kiln (s : State) (t : Nat) : (s.at t).kiln = s.kiln := rfl
@[simp] theorem State.at_keys (s : State) (t : Nat) : (s.at t).keys = s.keys := rfl
@[simp] theorem State.at_vdp (s : State) (t : Nat) : (s.at t).vdp = s.vdp := rfl
@[simp] theorem State.at_host (s : State) (t : Nat) : (s.at t).host = s.host := rfl
@[simp] theorem State.at_array (s : State) (t : Nat) : (s.at t).array = s.array := rfl
@[simp] theorem State.at_pallets (s : State) (t : Nat) : (s.at t).pallets = s.pallets := rfl
@[simp] theorem State.at_req (s : State) (t : Nat) : (s.at t).req = s.req := rfl
@[simp] theorem State.at_mem (s : State) (t : Nat) : (s.at t).mem = s.mem := rfl
@[simp] theorem State.at_ports (s : State) (t : Nat) : (s.at t).ports = s.ports := rfl
@[simp] theorem State.at_tb (s : State) (t : Nat) : (s.at t).tb = s.tb := rfl
@[simp] theorem State.at_trn (s : State) (t : Nat) : (s.at t).trn = s.trn := rfl
@[simp] theorem State.at_rmf (s : State) (t : Nat) : (s.at t).rmf = s.rmf := rfl
@[simp] theorem State.at_asc (s : State) (t : Nat) : (s.at t).asc = s.asc := rfl
@[simp] theorem State.at_obs (s : State) (t : Nat) : (s.at t).obs = s.obs := rfl

/-! ### emit -/

@[simp] theorem State.emit_pending (s : State) (o : Out) : (s.emit o).pending = s.pending := rfl
@[simp] theorem State.emit_now (s : State) (o : Out) : (s.emit o).now = s.now := rfl
@[simp] theorem State.emit_free (s : State) (o : Out) : (s.emit o).free = s.free := rfl
@[simp] theorem State.emit_ids (s : State) (o : Out) : (s.emit o).ids = s.ids := rfl
@[simp] theorem State.emit_out (s : State) (o : Out) : (s.emit o).out = o :: s.out := rfl
@[simp] theorem State.emit_dict (s : State) (o : Out) : (s.emit o).dict = s.dict := rfl
@[simp] theorem State.emit_events (s : State) (o : Out) : (s.emit o).events = s.events := rfl
@[simp] theorem State.emit_boot (s : State) (o : Out) : (s.emit o).boot = s.boot := rfl
@[simp] theorem State.emit_kiln (s : State) (o : Out) : (s.emit o).kiln = s.kiln := rfl
@[simp] theorem State.emit_keys (s : State) (o : Out) : (s.emit o).keys = s.keys := rfl
@[simp] theorem State.emit_vdp (s : State) (o : Out) : (s.emit o).vdp = s.vdp := rfl
@[simp] theorem State.emit_host (s : State) (o : Out) : (s.emit o).host = s.host := rfl
@[simp] theorem State.emit_array (s : State) (o : Out) : (s.emit o).array = s.array := rfl
@[simp] theorem State.emit_pallets (s : State) (o : Out) : (s.emit o).pallets = s.pallets := rfl
@[simp] theorem State.emit_req (s : State) (o : Out) : (s.emit o).req = s.req := rfl
@[simp] theorem State.emit_mem (s : State) (o : Out) : (s.emit o).mem = s.mem := rfl
@[simp] theorem State.emit_ports (s : State) (o : Out) : (s.emit o).ports = s.ports := rfl
@[simp] theorem State.emit_tb (s : State) (o : Out) : (s.emit o).tb = s.tb := rfl
@[simp] theorem State.emit_trn (s : State) (o : Out) : (s.emit o).trn = s.trn := rfl
@[simp] theorem State.emit_rmf (s : State) (o : Out) : (s.emit o).rmf = s.rmf := rfl
@[simp] theorem State.emit_asc (s : State) (o : Out) : (s.emit o).asc = s.asc := rfl
@[simp] theorem State.emit_obs (s : State) (o : Out) : (s.emit o).obs = s.obs := rfl

/-! ### setObj -/

@[simp] theorem State.setObj_pending (s : State) (oid inst v : Nat) : (s.setObj oid inst v).pending = s.pending := rfl
@[simp] theorem State.setObj_now (s : State) (oid inst v : Nat) : (s.setObj oid inst v).now = s.now := rfl
@[simp] theorem State.setObj_free (s : State) (oid inst v : Nat) : (s.setObj oid inst v).free = s.free := rfl
@[simp] theorem State.setObj_ids (s : State) (oid inst v : Nat) : (s.setObj oid inst v).ids = s.ids := rfl
@[simp] theorem State.setObj_out (s : State) (oid inst v : Nat) : (s.setObj oid inst v).out = s.out := rfl
@[simp] theorem State.setObj_dict (s : State) (oid inst v : Nat) : (s.setObj oid inst v).dict = { s.dict with vals := NMap.put (objDefault oid) s.dict.vals (objKey oid inst) v } := rfl
@[simp] theorem State.setObj_events (s : State) (oid inst v : Nat) : (s.setObj oid inst v).events = s.events := rfl
@[simp] theorem State.setObj_boot (s : State) (oid inst v : Nat) : (s.setObj oid inst v).boot = s.boot := rfl
@[simp] theorem State.setObj_kiln (s : State) (oid inst v : Nat) : (s.setObj oid inst v).kiln = s.kiln := rfl
@[simp] theorem State.setObj_keys (s : State) (oid inst v : Nat) : (s.setObj oid inst v).keys = s.keys := rfl
@[simp] theorem State.setObj_vdp (s : State) (oid inst v : Nat) : (s.setObj oid inst v).vdp = s.vdp := rfl
@[simp] theorem State.setObj_host (s : State) (oid inst v : Nat) : (s.setObj oid inst v).host = s.host := rfl
@[simp] theorem State.setObj_array (s : State) (oid inst v : Nat) : (s.setObj oid inst v).array = s.array := rfl
@[simp] theorem State.setObj_pallets (s : State) (oid inst v : Nat) : (s.setObj oid inst v).pallets = s.pallets := rfl
@[simp] theorem State.setObj_req (s : State) (oid inst v : Nat) : (s.setObj oid inst v).req = s.req := rfl
@[simp] theorem State.setObj_mem (s : State) (oid inst v : Nat) : (s.setObj oid inst v).mem = s.mem := rfl
@[simp] theorem State.setObj_ports (s : State) (oid inst v : Nat) : (s.setObj oid inst v).ports = s.ports := rfl
@[simp] theorem State.setObj_tb (s : State) (oid inst v : Nat) : (s.setObj oid inst v).tb = s.tb := rfl
@[simp] theorem State.setObj_trn (s : State) (oid inst v : Nat) : (s.setObj oid inst v).trn = s.trn := rfl
@[simp] theorem State.setObj_rmf (s : State) (oid inst v : Nat) : (s.setObj oid inst v).rmf = s.rmf := rfl
@[simp] theorem State.setObj_asc (s : State) (oid inst v : Nat) : (s.setObj oid inst v).asc = s.asc := rfl
@[simp] theorem State.setObj_obs (s : State) (oid inst v : Nat) : (s.setObj oid inst v).obs = s.obs := rfl

/-! ### setBrick -/

@[simp] theorem State.setBrick_pending (s : State) (b : Nat) (v : Brick) : (s.setBrick b v).pending = s.pending := rfl
@[simp] theorem State.setBrick_now (s : State) (b : Nat) (v : Brick) : (s.setBrick b v).now = s.now := rfl
@[simp] theorem State.setBrick_free (s : State) (b : Nat) (v : Brick) : (s.setBrick b v).free = s.free := rfl
@[simp] theorem State.setBrick_ids (s : State) (b : Nat) (v : Brick) : (s.setBrick b v).ids = s.ids := rfl
@[simp] theorem State.setBrick_out (s : State) (b : Nat) (v : Brick) : (s.setBrick b v).out = s.out := rfl
@[simp] theorem State.setBrick_dict (s : State) (b : Nat) (v : Brick) : (s.setBrick b v).dict = s.dict := rfl
@[simp] theorem State.setBrick_events (s : State) (b : Nat) (v : Brick) : (s.setBrick b v).events = s.events := rfl
@[simp] theorem State.setBrick_boot (s : State) (b : Nat) (v : Brick) : (s.setBrick b v).boot = s.boot := rfl
@[simp] theorem State.setBrick_kiln (s : State) (b : Nat) (v : Brick) : (s.setBrick b v).kiln = s.kiln := rfl
@[simp] theorem State.setBrick_keys (s : State) (b : Nat) (v : Brick) : (s.setBrick b v).keys = s.keys := rfl
@[simp] theorem State.setBrick_vdp (s : State) (b : Nat) (v : Brick) : (s.setBrick b v).vdp = s.vdp := rfl
@[simp] theorem State.setBrick_host (s : State) (b : Nat) (v : Brick) : (s.setBrick b v).host = s.host := rfl
@[simp] theorem State.setBrick_array (s : State) (b : Nat) (v : Brick) : (s.setBrick b v).array = { s.array with bricks := NMap.put Brick.reset s.array.bricks b v } := rfl
@[simp] theorem State.setBrick_pallets (s : State) (b : Nat) (v : Brick) : (s.setBrick b v).pallets = s.pallets := rfl
@[simp] theorem State.setBrick_req (s : State) (b : Nat) (v : Brick) : (s.setBrick b v).req = s.req := rfl
@[simp] theorem State.setBrick_mem (s : State) (b : Nat) (v : Brick) : (s.setBrick b v).mem = s.mem := rfl
@[simp] theorem State.setBrick_ports (s : State) (b : Nat) (v : Brick) : (s.setBrick b v).ports = s.ports := rfl
@[simp] theorem State.setBrick_tb (s : State) (b : Nat) (v : Brick) : (s.setBrick b v).tb = s.tb := rfl
@[simp] theorem State.setBrick_trn (s : State) (b : Nat) (v : Brick) : (s.setBrick b v).trn = s.trn := rfl
@[simp] theorem State.setBrick_rmf (s : State) (b : Nat) (v : Brick) : (s.setBrick b v).rmf = s.rmf := rfl
@[simp] theorem State.setBrick_asc (s : State) (b : Nat) (v : Brick) : (s.setBrick b v).asc = s.asc := rfl
@[simp] theorem State.setBrick_obs (s : State) (b : Nat) (v : Brick) : (s.setBrick b v).obs = s.obs := rfl

/-! ### setCounter -/

@[simp] theorem State.setCounter_pending (s : State) (k : Nat) (v : ArrCounter) : (s.setCounter k v).pending = s.pending := rfl
@[simp] theorem State.setCounter_now (s : State) (k : Nat) (v : ArrCounter) : (s.setCounter k v).now = s.now := rfl
@[simp] theorem State.setCounter_free (s : State) (k : Nat) (v : ArrCounter) : (s.setCounter k v).free = s.free := rfl
@[simp] theorem State.setCounter_ids (s : State) (k : Nat) (v : ArrCounter) : (s.setCounter k v).ids = s.ids := rfl
@[simp] theorem State.setCounter_out (s : State) (k : Nat) (v : ArrCounter) : (s.setCounter k v).out = s.out := rfl
@[simp] theorem State.setCounter_dict (s : State) (k : Nat) (v : ArrCounter) : (s.setCounter k v).dict = s.dict := rfl
@[simp] theorem State.setCounter_events (s : State) (k : Nat) (v : ArrCounter) : (s.setCounter k v).events = s.events := rfl
@[simp] theorem State.setCounter_boot (s : State) (k : Nat) (v : ArrCounter) : (s.setCounter k v).boot = s.boot := rfl
@[simp] theorem State.setCounter_kiln (s : State) (k : Nat) (v : ArrCounter) : (s.setCounter k v).kiln = s.kiln := rfl
@[simp] theorem State.setCounter_keys (s : State) (k : Nat) (v : ArrCounter) : (s.setCounter k v).keys = s.keys := rfl
@[simp] theorem State.setCounter_vdp (s : State) (k : Nat) (v : ArrCounter) : (s.setCounter k v).vdp = s.vdp := rfl
@[simp] theorem State.setCounter_host (s : State) (k : Nat) (v : ArrCounter) : (s.setCounter k v).host = s.host := rfl
@[simp] theorem State.setCounter_array (s : State) (k : Nat) (v : ArrCounter) : (s.setCounter k v).array = { s.array with counters := NMap.put ArrCounter.reset s.array.counters k v } := rfl
@[simp] theorem State.setCounter_pallets (s : State) (k : Nat) (v : ArrCounter) : (s.setCounter k v).pallets = s.pallets := rfl
@[simp] theorem State.setCounter_req (s : State) (k : Nat) (v : ArrCounter) : (s.setCounter k v).req = s.req := rfl
@[simp] theorem State.setCounter_mem (s : State) (k : Nat) (v : ArrCounter) : (s.setCounter k v).mem = s.mem := rfl
@[simp] theorem State.setCounter_ports (s : State) (k : Nat) (v : ArrCounter) : (s.setCounter k v).ports = s.ports := rfl
@[simp] theorem State.setCounter_tb (s : State) (k : Nat) (v : ArrCounter) : (s.setCounter k v).tb = s.tb := rfl
@[simp] theorem State.setCounter_trn (s : State) (k : Nat) (v : ArrCounter) : (s.setCounter k v).trn = s.trn := rfl
@[simp] theorem State.setCounter_rmf (s : State) (k : Nat) (v : ArrCounter) : (s.setCounter k v).rmf = s.rmf := rfl
@[simp] theorem State.setCounter_asc (s : State) (k : Nat) (v : ArrCounter) : (s.setCounter k v).asc = s.asc := rfl
@[simp] theorem State.setCounter_obs (s : State) (k : Nat) (v : ArrCounter) : (s.setCounter k v).obs = s.obs := rfl

/-! ### setPallet -/

@[simp] theorem State.setPallet_pending (s : State) (p : Nat) (v : Pallet) : (s.setPallet p v).pending = s.pending := rfl
@[simp] theorem State.setPallet_now (s : State) (p : Nat) (v : Pallet) : (s.setPallet p v).now = s.now := rfl
@[simp] theorem State.setPallet_free (s : State) (p : Nat) (v : Pallet) : (s.setPallet p v).free = s.free := rfl
@[simp] theorem State.setPallet_ids (s : State) (p : Nat) (v : Pallet) : (s.setPallet p v).ids = s.ids := rfl
@[simp] theorem State.setPallet_out (s : State) (p : Nat) (v : Pallet) : (s.setPallet p v).out = s.out := rfl
@[simp] theorem State.setPallet_dict (s : State) (p : Nat) (v : Pallet) : (s.setPallet p v).dict = s.dict := rfl
@[simp] theorem State.setPallet_events (s : State) (p : Nat) (v : Pallet) : (s.setPallet p v).events = s.events := rfl
@[simp] theorem State.setPallet_boot (s : State) (p : Nat) (v : Pallet) : (s.setPallet p v).boot = s.boot := rfl
@[simp] theorem State.setPallet_kiln (s : State) (p : Nat) (v : Pallet) : (s.setPallet p v).kiln = s.kiln := rfl
@[simp] theorem State.setPallet_keys (s : State) (p : Nat) (v : Pallet) : (s.setPallet p v).keys = s.keys := rfl
@[simp] theorem State.setPallet_vdp (s : State) (p : Nat) (v : Pallet) : (s.setPallet p v).vdp = s.vdp := rfl
@[simp] theorem State.setPallet_host (s : State) (p : Nat) (v : Pallet) : (s.setPallet p v).host = s.host := rfl
@[simp] theorem State.setPallet_array (s : State) (p : Nat) (v : Pallet) : (s.setPallet p v).array = s.array := rfl
@[simp] theorem State.setPallet_pallets (s : State) (p : Nat) (v : Pallet) : (s.setPallet p v).pallets = NMap.put Pallet.reset s.pallets p v := rfl
@[simp] theorem State.setPallet_req (s : State) (p : Nat) (v : Pallet) : (s.setPallet p v).req = s.req := rfl
@[simp] theorem State.setPallet_mem (s : State) (p : Nat) (v : Pallet) : (s.setPallet p v).mem = s.mem := rfl
@[simp] theorem State.setPallet_ports (s : State) (p : Nat) (v : Pallet) : (s.setPallet p v).ports = s.ports := rfl
@[simp] theorem State.setPallet_tb (s : State) (p : Nat) (v : Pallet) : (s.setPallet p v).tb = s.tb := rfl
@[simp] theorem State.setPallet_trn (s : State) (p : Nat) (v : Pallet) : (s.setPallet p v).trn = s.trn := rfl
@[simp] theorem State.setPallet_rmf (s : State) (p : Nat) (v : Pallet) : (s.setPallet p v).rmf = s.rmf := rfl
@[simp] theorem State.setPallet_asc (s : State) (p : Nat) (v : Pallet) : (s.setPallet p v).asc = s.asc := rfl
@[simp] theorem State.setPallet_obs (s : State) (p : Nat) (v : Pallet) : (s.setPallet p v).obs = s.obs := rfl

/-! ### setKslot -/

@[simp] theorem State.setKslot_pending (s : State) (k : Nat) (v : KeySlot) : (s.setKslot k v).pending = s.pending := rfl
@[simp] theorem State.setKslot_now (s : State) (k : Nat) (v : KeySlot) : (s.setKslot k v).now = s.now := rfl
@[simp] theorem State.setKslot_free (s : State) (k : Nat) (v : KeySlot) : (s.setKslot k v).free = s.free := rfl
@[simp] theorem State.setKslot_ids (s : State) (k : Nat) (v : KeySlot) : (s.setKslot k v).ids = s.ids := rfl
@[simp] theorem State.setKslot_out (s : State) (k : Nat) (v : KeySlot) : (s.setKslot k v).out = s.out := rfl
@[simp] theorem State.setKslot_dict (s : State) (k : Nat) (v : KeySlot) : (s.setKslot k v).dict = s.dict := rfl
@[simp] theorem State.setKslot_events (s : State) (k : Nat) (v : KeySlot) : (s.setKslot k v).events = s.events := rfl
@[simp] theorem State.setKslot_boot (s : State) (k : Nat) (v : KeySlot) : (s.setKslot k v).boot = s.boot := rfl
@[simp] theorem State.setKslot_kiln (s : State) (k : Nat) (v : KeySlot) : (s.setKslot k v).kiln = s.kiln := rfl
@[simp] theorem State.setKslot_keys (s : State) (k : Nat) (v : KeySlot) : (s.setKslot k v).keys = { s.keys with slots := NMap.put KeySlot.reset s.keys.slots k v } := rfl
@[simp] theorem State.setKslot_vdp (s : State) (k : Nat) (v : KeySlot) : (s.setKslot k v).vdp = s.vdp := rfl
@[simp] theorem State.setKslot_host (s : State) (k : Nat) (v : KeySlot) : (s.setKslot k v).host = s.host := rfl
@[simp] theorem State.setKslot_array (s : State) (k : Nat) (v : KeySlot) : (s.setKslot k v).array = s.array := rfl
@[simp] theorem State.setKslot_pallets (s : State) (k : Nat) (v : KeySlot) : (s.setKslot k v).pallets = s.pallets := rfl
@[simp] theorem State.setKslot_req (s : State) (k : Nat) (v : KeySlot) : (s.setKslot k v).req = s.req := rfl
@[simp] theorem State.setKslot_mem (s : State) (k : Nat) (v : KeySlot) : (s.setKslot k v).mem = s.mem := rfl
@[simp] theorem State.setKslot_ports (s : State) (k : Nat) (v : KeySlot) : (s.setKslot k v).ports = s.ports := rfl
@[simp] theorem State.setKslot_tb (s : State) (k : Nat) (v : KeySlot) : (s.setKslot k v).tb = s.tb := rfl
@[simp] theorem State.setKslot_trn (s : State) (k : Nat) (v : KeySlot) : (s.setKslot k v).trn = s.trn := rfl
@[simp] theorem State.setKslot_rmf (s : State) (k : Nat) (v : KeySlot) : (s.setKslot k v).rmf = s.rmf := rfl
@[simp] theorem State.setKslot_asc (s : State) (k : Nat) (v : KeySlot) : (s.setKslot k v).asc = s.asc := rfl
@[simp] theorem State.setKslot_obs (s : State) (k : Nat) (v : KeySlot) : (s.setKslot k v).obs = s.obs := rfl

/-! ### setRing -/

@[simp] theorem State.setRing_pending (s : State) (o r : Nat) (v : Ring) : (s.setRing o r v).pending = s.pending := rfl
@[simp] theorem State.setRing_now (s : State) (o r : Nat) (v : Ring) : (s.setRing o r v).now = s.now := rfl
@[simp] theorem State.setRing_free (s : State) (o r : Nat) (v : Ring) : (s.setRing o r v).free = s.free := rfl
@[simp] theorem State.setRing_ids (s : State) (o r : Nat) (v : Ring) : (s.setRing o r v).ids = s.ids := rfl
@[simp] theorem State.setRing_out (s : State) (o r : Nat) (v : Ring) : (s.setRing o r v).out = s.out := rfl
@[simp] theorem State.setRing_dict (s : State) (o r : Nat) (v : Ring) : (s.setRing o r v).dict = s.dict := rfl
@[simp] theorem State.setRing_events (s : State) (o r : Nat) (v : Ring) : (s.setRing o r v).events = s.events := rfl
@[simp] theorem State.setRing_boot (s : State) (o r : Nat) (v : Ring) : (s.setRing o r v).boot = s.boot := rfl
@[simp] theorem State.setRing_kiln (s : State) (o r : Nat) (v : Ring) : (s.setRing o r v).kiln = s.kiln := rfl
@[simp] theorem State.setRing_keys (s : State) (o r : Nat) (v : Ring) : (s.setRing o r v).keys = s.keys := rfl
@[simp] theorem State.setRing_vdp (s : State) (o r : Nat) (v : Ring) : (s.setRing o r v).vdp = s.vdp := rfl
@[simp] theorem State.setRing_host (s : State) (o r : Nat) (v : Ring) : (s.setRing o r v).host = { s.host with rings := NMap.put Ring.reset s.host.rings (ringKey o r) v } := rfl
@[simp] theorem State.setRing_array (s : State) (o r : Nat) (v : Ring) : (s.setRing o r v).array = s.array := rfl
@[simp] theorem State.setRing_pallets (s : State) (o r : Nat) (v : Ring) : (s.setRing o r v).pallets = s.pallets := rfl
@[simp] theorem State.setRing_req (s : State) (o r : Nat) (v : Ring) : (s.setRing o r v).req = s.req := rfl
@[simp] theorem State.setRing_mem (s : State) (o r : Nat) (v : Ring) : (s.setRing o r v).mem = s.mem := rfl
@[simp] theorem State.setRing_ports (s : State) (o r : Nat) (v : Ring) : (s.setRing o r v).ports = s.ports := rfl
@[simp] theorem State.setRing_tb (s : State) (o r : Nat) (v : Ring) : (s.setRing o r v).tb = s.tb := rfl
@[simp] theorem State.setRing_trn (s : State) (o r : Nat) (v : Ring) : (s.setRing o r v).trn = s.trn := rfl
@[simp] theorem State.setRing_rmf (s : State) (o r : Nat) (v : Ring) : (s.setRing o r v).rmf = s.rmf := rfl
@[simp] theorem State.setRing_asc (s : State) (o r : Nat) (v : Ring) : (s.setRing o r v).asc = s.asc := rfl
@[simp] theorem State.setRing_obs (s : State) (o r : Nat) (v : Ring) : (s.setRing o r v).obs = s.obs := rfl

/-! ### setLd -/

@[simp] theorem State.setLd_pending (s : State) (o : Nat) (v : Ld) : (s.setLd o v).pending = s.pending := rfl
@[simp] theorem State.setLd_now (s : State) (o : Nat) (v : Ld) : (s.setLd o v).now = s.now := rfl
@[simp] theorem State.setLd_free (s : State) (o : Nat) (v : Ld) : (s.setLd o v).free = s.free := rfl
@[simp] theorem State.setLd_ids (s : State) (o : Nat) (v : Ld) : (s.setLd o v).ids = s.ids := rfl
@[simp] theorem State.setLd_out (s : State) (o : Nat) (v : Ld) : (s.setLd o v).out = s.out := rfl
@[simp] theorem State.setLd_dict (s : State) (o : Nat) (v : Ld) : (s.setLd o v).dict = s.dict := rfl
@[simp] theorem State.setLd_events (s : State) (o : Nat) (v : Ld) : (s.setLd o v).events = s.events := rfl
@[simp] theorem State.setLd_boot (s : State) (o : Nat) (v : Ld) : (s.setLd o v).boot = s.boot := rfl
@[simp] theorem State.setLd_kiln (s : State) (o : Nat) (v : Ld) : (s.setLd o v).kiln = s.kiln := rfl
@[simp] theorem State.setLd_keys (s : State) (o : Nat) (v : Ld) : (s.setLd o v).keys = s.keys := rfl
@[simp] theorem State.setLd_vdp (s : State) (o : Nat) (v : Ld) : (s.setLd o v).vdp = s.vdp := rfl
@[simp] theorem State.setLd_host (s : State) (o : Nat) (v : Ld) : (s.setLd o v).host = { s.host with lds := NMap.put Ld.reset s.host.lds o v } := rfl
@[simp] theorem State.setLd_array (s : State) (o : Nat) (v : Ld) : (s.setLd o v).array = s.array := rfl
@[simp] theorem State.setLd_pallets (s : State) (o : Nat) (v : Ld) : (s.setLd o v).pallets = s.pallets := rfl
@[simp] theorem State.setLd_req (s : State) (o : Nat) (v : Ld) : (s.setLd o v).req = s.req := rfl
@[simp] theorem State.setLd_mem (s : State) (o : Nat) (v : Ld) : (s.setLd o v).mem = s.mem := rfl
@[simp] theorem State.setLd_ports (s : State) (o : Nat) (v : Ld) : (s.setLd o v).ports = s.ports := rfl
@[simp] theorem State.setLd_tb (s : State) (o : Nat) (v : Ld) : (s.setLd o v).tb = s.tb := rfl
@[simp] theorem State.setLd_trn (s : State) (o : Nat) (v : Ld) : (s.setLd o v).trn = s.trn := rfl
@[simp] theorem State.setLd_rmf (s : State) (o : Nat) (v : Ld) : (s.setLd o v).rmf = s.rmf := rfl
@[simp] theorem State.setLd_asc (s : State) (o : Nat) (v : Ld) : (s.setLd o v).asc = s.asc := rfl
@[simp] theorem State.setLd_obs (s : State) (o : Nat) (v : Ld) : (s.setLd o v).obs = s.obs := rfl

/-! ### winWrite -/

@[simp] theorem State.winWrite_pending (s : State) (o a : Nat) (bs : List Byte) : (s.winWrite o a bs).pending = s.pending := rfl
@[simp] theorem State.winWrite_now (s : State) (o a : Nat) (bs : List Byte) : (s.winWrite o a bs).now = s.now := rfl
@[simp] theorem State.winWrite_free (s : State) (o a : Nat) (bs : List Byte) : (s.winWrite o a bs).free = s.free := rfl
@[simp] theorem State.winWrite_ids (s : State) (o a : Nat) (bs : List Byte) : (s.winWrite o a bs).ids = s.ids := rfl
@[simp] theorem State.winWrite_out (s : State) (o a : Nat) (bs : List Byte) : (s.winWrite o a bs).out = s.out := rfl
@[simp] theorem State.winWrite_dict (s : State) (o a : Nat) (bs : List Byte) : (s.winWrite o a bs).dict = s.dict := rfl
@[simp] theorem State.winWrite_events (s : State) (o a : Nat) (bs : List Byte) : (s.winWrite o a bs).events = s.events := rfl
@[simp] theorem State.winWrite_boot (s : State) (o a : Nat) (bs : List Byte) : (s.winWrite o a bs).boot = s.boot := rfl
@[simp] theorem State.winWrite_kiln (s : State) (o a : Nat) (bs : List Byte) : (s.winWrite o a bs).kiln = s.kiln := rfl
@[simp] theorem State.winWrite_keys (s : State) (o a : Nat) (bs : List Byte) : (s.winWrite o a bs).keys = s.keys := rfl
@[simp] theorem State.winWrite_vdp (s : State) (o a : Nat) (bs : List Byte) : (s.winWrite o a bs).vdp = s.vdp := rfl
@[simp] theorem State.winWrite_host (s : State) (o a : Nat) (bs : List Byte) : (s.winWrite o a bs).host = { s.host with window := memWrite s.host.window (winAddr o a) bs } := rfl
@[simp] theorem State.winWrite_array (s : State) (o a : Nat) (bs : List Byte) : (s.winWrite o a bs).array = s.array := rfl
@[simp] theorem State.winWrite_pallets (s : State) (o a : Nat) (bs : List Byte) : (s.winWrite o a bs).pallets = s.pallets := rfl
@[simp] theorem State.winWrite_req (s : State) (o a : Nat) (bs : List Byte) : (s.winWrite o a bs).req = s.req := rfl
@[simp] theorem State.winWrite_mem (s : State) (o a : Nat) (bs : List Byte) : (s.winWrite o a bs).mem = s.mem := rfl
@[simp] theorem State.winWrite_ports (s : State) (o a : Nat) (bs : List Byte) : (s.winWrite o a bs).ports = s.ports := rfl
@[simp] theorem State.winWrite_tb (s : State) (o a : Nat) (bs : List Byte) : (s.winWrite o a bs).tb = s.tb := rfl
@[simp] theorem State.winWrite_trn (s : State) (o a : Nat) (bs : List Byte) : (s.winWrite o a bs).trn = s.trn := rfl
@[simp] theorem State.winWrite_rmf (s : State) (o a : Nat) (bs : List Byte) : (s.winWrite o a bs).rmf = s.rmf := rfl
@[simp] theorem State.winWrite_asc (s : State) (o a : Nat) (bs : List Byte) : (s.winWrite o a bs).asc = s.asc := rfl
@[simp] theorem State.winWrite_obs (s : State) (o a : Nat) (bs : List Byte) : (s.winWrite o a bs).obs = s.obs := rfl

/-! ### setPort -/

@[simp] theorem State.setPort_pending (s : State) (i : Nat) (v : Port) : (s.setPort i v).pending = s.pending := rfl
@[simp] theorem State.setPort_now (s : State) (i : Nat) (v : Port) : (s.setPort i v).now = s.now := rfl
@[simp] theorem State.setPort_free (s : State) (i : Nat) (v : Port) : (s.setPort i v).free = s.free := rfl
@[simp] theorem State.setPort_ids (s : State) (i : Nat) (v : Port) : (s.setPort i v).ids = s.ids := rfl
@[simp] theorem State.setPort_out (s : State) (i : Nat) (v : Port) : (s.setPort i v).out = s.out := rfl
@[simp] theorem State.setPort_dict (s : State) (i : Nat) (v : Port) : (s.setPort i v).dict = s.dict := rfl
@[simp] theorem State.setPort_events (s : State) (i : Nat) (v : Port) : (s.setPort i v).events = s.events := rfl
@[simp] theorem State.setPort_boot (s : State) (i : Nat) (v : Port) : (s.setPort i v).boot = s.boot := rfl
@[simp] theorem State.setPort_kiln (s : State) (i : Nat) (v : Port) : (s.setPort i v).kiln = s.kiln := rfl
@[simp] theorem State.setPort_keys (s : State) (i : Nat) (v : Port) : (s.setPort i v).keys = s.keys := rfl
@[simp] theorem State.setPort_vdp (s : State) (i : Nat) (v : Port) : (s.setPort i v).vdp = s.vdp := rfl
@[simp] theorem State.setPort_host (s : State) (i : Nat) (v : Port) : (s.setPort i v).host = s.host := rfl
@[simp] theorem State.setPort_array (s : State) (i : Nat) (v : Port) : (s.setPort i v).array = s.array := rfl
@[simp] theorem State.setPort_pallets (s : State) (i : Nat) (v : Port) : (s.setPort i v).pallets = s.pallets := rfl
@[simp] theorem State.setPort_req (s : State) (i : Nat) (v : Port) : (s.setPort i v).req = s.req := rfl
@[simp] theorem State.setPort_mem (s : State) (i : Nat) (v : Port) : (s.setPort i v).mem = s.mem := rfl
@[simp] theorem State.setPort_ports (s : State) (i : Nat) (v : Port) : (s.setPort i v).ports = NMap.put Port.reset s.ports i v := rfl
@[simp] theorem State.setPort_tb (s : State) (i : Nat) (v : Port) : (s.setPort i v).tb = s.tb := rfl
@[simp] theorem State.setPort_trn (s : State) (i : Nat) (v : Port) : (s.setPort i v).trn = s.trn := rfl
@[simp] theorem State.setPort_rmf (s : State) (i : Nat) (v : Port) : (s.setPort i v).rmf = s.rmf := rfl
@[simp] theorem State.setPort_asc (s : State) (i : Nat) (v : Port) : (s.setPort i v).asc = s.asc := rfl
@[simp] theorem State.setPort_obs (s : State) (i : Nat) (v : Port) : (s.setPort i v).obs = s.obs := rfl

/-! ### setTbSrc -/

@[simp] theorem State.setTbSrc_pending (s : State) (k : Nat) (v : TbSrc) : (s.setTbSrc k v).pending = s.pending := rfl
@[simp] theorem State.setTbSrc_now (s : State) (k : Nat) (v : TbSrc) : (s.setTbSrc k v).now = s.now := rfl
@[simp] theorem State.setTbSrc_free (s : State) (k : Nat) (v : TbSrc) : (s.setTbSrc k v).free = s.free := rfl
@[simp] theorem State.setTbSrc_ids (s : State) (k : Nat) (v : TbSrc) : (s.setTbSrc k v).ids = s.ids := rfl
@[simp] theorem State.setTbSrc_out (s : State) (k : Nat) (v : TbSrc) : (s.setTbSrc k v).out = s.out := rfl
@[simp] theorem State.setTbSrc_dict (s : State) (k : Nat) (v : TbSrc) : (s.setTbSrc k v).dict = s.dict := rfl
@[simp] theorem State.setTbSrc_events (s : State) (k : Nat) (v : TbSrc) : (s.setTbSrc k v).events = s.events := rfl
@[simp] theorem State.setTbSrc_boot (s : State) (k : Nat) (v : TbSrc) : (s.setTbSrc k v).boot = s.boot := rfl
@[simp] theorem State.setTbSrc_kiln (s : State) (k : Nat) (v : TbSrc) : (s.setTbSrc k v).kiln = s.kiln := rfl
@[simp] theorem State.setTbSrc_keys (s : State) (k : Nat) (v : TbSrc) : (s.setTbSrc k v).keys = s.keys := rfl
@[simp] theorem State.setTbSrc_vdp (s : State) (k : Nat) (v : TbSrc) : (s.setTbSrc k v).vdp = s.vdp := rfl
@[simp] theorem State.setTbSrc_host (s : State) (k : Nat) (v : TbSrc) : (s.setTbSrc k v).host = s.host := rfl
@[simp] theorem State.setTbSrc_array (s : State) (k : Nat) (v : TbSrc) : (s.setTbSrc k v).array = s.array := rfl
@[simp] theorem State.setTbSrc_pallets (s : State) (k : Nat) (v : TbSrc) : (s.setTbSrc k v).pallets = s.pallets := rfl
@[simp] theorem State.setTbSrc_req (s : State) (k : Nat) (v : TbSrc) : (s.setTbSrc k v).req = s.req := rfl
@[simp] theorem State.setTbSrc_mem (s : State) (k : Nat) (v : TbSrc) : (s.setTbSrc k v).mem = s.mem := rfl
@[simp] theorem State.setTbSrc_ports (s : State) (k : Nat) (v : TbSrc) : (s.setTbSrc k v).ports = s.ports := rfl
@[simp] theorem State.setTbSrc_tb (s : State) (k : Nat) (v : TbSrc) : (s.setTbSrc k v).tb = { s.tb with sources := NMap.put TbSrc.reset s.tb.sources k v } := rfl
@[simp] theorem State.setTbSrc_trn (s : State) (k : Nat) (v : TbSrc) : (s.setTbSrc k v).trn = s.trn := rfl
@[simp] theorem State.setTbSrc_rmf (s : State) (k : Nat) (v : TbSrc) : (s.setTbSrc k v).rmf = s.rmf := rfl
@[simp] theorem State.setTbSrc_asc (s : State) (k : Nat) (v : TbSrc) : (s.setTbSrc k v).asc = s.asc := rfl
@[simp] theorem State.setTbSrc_obs (s : State) (k : Nat) (v : TbSrc) : (s.setTbSrc k v).obs = s.obs := rfl

/-! ### setQueue -/

@[simp] theorem State.setQueue_pending (s : State) (q : Nat) (v : Queue) : (s.setQueue q v).pending = s.pending := rfl
@[simp] theorem State.setQueue_now (s : State) (q : Nat) (v : Queue) : (s.setQueue q v).now = s.now := rfl
@[simp] theorem State.setQueue_free (s : State) (q : Nat) (v : Queue) : (s.setQueue q v).free = s.free := rfl
@[simp] theorem State.setQueue_ids (s : State) (q : Nat) (v : Queue) : (s.setQueue q v).ids = s.ids := rfl
@[simp] theorem State.setQueue_out (s : State) (q : Nat) (v : Queue) : (s.setQueue q v).out = s.out := rfl
@[simp] theorem State.setQueue_dict (s : State) (q : Nat) (v : Queue) : (s.setQueue q v).dict = s.dict := rfl
@[simp] theorem State.setQueue_events (s : State) (q : Nat) (v : Queue) : (s.setQueue q v).events = s.events := rfl
@[simp] theorem State.setQueue_boot (s : State) (q : Nat) (v : Queue) : (s.setQueue q v).boot = s.boot := rfl
@[simp] theorem State.setQueue_kiln (s : State) (q : Nat) (v : Queue) : (s.setQueue q v).kiln = s.kiln := rfl
@[simp] theorem State.setQueue_keys (s : State) (q : Nat) (v : Queue) : (s.setQueue q v).keys = s.keys := rfl
@[simp] theorem State.setQueue_vdp (s : State) (q : Nat) (v : Queue) : (s.setQueue q v).vdp = s.vdp := rfl
@[simp] theorem State.setQueue_host (s : State) (q : Nat) (v : Queue) : (s.setQueue q v).host = s.host := rfl
@[simp] theorem State.setQueue_array (s : State) (q : Nat) (v : Queue) : (s.setQueue q v).array = s.array := rfl
@[simp] theorem State.setQueue_pallets (s : State) (q : Nat) (v : Queue) : (s.setQueue q v).pallets = s.pallets := rfl
@[simp] theorem State.setQueue_req (s : State) (q : Nat) (v : Queue) : (s.setQueue q v).req = s.req := rfl
@[simp] theorem State.setQueue_mem (s : State) (q : Nat) (v : Queue) : (s.setQueue q v).mem = s.mem := rfl
@[simp] theorem State.setQueue_ports (s : State) (q : Nat) (v : Queue) : (s.setQueue q v).ports = s.ports := rfl
@[simp] theorem State.setQueue_tb (s : State) (q : Nat) (v : Queue) : (s.setQueue q v).tb = s.tb := rfl
@[simp] theorem State.setQueue_trn (s : State) (q : Nat) (v : Queue) : (s.setQueue q v).trn = { s.trn with queues := NMap.put Queue.reset s.trn.queues q v } := rfl
@[simp] theorem State.setQueue_rmf (s : State) (q : Nat) (v : Queue) : (s.setQueue q v).rmf = s.rmf := rfl
@[simp] theorem State.setQueue_asc (s : State) (q : Nat) (v : Queue) : (s.setQueue q v).asc = s.asc := rfl
@[simp] theorem State.setQueue_obs (s : State) (q : Nat) (v : Queue) : (s.setQueue q v).obs = s.obs := rfl

/-! ### setReg -/

@[simp] theorem State.setReg_pending (s : State) (i : Nat) (v : Reg) : (s.setReg i v).pending = s.pending := rfl
@[simp] theorem State.setReg_now (s : State) (i : Nat) (v : Reg) : (s.setReg i v).now = s.now := rfl
@[simp] theorem State.setReg_free (s : State) (i : Nat) (v : Reg) : (s.setReg i v).free = s.free := rfl
@[simp] theorem State.setReg_ids (s : State) (i : Nat) (v : Reg) : (s.setReg i v).ids = s.ids := rfl
@[simp] theorem State.setReg_out (s : State) (i : Nat) (v : Reg) : (s.setReg i v).out = s.out := rfl
@[simp] theorem State.setReg_dict (s : State) (i : Nat) (v : Reg) : (s.setReg i v).dict = s.dict := rfl
@[simp] theorem State.setReg_events (s : State) (i : Nat) (v : Reg) : (s.setReg i v).events = s.events := rfl
@[simp] theorem State.setReg_boot (s : State) (i : Nat) (v : Reg) : (s.setReg i v).boot = s.boot := rfl
@[simp] theorem State.setReg_kiln (s : State) (i : Nat) (v : Reg) : (s.setReg i v).kiln = s.kiln := rfl
@[simp] theorem State.setReg_keys (s : State) (i : Nat) (v : Reg) : (s.setReg i v).keys = s.keys := rfl
@[simp] theorem State.setReg_vdp (s : State) (i : Nat) (v : Reg) : (s.setReg i v).vdp = s.vdp := rfl
@[simp] theorem State.setReg_host (s : State) (i : Nat) (v : Reg) : (s.setReg i v).host = s.host := rfl
@[simp] theorem State.setReg_array (s : State) (i : Nat) (v : Reg) : (s.setReg i v).array = s.array := rfl
@[simp] theorem State.setReg_pallets (s : State) (i : Nat) (v : Reg) : (s.setReg i v).pallets = s.pallets := rfl
@[simp] theorem State.setReg_req (s : State) (i : Nat) (v : Reg) : (s.setReg i v).req = s.req := rfl
@[simp] theorem State.setReg_mem (s : State) (i : Nat) (v : Reg) : (s.setReg i v).mem = s.mem := rfl
@[simp] theorem State.setReg_ports (s : State) (i : Nat) (v : Reg) : (s.setReg i v).ports = s.ports := rfl
@[simp] theorem State.setReg_tb (s : State) (i : Nat) (v : Reg) : (s.setReg i v).tb = s.tb := rfl
@[simp] theorem State.setReg_trn (s : State) (i : Nat) (v : Reg) : (s.setReg i v).trn = { s.trn with regs := NMap.put Reg.reset s.trn.regs i v } := rfl
@[simp] theorem State.setReg_rmf (s : State) (i : Nat) (v : Reg) : (s.setReg i v).rmf = s.rmf := rfl
@[simp] theorem State.setReg_asc (s : State) (i : Nat) (v : Reg) : (s.setReg i v).asc = s.asc := rfl
@[simp] theorem State.setReg_obs (s : State) (i : Nat) (v : Reg) : (s.setReg i v).obs = s.obs := rfl

/-! ### setFlow -/

@[simp] theorem State.setFlow_pending (s : State) (i : Nat) (f : Flow) : (s.setFlow i f).pending = s.pending := rfl
@[simp] theorem State.setFlow_now (s : State) (i : Nat) (f : Flow) : (s.setFlow i f).now = s.now := rfl
@[simp] theorem State.setFlow_free (s : State) (i : Nat) (f : Flow) : (s.setFlow i f).free = s.free := rfl
@[simp] theorem State.setFlow_ids (s : State) (i : Nat) (f : Flow) : (s.setFlow i f).ids = s.ids := rfl
@[simp] theorem State.setFlow_out (s : State) (i : Nat) (f : Flow) : (s.setFlow i f).out = s.out := rfl
@[simp] theorem State.setFlow_dict (s : State) (i : Nat) (f : Flow) : (s.setFlow i f).dict = s.dict := rfl
@[simp] theorem State.setFlow_events (s : State) (i : Nat) (f : Flow) : (s.setFlow i f).events = s.events := rfl
@[simp] theorem State.setFlow_boot (s : State) (i : Nat) (f : Flow) : (s.setFlow i f).boot = s.boot := rfl
@[simp] theorem State.setFlow_kiln (s : State) (i : Nat) (f : Flow) : (s.setFlow i f).kiln = s.kiln := rfl
@[simp] theorem State.setFlow_keys (s : State) (i : Nat) (f : Flow) : (s.setFlow i f).keys = s.keys := rfl
@[simp] theorem State.setFlow_vdp (s : State) (i : Nat) (f : Flow) : (s.setFlow i f).vdp = s.vdp := rfl
@[simp] theorem State.setFlow_host (s : State) (i : Nat) (f : Flow) : (s.setFlow i f).host = s.host := rfl
@[simp] theorem State.setFlow_array (s : State) (i : Nat) (f : Flow) : (s.setFlow i f).array = s.array := rfl
@[simp] theorem State.setFlow_pallets (s : State) (i : Nat) (f : Flow) : (s.setFlow i f).pallets = s.pallets := rfl
@[simp] theorem State.setFlow_req (s : State) (i : Nat) (f : Flow) : (s.setFlow i f).req = s.req := rfl
@[simp] theorem State.setFlow_mem (s : State) (i : Nat) (f : Flow) : (s.setFlow i f).mem = s.mem := rfl
@[simp] theorem State.setFlow_ports (s : State) (i : Nat) (f : Flow) : (s.setFlow i f).ports = s.ports := rfl
@[simp] theorem State.setFlow_tb (s : State) (i : Nat) (f : Flow) : (s.setFlow i f).tb = s.tb := rfl
@[simp] theorem State.setFlow_trn (s : State) (i : Nat) (f : Flow) : (s.setFlow i f).trn = { s.trn with flows := NMap.ins s.trn.flows i f } := rfl
@[simp] theorem State.setFlow_rmf (s : State) (i : Nat) (f : Flow) : (s.setFlow i f).rmf = s.rmf := rfl
@[simp] theorem State.setFlow_asc (s : State) (i : Nat) (f : Flow) : (s.setFlow i f).asc = s.asc := rfl
@[simp] theorem State.setFlow_obs (s : State) (i : Nat) (f : Flow) : (s.setFlow i f).obs = s.obs := rfl

/-! ### setRequest -/

@[simp] theorem State.setRequest_pending (s : State) (k : Nat) (r : Request) : (s.setRequest k r).pending = s.pending := rfl
@[simp] theorem State.setRequest_now (s : State) (k : Nat) (r : Request) : (s.setRequest k r).now = s.now := rfl
@[simp] theorem State.setRequest_free (s : State) (k : Nat) (r : Request) : (s.setRequest k r).free = s.free := rfl
@[simp] theorem State.setRequest_ids (s : State) (k : Nat) (r : Request) : (s.setRequest k r).ids = s.ids := rfl
@[simp] theorem State.setRequest_out (s : State) (k : Nat) (r : Request) : (s.setRequest k r).out = s.out := rfl
@[simp] theorem State.setRequest_dict (s : State) (k : Nat) (r : Request) : (s.setRequest k r).dict = s.dict := rfl
@[simp] theorem State.setRequest_events (s : State) (k : Nat) (r : Request) : (s.setRequest k r).events = s.events := rfl
@[simp] theorem State.setRequest_boot (s : State) (k : Nat) (r : Request) : (s.setRequest k r).boot = s.boot := rfl
@[simp] theorem State.setRequest_kiln (s : State) (k : Nat) (r : Request) : (s.setRequest k r).kiln = s.kiln := rfl
@[simp] theorem State.setRequest_keys (s : State) (k : Nat) (r : Request) : (s.setRequest k r).keys = s.keys := rfl
@[simp] theorem State.setRequest_vdp (s : State) (k : Nat) (r : Request) : (s.setRequest k r).vdp = s.vdp := rfl
@[simp] theorem State.setRequest_host (s : State) (k : Nat) (r : Request) : (s.setRequest k r).host = s.host := rfl
@[simp] theorem State.setRequest_array (s : State) (k : Nat) (r : Request) : (s.setRequest k r).array = s.array := rfl
@[simp] theorem State.setRequest_pallets (s : State) (k : Nat) (r : Request) : (s.setRequest k r).pallets = s.pallets := rfl
@[simp] theorem State.setRequest_req (s : State) (k : Nat) (r : Request) : (s.setRequest k r).req = { s.req with requests := NMap.ins s.req.requests k r } := rfl
@[simp] theorem State.setRequest_mem (s : State) (k : Nat) (r : Request) : (s.setRequest k r).mem = s.mem := rfl
@[simp] theorem State.setRequest_ports (s : State) (k : Nat) (r : Request) : (s.setRequest k r).ports = s.ports := rfl
@[simp] theorem State.setRequest_tb (s : State) (k : Nat) (r : Request) : (s.setRequest k r).tb = s.tb := rfl
@[simp] theorem State.setRequest_trn (s : State) (k : Nat) (r : Request) : (s.setRequest k r).trn = s.trn := rfl
@[simp] theorem State.setRequest_rmf (s : State) (k : Nat) (r : Request) : (s.setRequest k r).rmf = s.rmf := rfl
@[simp] theorem State.setRequest_asc (s : State) (k : Nat) (r : Request) : (s.setRequest k r).asc = s.asc := rfl
@[simp] theorem State.setRequest_obs (s : State) (k : Nat) (r : Request) : (s.setRequest k r).obs = s.obs := rfl

/-! ### setLocal -/

@[simp] theorem State.setLocal_pending (s : State) (k : Nat) (v : ReqLocal) : (s.setLocal k v).pending = s.pending := rfl
@[simp] theorem State.setLocal_now (s : State) (k : Nat) (v : ReqLocal) : (s.setLocal k v).now = s.now := rfl
@[simp] theorem State.setLocal_free (s : State) (k : Nat) (v : ReqLocal) : (s.setLocal k v).free = s.free := rfl
@[simp] theorem State.setLocal_ids (s : State) (k : Nat) (v : ReqLocal) : (s.setLocal k v).ids = s.ids := rfl
@[simp] theorem State.setLocal_out (s : State) (k : Nat) (v : ReqLocal) : (s.setLocal k v).out = s.out := rfl
@[simp] theorem State.setLocal_dict (s : State) (k : Nat) (v : ReqLocal) : (s.setLocal k v).dict = s.dict := rfl
@[simp] theorem State.setLocal_events (s : State) (k : Nat) (v : ReqLocal) : (s.setLocal k v).events = s.events := rfl
@[simp] theorem State.setLocal_boot (s : State) (k : Nat) (v : ReqLocal) : (s.setLocal k v).boot = s.boot := rfl
@[simp] theorem State.setLocal_kiln (s : State) (k : Nat) (v : ReqLocal) : (s.setLocal k v).kiln = s.kiln := rfl
@[simp] theorem State.setLocal_keys (s : State) (k : Nat) (v : ReqLocal) : (s.setLocal k v).keys = s.keys := rfl
@[simp] theorem State.setLocal_vdp (s : State) (k : Nat) (v : ReqLocal) : (s.setLocal k v).vdp = s.vdp := rfl
@[simp] theorem State.setLocal_host (s : State) (k : Nat) (v : ReqLocal) : (s.setLocal k v).host = s.host := rfl
@[simp] theorem State.setLocal_array (s : State) (k : Nat) (v : ReqLocal) : (s.setLocal k v).array = s.array := rfl
@[simp] theorem State.setLocal_pallets (s : State) (k : Nat) (v : ReqLocal) : (s.setLocal k v).pallets = s.pallets := rfl
@[simp] theorem State.setLocal_req (s : State) (k : Nat) (v : ReqLocal) : (s.setLocal k v).req = { s.req with locals := NMap.ins s.req.locals k v } := rfl
@[simp] theorem State.setLocal_mem (s : State) (k : Nat) (v : ReqLocal) : (s.setLocal k v).mem = s.mem := rfl
@[simp] theorem State.setLocal_ports (s : State) (k : Nat) (v : ReqLocal) : (s.setLocal k v).ports = s.ports := rfl
@[simp] theorem State.setLocal_tb (s : State) (k : Nat) (v : ReqLocal) : (s.setLocal k v).tb = s.tb := rfl
@[simp] theorem State.setLocal_trn (s : State) (k : Nat) (v : ReqLocal) : (s.setLocal k v).trn = s.trn := rfl
@[simp] theorem State.setLocal_rmf (s : State) (k : Nat) (v : ReqLocal) : (s.setLocal k v).rmf = s.rmf := rfl
@[simp] theorem State.setLocal_asc (s : State) (k : Nat) (v : ReqLocal) : (s.setLocal k v).asc = s.asc := rfl
@[simp] theorem State.setLocal_obs (s : State) (k : Nat) (v : ReqLocal) : (s.setLocal k v).obs = s.obs := rfl

/-! ### linkPage -/

@[simp] theorem State.linkPage_pending (s : State) (p va : Nat) : (s.linkPage p va).pending = s.pending := rfl
@[simp] theorem State.linkPage_now (s : State) (p va : Nat) : (s.linkPage p va).now = s.now := rfl
@[simp] theorem State.linkPage_free (s : State) (p va : Nat) : (s.linkPage p va).free = s.free := rfl
@[simp] theorem State.linkPage_ids (s : State) (p va : Nat) : (s.linkPage p va).ids = s.ids := rfl
@[simp] theorem State.linkPage_out (s : State) (p va : Nat) : (s.linkPage p va).out = s.out := rfl
@[simp] theorem State.linkPage_dict (s : State) (p va : Nat) : (s.linkPage p va).dict = s.dict := rfl
@[simp] theorem State.linkPage_events (s : State) (p va : Nat) : (s.linkPage p va).events = s.events := rfl
@[simp] theorem State.linkPage_boot (s : State) (p va : Nat) : (s.linkPage p va).boot = s.boot := rfl
@[simp] theorem State.linkPage_kiln (s : State) (p va : Nat) : (s.linkPage p va).kiln = s.kiln := rfl
@[simp] theorem State.linkPage_keys (s : State) (p va : Nat) : (s.linkPage p va).keys = s.keys := rfl
@[simp] theorem State.linkPage_vdp (s : State) (p va : Nat) : (s.linkPage p va).vdp = s.vdp := rfl
@[simp] theorem State.linkPage_host (s : State) (p va : Nat) : (s.linkPage p va).host = s.host := rfl
@[simp] theorem State.linkPage_array (s : State) (p va : Nat) : (s.linkPage p va).array = s.array := rfl
@[simp] theorem State.linkPage_pallets (s : State) (p va : Nat) : (s.linkPage p va).pallets = s.pallets := rfl
@[simp] theorem State.linkPage_req (s : State) (p va : Nat) : (s.linkPage p va).req = s.req := rfl
@[simp] theorem State.linkPage_mem (s : State) (p va : Nat) : (s.linkPage p va).mem = { s.mem with tables := linked p va s.mem.tables } := rfl
@[simp] theorem State.linkPage_ports (s : State) (p va : Nat) : (s.linkPage p va).ports = s.ports := rfl
@[simp] theorem State.linkPage_tb (s : State) (p va : Nat) : (s.linkPage p va).tb = s.tb := rfl
@[simp] theorem State.linkPage_trn (s : State) (p va : Nat) : (s.linkPage p va).trn = s.trn := rfl
@[simp] theorem State.linkPage_rmf (s : State) (p va : Nat) : (s.linkPage p va).rmf = s.rmf := rfl
@[simp] theorem State.linkPage_asc (s : State) (p va : Nat) : (s.linkPage p va).asc = s.asc := rfl
@[simp] theorem State.linkPage_obs (s : State) (p va : Nat) : (s.linkPage p va).obs = s.obs := rfl

/-! ### setLeaf -/

@[simp] theorem State.setLeaf_pending (s : State) (p va : Nat) (l : Leaf) : (s.setLeaf p va l).pending = s.pending := rfl
@[simp] theorem State.setLeaf_now (s : State) (p va : Nat) (l : Leaf) : (s.setLeaf p va l).now = s.now := rfl
@[simp] theorem State.setLeaf_free (s : State) (p va : Nat) (l : Leaf) : (s.setLeaf p va l).free = s.free := rfl
@[simp] theorem State.setLeaf_ids (s : State) (p va : Nat) (l : Leaf) : (s.setLeaf p va l).ids = s.ids := rfl
@[simp] theorem State.setLeaf_out (s : State) (p va : Nat) (l : Leaf) : (s.setLeaf p va l).out = s.out := rfl
@[simp] theorem State.setLeaf_dict (s : State) (p va : Nat) (l : Leaf) : (s.setLeaf p va l).dict = s.dict := rfl
@[simp] theorem State.setLeaf_events (s : State) (p va : Nat) (l : Leaf) : (s.setLeaf p va l).events = s.events := rfl
@[simp] theorem State.setLeaf_boot (s : State) (p va : Nat) (l : Leaf) : (s.setLeaf p va l).boot = s.boot := rfl
@[simp] theorem State.setLeaf_kiln (s : State) (p va : Nat) (l : Leaf) : (s.setLeaf p va l).kiln = s.kiln := rfl
@[simp] theorem State.setLeaf_keys (s : State) (p va : Nat) (l : Leaf) : (s.setLeaf p va l).keys = s.keys := rfl
@[simp] theorem State.setLeaf_vdp (s : State) (p va : Nat) (l : Leaf) : (s.setLeaf p va l).vdp = s.vdp := rfl
@[simp] theorem State.setLeaf_host (s : State) (p va : Nat) (l : Leaf) : (s.setLeaf p va l).host = s.host := rfl
@[simp] theorem State.setLeaf_array (s : State) (p va : Nat) (l : Leaf) : (s.setLeaf p va l).array = s.array := rfl
@[simp] theorem State.setLeaf_pallets (s : State) (p va : Nat) (l : Leaf) : (s.setLeaf p va l).pallets = s.pallets := rfl
@[simp] theorem State.setLeaf_req (s : State) (p va : Nat) (l : Leaf) : (s.setLeaf p va l).req = s.req := rfl
@[simp] theorem State.setLeaf_mem (s : State) (p va : Nat) (l : Leaf) : (s.setLeaf p va l).mem = { (s.linkPage p va).mem with leaves := NMap.ins s.mem.leaves (leafKey p va) l } := rfl
@[simp] theorem State.setLeaf_ports (s : State) (p va : Nat) (l : Leaf) : (s.setLeaf p va l).ports = s.ports := rfl
@[simp] theorem State.setLeaf_tb (s : State) (p va : Nat) (l : Leaf) : (s.setLeaf p va l).tb = s.tb := rfl
@[simp] theorem State.setLeaf_trn (s : State) (p va : Nat) (l : Leaf) : (s.setLeaf p va l).trn = s.trn := rfl
@[simp] theorem State.setLeaf_rmf (s : State) (p va : Nat) (l : Leaf) : (s.setLeaf p va l).rmf = s.rmf := rfl
@[simp] theorem State.setLeaf_asc (s : State) (p va : Nat) (l : Leaf) : (s.setLeaf p va l).asc = s.asc := rfl
@[simp] theorem State.setLeaf_obs (s : State) (p va : Nat) (l : Leaf) : (s.setLeaf p va l).obs = s.obs := rfl

/-! ## What an accessor reads after an update -/

theorem objKey_ne_of_oid {o o' i i' : Nat} (h : o ≠ o') : objKey o i ≠ objKey o' i' := by unfold objKey; omega

@[simp] theorem State.at_obj (s : State) (t : Nat) (o' i' : Nat) : (s.at t).obj o' i' = s.obj o' i' := rfl
@[simp] theorem State.emit_obj (s : State) (o : Out) (o' i' : Nat) : (s.emit o).obj o' i' = s.obj o' i' := rfl
@[simp] theorem State.setBrick_obj (s : State) (b : Nat) (v : Brick) (o' i' : Nat) : (s.setBrick b v).obj o' i' = s.obj o' i' := rfl
@[simp] theorem State.setCounter_obj (s : State) (k : Nat) (v : ArrCounter) (o' i' : Nat) : (s.setCounter k v).obj o' i' = s.obj o' i' := rfl
@[simp] theorem State.setPallet_obj (s : State) (p : Nat) (v : Pallet) (o' i' : Nat) : (s.setPallet p v).obj o' i' = s.obj o' i' := rfl
@[simp] theorem State.setKslot_obj (s : State) (k : Nat) (v : KeySlot) (o' i' : Nat) : (s.setKslot k v).obj o' i' = s.obj o' i' := rfl
@[simp] theorem State.setRing_obj (s : State) (o r : Nat) (v : Ring) (o' i' : Nat) : (s.setRing o r v).obj o' i' = s.obj o' i' := rfl
@[simp] theorem State.setLd_obj (s : State) (o : Nat) (v : Ld) (o' i' : Nat) : (s.setLd o v).obj o' i' = s.obj o' i' := rfl
@[simp] theorem State.winWrite_obj (s : State) (o a : Nat) (bs : List Byte) (o' i' : Nat) : (s.winWrite o a bs).obj o' i' = s.obj o' i' := rfl
@[simp] theorem State.setPort_obj (s : State) (i : Nat) (v : Port) (o' i' : Nat) : (s.setPort i v).obj o' i' = s.obj o' i' := rfl
@[simp] theorem State.setTbSrc_obj (s : State) (k : Nat) (v : TbSrc) (o' i' : Nat) : (s.setTbSrc k v).obj o' i' = s.obj o' i' := rfl
@[simp] theorem State.setQueue_obj (s : State) (q : Nat) (v : Queue) (o' i' : Nat) : (s.setQueue q v).obj o' i' = s.obj o' i' := rfl
@[simp] theorem State.setReg_obj (s : State) (i : Nat) (v : Reg) (o' i' : Nat) : (s.setReg i v).obj o' i' = s.obj o' i' := rfl
@[simp] theorem State.setFlow_obj (s : State) (i : Nat) (f : Flow) (o' i' : Nat) : (s.setFlow i f).obj o' i' = s.obj o' i' := rfl
@[simp] theorem State.setRequest_obj (s : State) (k : Nat) (r : Request) (o' i' : Nat) : (s.setRequest k r).obj o' i' = s.obj o' i' := rfl
@[simp] theorem State.setLocal_obj (s : State) (k : Nat) (v : ReqLocal) (o' i' : Nat) : (s.setLocal k v).obj o' i' = s.obj o' i' := rfl
@[simp] theorem State.linkPage_obj (s : State) (p va : Nat) (o' i' : Nat) : (s.linkPage p va).obj o' i' = s.obj o' i' := rfl
@[simp] theorem State.setLeaf_obj (s : State) (p va : Nat) (l : Leaf) (o' i' : Nat) : (s.setLeaf p va l).obj o' i' = s.obj o' i' := rfl

@[simp] theorem State.at_brick (s : State) (t : Nat) (b' : Nat) : (s.at t).brick b' = s.brick b' := rfl
@[simp] theorem State.emit_brick (s : State) (o : Out) (b' : Nat) : (s.emit o).brick b' = s.brick b' := rfl
@[simp] theorem State.setObj_brick (s : State) (oid inst v : Nat) (b' : Nat) : (s.setObj oid inst v).brick b' = s.brick b' := rfl
@[simp] theorem State.setCounter_brick (s : State) (k : Nat) (v : ArrCounter) (b' : Nat) : (s.setCounter k v).brick b' = s.brick b' := rfl
@[simp] theorem State.setPallet_brick (s : State) (p : Nat) (v : Pallet) (b' : Nat) : (s.setPallet p v).brick b' = s.brick b' := rfl
@[simp] theorem State.setKslot_brick (s : State) (k : Nat) (v : KeySlot) (b' : Nat) : (s.setKslot k v).brick b' = s.brick b' := rfl
@[simp] theorem State.setRing_brick (s : State) (o r : Nat) (v : Ring) (b' : Nat) : (s.setRing o r v).brick b' = s.brick b' := rfl
@[simp] theorem State.setLd_brick (s : State) (o : Nat) (v : Ld) (b' : Nat) : (s.setLd o v).brick b' = s.brick b' := rfl
@[simp] theorem State.winWrite_brick (s : State) (o a : Nat) (bs : List Byte) (b' : Nat) : (s.winWrite o a bs).brick b' = s.brick b' := rfl
@[simp] theorem State.setPort_brick (s : State) (i : Nat) (v : Port) (b' : Nat) : (s.setPort i v).brick b' = s.brick b' := rfl
@[simp] theorem State.setTbSrc_brick (s : State) (k : Nat) (v : TbSrc) (b' : Nat) : (s.setTbSrc k v).brick b' = s.brick b' := rfl
@[simp] theorem State.setQueue_brick (s : State) (q : Nat) (v : Queue) (b' : Nat) : (s.setQueue q v).brick b' = s.brick b' := rfl
@[simp] theorem State.setReg_brick (s : State) (i : Nat) (v : Reg) (b' : Nat) : (s.setReg i v).brick b' = s.brick b' := rfl
@[simp] theorem State.setFlow_brick (s : State) (i : Nat) (f : Flow) (b' : Nat) : (s.setFlow i f).brick b' = s.brick b' := rfl
@[simp] theorem State.setRequest_brick (s : State) (k : Nat) (r : Request) (b' : Nat) : (s.setRequest k r).brick b' = s.brick b' := rfl
@[simp] theorem State.setLocal_brick (s : State) (k : Nat) (v : ReqLocal) (b' : Nat) : (s.setLocal k v).brick b' = s.brick b' := rfl
@[simp] theorem State.linkPage_brick (s : State) (p va : Nat) (b' : Nat) : (s.linkPage p va).brick b' = s.brick b' := rfl
@[simp] theorem State.setLeaf_brick (s : State) (p va : Nat) (l : Leaf) (b' : Nat) : (s.setLeaf p va l).brick b' = s.brick b' := rfl

@[simp] theorem State.at_counter (s : State) (t : Nat) (k' : Nat) : (s.at t).counter k' = s.counter k' := rfl
@[simp] theorem State.emit_counter (s : State) (o : Out) (k' : Nat) : (s.emit o).counter k' = s.counter k' := rfl
@[simp] theorem State.setObj_counter (s : State) (oid inst v : Nat) (k' : Nat) : (s.setObj oid inst v).counter k' = s.counter k' := rfl
@[simp] theorem State.setBrick_counter (s : State) (b : Nat) (v : Brick) (k' : Nat) : (s.setBrick b v).counter k' = s.counter k' := rfl
@[simp] theorem State.setPallet_counter (s : State) (p : Nat) (v : Pallet) (k' : Nat) : (s.setPallet p v).counter k' = s.counter k' := rfl
@[simp] theorem State.setKslot_counter (s : State) (k : Nat) (v : KeySlot) (k' : Nat) : (s.setKslot k v).counter k' = s.counter k' := rfl
@[simp] theorem State.setRing_counter (s : State) (o r : Nat) (v : Ring) (k' : Nat) : (s.setRing o r v).counter k' = s.counter k' := rfl
@[simp] theorem State.setLd_counter (s : State) (o : Nat) (v : Ld) (k' : Nat) : (s.setLd o v).counter k' = s.counter k' := rfl
@[simp] theorem State.winWrite_counter (s : State) (o a : Nat) (bs : List Byte) (k' : Nat) : (s.winWrite o a bs).counter k' = s.counter k' := rfl
@[simp] theorem State.setPort_counter (s : State) (i : Nat) (v : Port) (k' : Nat) : (s.setPort i v).counter k' = s.counter k' := rfl
@[simp] theorem State.setTbSrc_counter (s : State) (k : Nat) (v : TbSrc) (k' : Nat) : (s.setTbSrc k v).counter k' = s.counter k' := rfl
@[simp] theorem State.setQueue_counter (s : State) (q : Nat) (v : Queue) (k' : Nat) : (s.setQueue q v).counter k' = s.counter k' := rfl
@[simp] theorem State.setReg_counter (s : State) (i : Nat) (v : Reg) (k' : Nat) : (s.setReg i v).counter k' = s.counter k' := rfl
@[simp] theorem State.setFlow_counter (s : State) (i : Nat) (f : Flow) (k' : Nat) : (s.setFlow i f).counter k' = s.counter k' := rfl
@[simp] theorem State.setRequest_counter (s : State) (k : Nat) (r : Request) (k' : Nat) : (s.setRequest k r).counter k' = s.counter k' := rfl
@[simp] theorem State.setLocal_counter (s : State) (k : Nat) (v : ReqLocal) (k' : Nat) : (s.setLocal k v).counter k' = s.counter k' := rfl
@[simp] theorem State.linkPage_counter (s : State) (p va : Nat) (k' : Nat) : (s.linkPage p va).counter k' = s.counter k' := rfl
@[simp] theorem State.setLeaf_counter (s : State) (p va : Nat) (l : Leaf) (k' : Nat) : (s.setLeaf p va l).counter k' = s.counter k' := rfl

@[simp] theorem State.at_pallet (s : State) (t : Nat) (p' : Nat) : (s.at t).pallet p' = s.pallet p' := rfl
@[simp] theorem State.emit_pallet (s : State) (o : Out) (p' : Nat) : (s.emit o).pallet p' = s.pallet p' := rfl
@[simp] theorem State.setObj_pallet (s : State) (oid inst v : Nat) (p' : Nat) : (s.setObj oid inst v).pallet p' = s.pallet p' := rfl
@[simp] theorem State.setBrick_pallet (s : State) (b : Nat) (v : Brick) (p' : Nat) : (s.setBrick b v).pallet p' = s.pallet p' := rfl
@[simp] theorem State.setCounter_pallet (s : State) (k : Nat) (v : ArrCounter) (p' : Nat) : (s.setCounter k v).pallet p' = s.pallet p' := rfl
@[simp] theorem State.setKslot_pallet (s : State) (k : Nat) (v : KeySlot) (p' : Nat) : (s.setKslot k v).pallet p' = s.pallet p' := rfl
@[simp] theorem State.setRing_pallet (s : State) (o r : Nat) (v : Ring) (p' : Nat) : (s.setRing o r v).pallet p' = s.pallet p' := rfl
@[simp] theorem State.setLd_pallet (s : State) (o : Nat) (v : Ld) (p' : Nat) : (s.setLd o v).pallet p' = s.pallet p' := rfl
@[simp] theorem State.winWrite_pallet (s : State) (o a : Nat) (bs : List Byte) (p' : Nat) : (s.winWrite o a bs).pallet p' = s.pallet p' := rfl
@[simp] theorem State.setPort_pallet (s : State) (i : Nat) (v : Port) (p' : Nat) : (s.setPort i v).pallet p' = s.pallet p' := rfl
@[simp] theorem State.setTbSrc_pallet (s : State) (k : Nat) (v : TbSrc) (p' : Nat) : (s.setTbSrc k v).pallet p' = s.pallet p' := rfl
@[simp] theorem State.setQueue_pallet (s : State) (q : Nat) (v : Queue) (p' : Nat) : (s.setQueue q v).pallet p' = s.pallet p' := rfl
@[simp] theorem State.setReg_pallet (s : State) (i : Nat) (v : Reg) (p' : Nat) : (s.setReg i v).pallet p' = s.pallet p' := rfl
@[simp] theorem State.setFlow_pallet (s : State) (i : Nat) (f : Flow) (p' : Nat) : (s.setFlow i f).pallet p' = s.pallet p' := rfl
@[simp] theorem State.setRequest_pallet (s : State) (k : Nat) (r : Request) (p' : Nat) : (s.setRequest k r).pallet p' = s.pallet p' := rfl
@[simp] theorem State.setLocal_pallet (s : State) (k : Nat) (v : ReqLocal) (p' : Nat) : (s.setLocal k v).pallet p' = s.pallet p' := rfl
@[simp] theorem State.linkPage_pallet (s : State) (p va : Nat) (p' : Nat) : (s.linkPage p va).pallet p' = s.pallet p' := rfl
@[simp] theorem State.setLeaf_pallet (s : State) (p va : Nat) (l : Leaf) (p' : Nat) : (s.setLeaf p va l).pallet p' = s.pallet p' := rfl

@[simp] theorem State.at_kslot (s : State) (t : Nat) (k' : Nat) : (s.at t).kslot k' = s.kslot k' := rfl
@[simp] theorem State.emit_kslot (s : State) (o : Out) (k' : Nat) : (s.emit o).kslot k' = s.kslot k' := rfl
@[simp] theorem State.setObj_kslot (s : State) (oid inst v : Nat) (k' : Nat) : (s.setObj oid inst v).kslot k' = s.kslot k' := rfl
@[simp] theorem State.setBrick_kslot (s : State) (b : Nat) (v : Brick) (k' : Nat) : (s.setBrick b v).kslot k' = s.kslot k' := rfl
@[simp] theorem State.setCounter_kslot (s : State) (k : Nat) (v : ArrCounter) (k' : Nat) : (s.setCounter k v).kslot k' = s.kslot k' := rfl
@[simp] theorem State.setPallet_kslot (s : State) (p : Nat) (v : Pallet) (k' : Nat) : (s.setPallet p v).kslot k' = s.kslot k' := rfl
@[simp] theorem State.setRing_kslot (s : State) (o r : Nat) (v : Ring) (k' : Nat) : (s.setRing o r v).kslot k' = s.kslot k' := rfl
@[simp] theorem State.setLd_kslot (s : State) (o : Nat) (v : Ld) (k' : Nat) : (s.setLd o v).kslot k' = s.kslot k' := rfl
@[simp] theorem State.winWrite_kslot (s : State) (o a : Nat) (bs : List Byte) (k' : Nat) : (s.winWrite o a bs).kslot k' = s.kslot k' := rfl
@[simp] theorem State.setPort_kslot (s : State) (i : Nat) (v : Port) (k' : Nat) : (s.setPort i v).kslot k' = s.kslot k' := rfl
@[simp] theorem State.setTbSrc_kslot (s : State) (k : Nat) (v : TbSrc) (k' : Nat) : (s.setTbSrc k v).kslot k' = s.kslot k' := rfl
@[simp] theorem State.setQueue_kslot (s : State) (q : Nat) (v : Queue) (k' : Nat) : (s.setQueue q v).kslot k' = s.kslot k' := rfl
@[simp] theorem State.setReg_kslot (s : State) (i : Nat) (v : Reg) (k' : Nat) : (s.setReg i v).kslot k' = s.kslot k' := rfl
@[simp] theorem State.setFlow_kslot (s : State) (i : Nat) (f : Flow) (k' : Nat) : (s.setFlow i f).kslot k' = s.kslot k' := rfl
@[simp] theorem State.setRequest_kslot (s : State) (k : Nat) (r : Request) (k' : Nat) : (s.setRequest k r).kslot k' = s.kslot k' := rfl
@[simp] theorem State.setLocal_kslot (s : State) (k : Nat) (v : ReqLocal) (k' : Nat) : (s.setLocal k v).kslot k' = s.kslot k' := rfl
@[simp] theorem State.linkPage_kslot (s : State) (p va : Nat) (k' : Nat) : (s.linkPage p va).kslot k' = s.kslot k' := rfl
@[simp] theorem State.setLeaf_kslot (s : State) (p va : Nat) (l : Leaf) (k' : Nat) : (s.setLeaf p va l).kslot k' = s.kslot k' := rfl

@[simp] theorem State.at_ring (s : State) (t : Nat) (o' r' : Nat) : (s.at t).ring o' r' = s.ring o' r' := rfl
@[simp] theorem State.emit_ring (s : State) (o : Out) (o' r' : Nat) : (s.emit o).ring o' r' = s.ring o' r' := rfl
@[simp] theorem State.setObj_ring (s : State) (oid inst v : Nat) (o' r' : Nat) : (s.setObj oid inst v).ring o' r' = s.ring o' r' := rfl
@[simp] theorem State.setBrick_ring (s : State) (b : Nat) (v : Brick) (o' r' : Nat) : (s.setBrick b v).ring o' r' = s.ring o' r' := rfl
@[simp] theorem State.setCounter_ring (s : State) (k : Nat) (v : ArrCounter) (o' r' : Nat) : (s.setCounter k v).ring o' r' = s.ring o' r' := rfl
@[simp] theorem State.setPallet_ring (s : State) (p : Nat) (v : Pallet) (o' r' : Nat) : (s.setPallet p v).ring o' r' = s.ring o' r' := rfl
@[simp] theorem State.setKslot_ring (s : State) (k : Nat) (v : KeySlot) (o' r' : Nat) : (s.setKslot k v).ring o' r' = s.ring o' r' := rfl
@[simp] theorem State.setLd_ring (s : State) (o : Nat) (v : Ld) (o' r' : Nat) : (s.setLd o v).ring o' r' = s.ring o' r' := rfl
@[simp] theorem State.winWrite_ring (s : State) (o a : Nat) (bs : List Byte) (o' r' : Nat) : (s.winWrite o a bs).ring o' r' = s.ring o' r' := rfl
@[simp] theorem State.setPort_ring (s : State) (i : Nat) (v : Port) (o' r' : Nat) : (s.setPort i v).ring o' r' = s.ring o' r' := rfl
@[simp] theorem State.setTbSrc_ring (s : State) (k : Nat) (v : TbSrc) (o' r' : Nat) : (s.setTbSrc k v).ring o' r' = s.ring o' r' := rfl
@[simp] theorem State.setQueue_ring (s : State) (q : Nat) (v : Queue) (o' r' : Nat) : (s.setQueue q v).ring o' r' = s.ring o' r' := rfl
@[simp] theorem State.setReg_ring (s : State) (i : Nat) (v : Reg) (o' r' : Nat) : (s.setReg i v).ring o' r' = s.ring o' r' := rfl
@[simp] theorem State.setFlow_ring (s : State) (i : Nat) (f : Flow) (o' r' : Nat) : (s.setFlow i f).ring o' r' = s.ring o' r' := rfl
@[simp] theorem State.setRequest_ring (s : State) (k : Nat) (r : Request) (o' r' : Nat) : (s.setRequest k r).ring o' r' = s.ring o' r' := rfl
@[simp] theorem State.setLocal_ring (s : State) (k : Nat) (v : ReqLocal) (o' r' : Nat) : (s.setLocal k v).ring o' r' = s.ring o' r' := rfl
@[simp] theorem State.linkPage_ring (s : State) (p va : Nat) (o' r' : Nat) : (s.linkPage p va).ring o' r' = s.ring o' r' := rfl
@[simp] theorem State.setLeaf_ring (s : State) (p va : Nat) (l : Leaf) (o' r' : Nat) : (s.setLeaf p va l).ring o' r' = s.ring o' r' := rfl

@[simp] theorem State.at_ld (s : State) (t : Nat) (o' : Nat) : (s.at t).ld o' = s.ld o' := rfl
@[simp] theorem State.emit_ld (s : State) (o : Out) (o' : Nat) : (s.emit o).ld o' = s.ld o' := rfl
@[simp] theorem State.setObj_ld (s : State) (oid inst v : Nat) (o' : Nat) : (s.setObj oid inst v).ld o' = s.ld o' := rfl
@[simp] theorem State.setBrick_ld (s : State) (b : Nat) (v : Brick) (o' : Nat) : (s.setBrick b v).ld o' = s.ld o' := rfl
@[simp] theorem State.setCounter_ld (s : State) (k : Nat) (v : ArrCounter) (o' : Nat) : (s.setCounter k v).ld o' = s.ld o' := rfl
@[simp] theorem State.setPallet_ld (s : State) (p : Nat) (v : Pallet) (o' : Nat) : (s.setPallet p v).ld o' = s.ld o' := rfl
@[simp] theorem State.setKslot_ld (s : State) (k : Nat) (v : KeySlot) (o' : Nat) : (s.setKslot k v).ld o' = s.ld o' := rfl
@[simp] theorem State.setRing_ld (s : State) (o r : Nat) (v : Ring) (o' : Nat) : (s.setRing o r v).ld o' = s.ld o' := rfl
@[simp] theorem State.winWrite_ld (s : State) (o a : Nat) (bs : List Byte) (o' : Nat) : (s.winWrite o a bs).ld o' = s.ld o' := rfl
@[simp] theorem State.setPort_ld (s : State) (i : Nat) (v : Port) (o' : Nat) : (s.setPort i v).ld o' = s.ld o' := rfl
@[simp] theorem State.setTbSrc_ld (s : State) (k : Nat) (v : TbSrc) (o' : Nat) : (s.setTbSrc k v).ld o' = s.ld o' := rfl
@[simp] theorem State.setQueue_ld (s : State) (q : Nat) (v : Queue) (o' : Nat) : (s.setQueue q v).ld o' = s.ld o' := rfl
@[simp] theorem State.setReg_ld (s : State) (i : Nat) (v : Reg) (o' : Nat) : (s.setReg i v).ld o' = s.ld o' := rfl
@[simp] theorem State.setFlow_ld (s : State) (i : Nat) (f : Flow) (o' : Nat) : (s.setFlow i f).ld o' = s.ld o' := rfl
@[simp] theorem State.setRequest_ld (s : State) (k : Nat) (r : Request) (o' : Nat) : (s.setRequest k r).ld o' = s.ld o' := rfl
@[simp] theorem State.setLocal_ld (s : State) (k : Nat) (v : ReqLocal) (o' : Nat) : (s.setLocal k v).ld o' = s.ld o' := rfl
@[simp] theorem State.linkPage_ld (s : State) (p va : Nat) (o' : Nat) : (s.linkPage p va).ld o' = s.ld o' := rfl
@[simp] theorem State.setLeaf_ld (s : State) (p va : Nat) (l : Leaf) (o' : Nat) : (s.setLeaf p va l).ld o' = s.ld o' := rfl

@[simp] theorem State.at_port (s : State) (t : Nat) (i' : Nat) : (s.at t).port i' = s.port i' := rfl
@[simp] theorem State.emit_port (s : State) (o : Out) (i' : Nat) : (s.emit o).port i' = s.port i' := rfl
@[simp] theorem State.setObj_port (s : State) (oid inst v : Nat) (i' : Nat) : (s.setObj oid inst v).port i' = s.port i' := rfl
@[simp] theorem State.setBrick_port (s : State) (b : Nat) (v : Brick) (i' : Nat) : (s.setBrick b v).port i' = s.port i' := rfl
@[simp] theorem State.setCounter_port (s : State) (k : Nat) (v : ArrCounter) (i' : Nat) : (s.setCounter k v).port i' = s.port i' := rfl
@[simp] theorem State.setPallet_port (s : State) (p : Nat) (v : Pallet) (i' : Nat) : (s.setPallet p v).port i' = s.port i' := rfl
@[simp] theorem State.setKslot_port (s : State) (k : Nat) (v : KeySlot) (i' : Nat) : (s.setKslot k v).port i' = s.port i' := rfl
@[simp] theorem State.setRing_port (s : State) (o r : Nat) (v : Ring) (i' : Nat) : (s.setRing o r v).port i' = s.port i' := rfl
@[simp] theorem State.setLd_port (s : State) (o : Nat) (v : Ld) (i' : Nat) : (s.setLd o v).port i' = s.port i' := rfl
@[simp] theorem State.winWrite_port (s : State) (o a : Nat) (bs : List Byte) (i' : Nat) : (s.winWrite o a bs).port i' = s.port i' := rfl
@[simp] theorem State.setTbSrc_port (s : State) (k : Nat) (v : TbSrc) (i' : Nat) : (s.setTbSrc k v).port i' = s.port i' := rfl
@[simp] theorem State.setQueue_port (s : State) (q : Nat) (v : Queue) (i' : Nat) : (s.setQueue q v).port i' = s.port i' := rfl
@[simp] theorem State.setReg_port (s : State) (i : Nat) (v : Reg) (i' : Nat) : (s.setReg i v).port i' = s.port i' := rfl
@[simp] theorem State.setFlow_port (s : State) (i : Nat) (f : Flow) (i' : Nat) : (s.setFlow i f).port i' = s.port i' := rfl
@[simp] theorem State.setRequest_port (s : State) (k : Nat) (r : Request) (i' : Nat) : (s.setRequest k r).port i' = s.port i' := rfl
@[simp] theorem State.setLocal_port (s : State) (k : Nat) (v : ReqLocal) (i' : Nat) : (s.setLocal k v).port i' = s.port i' := rfl
@[simp] theorem State.linkPage_port (s : State) (p va : Nat) (i' : Nat) : (s.linkPage p va).port i' = s.port i' := rfl
@[simp] theorem State.setLeaf_port (s : State) (p va : Nat) (l : Leaf) (i' : Nat) : (s.setLeaf p va l).port i' = s.port i' := rfl

@[simp] theorem State.at_tbSrc (s : State) (t : Nat) (k' : Nat) : (s.at t).tbSrc k' = s.tbSrc k' := rfl
@[simp] theorem State.emit_tbSrc (s : State) (o : Out) (k' : Nat) : (s.emit o).tbSrc k' = s.tbSrc k' := rfl
@[simp] theorem State.setObj_tbSrc (s : State) (oid inst v : Nat) (k' : Nat) : (s.setObj oid inst v).tbSrc k' = s.tbSrc k' := rfl
@[simp] theorem State.setBrick_tbSrc (s : State) (b : Nat) (v : Brick) (k' : Nat) : (s.setBrick b v).tbSrc k' = s.tbSrc k' := rfl
@[simp] theorem State.setCounter_tbSrc (s : State) (k : Nat) (v : ArrCounter) (k' : Nat) : (s.setCounter k v).tbSrc k' = s.tbSrc k' := rfl
@[simp] theorem State.setPallet_tbSrc (s : State) (p : Nat) (v : Pallet) (k' : Nat) : (s.setPallet p v).tbSrc k' = s.tbSrc k' := rfl
@[simp] theorem State.setKslot_tbSrc (s : State) (k : Nat) (v : KeySlot) (k' : Nat) : (s.setKslot k v).tbSrc k' = s.tbSrc k' := rfl
@[simp] theorem State.setRing_tbSrc (s : State) (o r : Nat) (v : Ring) (k' : Nat) : (s.setRing o r v).tbSrc k' = s.tbSrc k' := rfl
@[simp] theorem State.setLd_tbSrc (s : State) (o : Nat) (v : Ld) (k' : Nat) : (s.setLd o v).tbSrc k' = s.tbSrc k' := rfl
@[simp] theorem State.winWrite_tbSrc (s : State) (o a : Nat) (bs : List Byte) (k' : Nat) : (s.winWrite o a bs).tbSrc k' = s.tbSrc k' := rfl
@[simp] theorem State.setPort_tbSrc (s : State) (i : Nat) (v : Port) (k' : Nat) : (s.setPort i v).tbSrc k' = s.tbSrc k' := rfl
@[simp] theorem State.setQueue_tbSrc (s : State) (q : Nat) (v : Queue) (k' : Nat) : (s.setQueue q v).tbSrc k' = s.tbSrc k' := rfl
@[simp] theorem State.setReg_tbSrc (s : State) (i : Nat) (v : Reg) (k' : Nat) : (s.setReg i v).tbSrc k' = s.tbSrc k' := rfl
@[simp] theorem State.setFlow_tbSrc (s : State) (i : Nat) (f : Flow) (k' : Nat) : (s.setFlow i f).tbSrc k' = s.tbSrc k' := rfl
@[simp] theorem State.setRequest_tbSrc (s : State) (k : Nat) (r : Request) (k' : Nat) : (s.setRequest k r).tbSrc k' = s.tbSrc k' := rfl
@[simp] theorem State.setLocal_tbSrc (s : State) (k : Nat) (v : ReqLocal) (k' : Nat) : (s.setLocal k v).tbSrc k' = s.tbSrc k' := rfl
@[simp] theorem State.linkPage_tbSrc (s : State) (p va : Nat) (k' : Nat) : (s.linkPage p va).tbSrc k' = s.tbSrc k' := rfl
@[simp] theorem State.setLeaf_tbSrc (s : State) (p va : Nat) (l : Leaf) (k' : Nat) : (s.setLeaf p va l).tbSrc k' = s.tbSrc k' := rfl

@[simp] theorem State.at_queue (s : State) (t : Nat) (q' : Nat) : (s.at t).queue q' = s.queue q' := rfl
@[simp] theorem State.emit_queue (s : State) (o : Out) (q' : Nat) : (s.emit o).queue q' = s.queue q' := rfl
@[simp] theorem State.setObj_queue (s : State) (oid inst v : Nat) (q' : Nat) : (s.setObj oid inst v).queue q' = s.queue q' := rfl
@[simp] theorem State.setBrick_queue (s : State) (b : Nat) (v : Brick) (q' : Nat) : (s.setBrick b v).queue q' = s.queue q' := rfl
@[simp] theorem State.setCounter_queue (s : State) (k : Nat) (v : ArrCounter) (q' : Nat) : (s.setCounter k v).queue q' = s.queue q' := rfl
@[simp] theorem State.setPallet_queue (s : State) (p : Nat) (v : Pallet) (q' : Nat) : (s.setPallet p v).queue q' = s.queue q' := rfl
@[simp] theorem State.setKslot_queue (s : State) (k : Nat) (v : KeySlot) (q' : Nat) : (s.setKslot k v).queue q' = s.queue q' := rfl
@[simp] theorem State.setRing_queue (s : State) (o r : Nat) (v : Ring) (q' : Nat) : (s.setRing o r v).queue q' = s.queue q' := rfl
@[simp] theorem State.setLd_queue (s : State) (o : Nat) (v : Ld) (q' : Nat) : (s.setLd o v).queue q' = s.queue q' := rfl
@[simp] theorem State.winWrite_queue (s : State) (o a : Nat) (bs : List Byte) (q' : Nat) : (s.winWrite o a bs).queue q' = s.queue q' := rfl
@[simp] theorem State.setPort_queue (s : State) (i : Nat) (v : Port) (q' : Nat) : (s.setPort i v).queue q' = s.queue q' := rfl
@[simp] theorem State.setTbSrc_queue (s : State) (k : Nat) (v : TbSrc) (q' : Nat) : (s.setTbSrc k v).queue q' = s.queue q' := rfl
@[simp] theorem State.setReg_queue (s : State) (i : Nat) (v : Reg) (q' : Nat) : (s.setReg i v).queue q' = s.queue q' := rfl
@[simp] theorem State.setFlow_queue (s : State) (i : Nat) (f : Flow) (q' : Nat) : (s.setFlow i f).queue q' = s.queue q' := rfl
@[simp] theorem State.setRequest_queue (s : State) (k : Nat) (r : Request) (q' : Nat) : (s.setRequest k r).queue q' = s.queue q' := rfl
@[simp] theorem State.setLocal_queue (s : State) (k : Nat) (v : ReqLocal) (q' : Nat) : (s.setLocal k v).queue q' = s.queue q' := rfl
@[simp] theorem State.linkPage_queue (s : State) (p va : Nat) (q' : Nat) : (s.linkPage p va).queue q' = s.queue q' := rfl
@[simp] theorem State.setLeaf_queue (s : State) (p va : Nat) (l : Leaf) (q' : Nat) : (s.setLeaf p va l).queue q' = s.queue q' := rfl

@[simp] theorem State.at_reg (s : State) (t : Nat) (i' : Nat) : (s.at t).reg i' = s.reg i' := rfl
@[simp] theorem State.emit_reg (s : State) (o : Out) (i' : Nat) : (s.emit o).reg i' = s.reg i' := rfl
@[simp] theorem State.setObj_reg (s : State) (oid inst v : Nat) (i' : Nat) : (s.setObj oid inst v).reg i' = s.reg i' := rfl
@[simp] theorem State.setBrick_reg (s : State) (b : Nat) (v : Brick) (i' : Nat) : (s.setBrick b v).reg i' = s.reg i' := rfl
@[simp] theorem State.setCounter_reg (s : State) (k : Nat) (v : ArrCounter) (i' : Nat) : (s.setCounter k v).reg i' = s.reg i' := rfl
@[simp] theorem State.setPallet_reg (s : State) (p : Nat) (v : Pallet) (i' : Nat) : (s.setPallet p v).reg i' = s.reg i' := rfl
@[simp] theorem State.setKslot_reg (s : State) (k : Nat) (v : KeySlot) (i' : Nat) : (s.setKslot k v).reg i' = s.reg i' := rfl
@[simp] theorem State.setRing_reg (s : State) (o r : Nat) (v : Ring) (i' : Nat) : (s.setRing o r v).reg i' = s.reg i' := rfl
@[simp] theorem State.setLd_reg (s : State) (o : Nat) (v : Ld) (i' : Nat) : (s.setLd o v).reg i' = s.reg i' := rfl
@[simp] theorem State.winWrite_reg (s : State) (o a : Nat) (bs : List Byte) (i' : Nat) : (s.winWrite o a bs).reg i' = s.reg i' := rfl
@[simp] theorem State.setPort_reg (s : State) (i : Nat) (v : Port) (i' : Nat) : (s.setPort i v).reg i' = s.reg i' := rfl
@[simp] theorem State.setTbSrc_reg (s : State) (k : Nat) (v : TbSrc) (i' : Nat) : (s.setTbSrc k v).reg i' = s.reg i' := rfl
@[simp] theorem State.setQueue_reg (s : State) (q : Nat) (v : Queue) (i' : Nat) : (s.setQueue q v).reg i' = s.reg i' := rfl
@[simp] theorem State.setFlow_reg (s : State) (i : Nat) (f : Flow) (i' : Nat) : (s.setFlow i f).reg i' = s.reg i' := rfl
@[simp] theorem State.setRequest_reg (s : State) (k : Nat) (r : Request) (i' : Nat) : (s.setRequest k r).reg i' = s.reg i' := rfl
@[simp] theorem State.setLocal_reg (s : State) (k : Nat) (v : ReqLocal) (i' : Nat) : (s.setLocal k v).reg i' = s.reg i' := rfl
@[simp] theorem State.linkPage_reg (s : State) (p va : Nat) (i' : Nat) : (s.linkPage p va).reg i' = s.reg i' := rfl
@[simp] theorem State.setLeaf_reg (s : State) (p va : Nat) (l : Leaf) (i' : Nat) : (s.setLeaf p va l).reg i' = s.reg i' := rfl

@[simp] theorem State.at_flow? (s : State) (t : Nat) (i' : Nat) : (s.at t).flow? i' = s.flow? i' := rfl
@[simp] theorem State.emit_flow? (s : State) (o : Out) (i' : Nat) : (s.emit o).flow? i' = s.flow? i' := rfl
@[simp] theorem State.setObj_flow? (s : State) (oid inst v : Nat) (i' : Nat) : (s.setObj oid inst v).flow? i' = s.flow? i' := rfl
@[simp] theorem State.setBrick_flow? (s : State) (b : Nat) (v : Brick) (i' : Nat) : (s.setBrick b v).flow? i' = s.flow? i' := rfl
@[simp] theorem State.setCounter_flow? (s : State) (k : Nat) (v : ArrCounter) (i' : Nat) : (s.setCounter k v).flow? i' = s.flow? i' := rfl
@[simp] theorem State.setPallet_flow? (s : State) (p : Nat) (v : Pallet) (i' : Nat) : (s.setPallet p v).flow? i' = s.flow? i' := rfl
@[simp] theorem State.setKslot_flow? (s : State) (k : Nat) (v : KeySlot) (i' : Nat) : (s.setKslot k v).flow? i' = s.flow? i' := rfl
@[simp] theorem State.setRing_flow? (s : State) (o r : Nat) (v : Ring) (i' : Nat) : (s.setRing o r v).flow? i' = s.flow? i' := rfl
@[simp] theorem State.setLd_flow? (s : State) (o : Nat) (v : Ld) (i' : Nat) : (s.setLd o v).flow? i' = s.flow? i' := rfl
@[simp] theorem State.winWrite_flow? (s : State) (o a : Nat) (bs : List Byte) (i' : Nat) : (s.winWrite o a bs).flow? i' = s.flow? i' := rfl
@[simp] theorem State.setPort_flow? (s : State) (i : Nat) (v : Port) (i' : Nat) : (s.setPort i v).flow? i' = s.flow? i' := rfl
@[simp] theorem State.setTbSrc_flow? (s : State) (k : Nat) (v : TbSrc) (i' : Nat) : (s.setTbSrc k v).flow? i' = s.flow? i' := rfl
@[simp] theorem State.setQueue_flow? (s : State) (q : Nat) (v : Queue) (i' : Nat) : (s.setQueue q v).flow? i' = s.flow? i' := rfl
@[simp] theorem State.setReg_flow? (s : State) (i : Nat) (v : Reg) (i' : Nat) : (s.setReg i v).flow? i' = s.flow? i' := rfl
@[simp] theorem State.setRequest_flow? (s : State) (k : Nat) (r : Request) (i' : Nat) : (s.setRequest k r).flow? i' = s.flow? i' := rfl
@[simp] theorem State.setLocal_flow? (s : State) (k : Nat) (v : ReqLocal) (i' : Nat) : (s.setLocal k v).flow? i' = s.flow? i' := rfl
@[simp] theorem State.linkPage_flow? (s : State) (p va : Nat) (i' : Nat) : (s.linkPage p va).flow? i' = s.flow? i' := rfl
@[simp] theorem State.setLeaf_flow? (s : State) (p va : Nat) (l : Leaf) (i' : Nat) : (s.setLeaf p va l).flow? i' = s.flow? i' := rfl

@[simp] theorem State.at_request? (s : State) (t : Nat) (k' : Nat) : (s.at t).request? k' = s.request? k' := rfl
@[simp] theorem State.emit_request? (s : State) (o : Out) (k' : Nat) : (s.emit o).request? k' = s.request? k' := rfl
@[simp] theorem State.setObj_request? (s : State) (oid inst v : Nat) (k' : Nat) : (s.setObj oid inst v).request? k' = s.request? k' := rfl
@[simp] theorem State.setBrick_request? (s : State) (b : Nat) (v : Brick) (k' : Nat) : (s.setBrick b v).request? k' = s.request? k' := rfl
@[simp] theorem State.setCounter_request? (s : State) (k : Nat) (v : ArrCounter) (k' : Nat) : (s.setCounter k v).request? k' = s.request? k' := rfl
@[simp] theorem State.setPallet_request? (s : State) (p : Nat) (v : Pallet) (k' : Nat) : (s.setPallet p v).request? k' = s.request? k' := rfl
@[simp] theorem State.setKslot_request? (s : State) (k : Nat) (v : KeySlot) (k' : Nat) : (s.setKslot k v).request? k' = s.request? k' := rfl
@[simp] theorem State.setRing_request? (s : State) (o r : Nat) (v : Ring) (k' : Nat) : (s.setRing o r v).request? k' = s.request? k' := rfl
@[simp] theorem State.setLd_request? (s : State) (o : Nat) (v : Ld) (k' : Nat) : (s.setLd o v).request? k' = s.request? k' := rfl
@[simp] theorem State.winWrite_request? (s : State) (o a : Nat) (bs : List Byte) (k' : Nat) : (s.winWrite o a bs).request? k' = s.request? k' := rfl
@[simp] theorem State.setPort_request? (s : State) (i : Nat) (v : Port) (k' : Nat) : (s.setPort i v).request? k' = s.request? k' := rfl
@[simp] theorem State.setTbSrc_request? (s : State) (k : Nat) (v : TbSrc) (k' : Nat) : (s.setTbSrc k v).request? k' = s.request? k' := rfl
@[simp] theorem State.setQueue_request? (s : State) (q : Nat) (v : Queue) (k' : Nat) : (s.setQueue q v).request? k' = s.request? k' := rfl
@[simp] theorem State.setReg_request? (s : State) (i : Nat) (v : Reg) (k' : Nat) : (s.setReg i v).request? k' = s.request? k' := rfl
@[simp] theorem State.setFlow_request? (s : State) (i : Nat) (f : Flow) (k' : Nat) : (s.setFlow i f).request? k' = s.request? k' := rfl
@[simp] theorem State.setLocal_request? (s : State) (k : Nat) (v : ReqLocal) (k' : Nat) : (s.setLocal k v).request? k' = s.request? k' := rfl
@[simp] theorem State.linkPage_request? (s : State) (p va : Nat) (k' : Nat) : (s.linkPage p va).request? k' = s.request? k' := rfl
@[simp] theorem State.setLeaf_request? (s : State) (p va : Nat) (l : Leaf) (k' : Nat) : (s.setLeaf p va l).request? k' = s.request? k' := rfl

@[simp] theorem State.at_reqLocal (s : State) (t : Nat) (k' : Nat) : (s.at t).reqLocal k' = s.reqLocal k' := rfl
@[simp] theorem State.emit_reqLocal (s : State) (o : Out) (k' : Nat) : (s.emit o).reqLocal k' = s.reqLocal k' := rfl
@[simp] theorem State.setObj_reqLocal (s : State) (oid inst v : Nat) (k' : Nat) : (s.setObj oid inst v).reqLocal k' = s.reqLocal k' := rfl
@[simp] theorem State.setBrick_reqLocal (s : State) (b : Nat) (v : Brick) (k' : Nat) : (s.setBrick b v).reqLocal k' = s.reqLocal k' := rfl
@[simp] theorem State.setCounter_reqLocal (s : State) (k : Nat) (v : ArrCounter) (k' : Nat) : (s.setCounter k v).reqLocal k' = s.reqLocal k' := rfl
@[simp] theorem State.setPallet_reqLocal (s : State) (p : Nat) (v : Pallet) (k' : Nat) : (s.setPallet p v).reqLocal k' = s.reqLocal k' := rfl
@[simp] theorem State.setKslot_reqLocal (s : State) (k : Nat) (v : KeySlot) (k' : Nat) : (s.setKslot k v).reqLocal k' = s.reqLocal k' := rfl
@[simp] theorem State.setRing_reqLocal (s : State) (o r : Nat) (v : Ring) (k' : Nat) : (s.setRing o r v).reqLocal k' = s.reqLocal k' := rfl
@[simp] theorem State.setLd_reqLocal (s : State) (o : Nat) (v : Ld) (k' : Nat) : (s.setLd o v).reqLocal k' = s.reqLocal k' := rfl
@[simp] theorem State.winWrite_reqLocal (s : State) (o a : Nat) (bs : List Byte) (k' : Nat) : (s.winWrite o a bs).reqLocal k' = s.reqLocal k' := rfl
@[simp] theorem State.setPort_reqLocal (s : State) (i : Nat) (v : Port) (k' : Nat) : (s.setPort i v).reqLocal k' = s.reqLocal k' := rfl
@[simp] theorem State.setTbSrc_reqLocal (s : State) (k : Nat) (v : TbSrc) (k' : Nat) : (s.setTbSrc k v).reqLocal k' = s.reqLocal k' := rfl
@[simp] theorem State.setQueue_reqLocal (s : State) (q : Nat) (v : Queue) (k' : Nat) : (s.setQueue q v).reqLocal k' = s.reqLocal k' := rfl
@[simp] theorem State.setReg_reqLocal (s : State) (i : Nat) (v : Reg) (k' : Nat) : (s.setReg i v).reqLocal k' = s.reqLocal k' := rfl
@[simp] theorem State.setFlow_reqLocal (s : State) (i : Nat) (f : Flow) (k' : Nat) : (s.setFlow i f).reqLocal k' = s.reqLocal k' := rfl
@[simp] theorem State.setRequest_reqLocal (s : State) (k : Nat) (r : Request) (k' : Nat) : (s.setRequest k r).reqLocal k' = s.reqLocal k' := rfl
@[simp] theorem State.linkPage_reqLocal (s : State) (p va : Nat) (k' : Nat) : (s.linkPage p va).reqLocal k' = s.reqLocal k' := rfl
@[simp] theorem State.setLeaf_reqLocal (s : State) (p va : Nat) (l : Leaf) (k' : Nat) : (s.setLeaf p va l).reqLocal k' = s.reqLocal k' := rfl

/-! ### An update and its own accessor -/

theorem State.setObj_obj (s : State) (oid i v o' i' : Nat) :
    (s.setObj oid i v).obj o' i' = if objKey o' i' = objKey oid i then v else s.obj o' i' := by
  have hd : objKey o' i' = objKey oid i → o' = oid := by unfold objKey; omega
  show NMap.get (objDefault o') (NMap.put (objDefault oid) s.dict.vals (objKey oid i) v) (objKey o' i') = _
  by_cases h : objKey o' i' = objKey oid i
  · rw [if_pos h, h, hd h]; exact NMap.get_put_self _ _ _ _
  · rw [if_neg h]; exact NMap.get_put_other _ _ _ _ h

@[simp] theorem State.setObj_obj_self (s : State) (oid i v : Nat) : (s.setObj oid i v).obj oid i = v := by simp [State.setObj_obj]

@[simp] theorem State.setObj_obj_oid (s : State) (oid i v o' i' : Nat) (h : o' ≠ oid) :
    (s.setObj oid i v).obj o' i' = s.obj o' i' := by
  rw [State.setObj_obj, if_neg (objKey_ne_of_oid h)]

theorem State.bumpBy_eq (s : State) (oid i n : Nat) : s.bumpBy oid i n = s.setObj oid i (s.obj oid i + n) := rfl

theorem State.bump_eq (s : State) (oid i : Nat) : s.bump oid i = s.setObj oid i (s.obj oid i + 1) := rfl

theorem State.setBrick_brick (s : State) (b b' : Nat) (v : Brick) : (s.setBrick b v).brick b' = if b' = b then v else s.brick b' :=
  NMap.get_put _ _ _ _ _

@[simp] theorem State.setBrick_brick_self (s : State) (b : Nat) (v : Brick) : (s.setBrick b v).brick b = v := by simp [State.setBrick_brick]

theorem State.setCounter_counter (s : State) (k k' : Nat) (v : ArrCounter) : (s.setCounter k v).counter k' = if k' = k then v else s.counter k' :=
  NMap.get_put _ _ _ _ _

@[simp] theorem State.setCounter_counter_self (s : State) (k : Nat) (v : ArrCounter) : (s.setCounter k v).counter k = v := by simp [State.setCounter_counter]

theorem State.setPallet_pallet (s : State) (p p' : Nat) (v : Pallet) : (s.setPallet p v).pallet p' = if p' = p then v else s.pallet p' :=
  NMap.get_put _ _ _ _ _

@[simp] theorem State.setPallet_pallet_self (s : State) (p : Nat) (v : Pallet) : (s.setPallet p v).pallet p = v := by simp [State.setPallet_pallet]

theorem State.setKslot_kslot (s : State) (k k' : Nat) (v : KeySlot) : (s.setKslot k v).kslot k' = if k' = k then v else s.kslot k' :=
  NMap.get_put _ _ _ _ _

@[simp] theorem State.setKslot_kslot_self (s : State) (k : Nat) (v : KeySlot) : (s.setKslot k v).kslot k = v := by simp [State.setKslot_kslot]

theorem State.setLd_ld (s : State) (o o' : Nat) (v : Ld) : (s.setLd o v).ld o' = if o' = o then v else s.ld o' :=
  NMap.get_put _ _ _ _ _

@[simp] theorem State.setLd_ld_self (s : State) (o : Nat) (v : Ld) : (s.setLd o v).ld o = v := by simp [State.setLd_ld]

theorem State.setPort_port (s : State) (i i' : Nat) (v : Port) : (s.setPort i v).port i' = if i' = i then v else s.port i' :=
  NMap.get_put _ _ _ _ _

@[simp] theorem State.setPort_port_self (s : State) (i : Nat) (v : Port) : (s.setPort i v).port i = v := by simp [State.setPort_port]

theorem State.setTbSrc_tbSrc (s : State) (k k' : Nat) (v : TbSrc) : (s.setTbSrc k v).tbSrc k' = if k' = k then v else s.tbSrc k' :=
  NMap.get_put _ _ _ _ _

@[simp] theorem State.setTbSrc_tbSrc_self (s : State) (k : Nat) (v : TbSrc) : (s.setTbSrc k v).tbSrc k = v := by simp [State.setTbSrc_tbSrc]

theorem State.setQueue_queue (s : State) (q q' : Nat) (v : Queue) : (s.setQueue q v).queue q' = if q' = q then v else s.queue q' :=
  NMap.get_put _ _ _ _ _

@[simp] theorem State.setQueue_queue_self (s : State) (q : Nat) (v : Queue) : (s.setQueue q v).queue q = v := by simp [State.setQueue_queue]

theorem State.setReg_reg (s : State) (i i' : Nat) (v : Reg) : (s.setReg i v).reg i' = if i' = i then v else s.reg i' :=
  NMap.get_put _ _ _ _ _

@[simp] theorem State.setReg_reg_self (s : State) (i : Nat) (v : Reg) : (s.setReg i v).reg i = v := by simp [State.setReg_reg]

theorem State.setRing_ring (s : State) (o r o' r' : Nat) (v : Ring) :
    (s.setRing o r v).ring o' r' = if ringKey o' r' = ringKey o r then v else s.ring o' r' :=
  NMap.get_put _ _ _ _ _

@[simp] theorem State.setRing_ring_self (s : State) (o r : Nat) (v : Ring) : (s.setRing o r v).ring o r = v := by
  simp [State.setRing_ring]

theorem ringKey_inj {o o' : Nat} {r r' : Fin 64} : ringKey o r = ringKey o' r' ↔ o = o' ∧ r = r' := by
  unfold ringKey
  constructor
  · intro h; have := r.isLt; have := r'.isLt; exact ⟨by omega, Fin.ext (by omega)⟩
  · rintro ⟨rfl, rfl⟩; rfl

theorem State.setFlow_flow? (s : State) (i i' : Nat) (f : Flow) :
    (s.setFlow i f).flow? i' = if i' = i then some f else s.flow? i' :=
  NMap.get?_ins _ _ _ _

theorem State.setRequest_request? (s : State) (k k' : Nat) (r : Request) :
    (s.setRequest k r).request? k' = if k' = k then some r else s.request? k' :=
  NMap.get?_ins _ _ _ _

theorem State.setLocal_reqLocal (s : State) (k k' : Nat) (v : ReqLocal) :
    (s.setLocal k v).reqLocal k' = if k' = k then v else s.reqLocal k' := by
  show (NMap.get? (NMap.ins s.req.locals k v) k').getD ReqLocal.zero = _
  rw [NMap.get?_ins]; split <;> rfl

/-! ### Changes through an accessor -/

theorem State.onBrick_eq (s : State) (b : Nat) (f : Brick → Brick) : s.onBrick b f = s.setBrick b (f (s.brick b)) := rfl

theorem State.onPallet_eq (s : State) (p : Nat) (f : Pallet → Pallet) : s.onPallet p f = s.setPallet p (f (s.pallet p)) := rfl

theorem State.onKslot_eq (s : State) (k : Nat) (f : KeySlot → KeySlot) : s.onKslot k f = s.setKslot k (f (s.kslot k)) := rfl

theorem State.onLd_eq (s : State) (o : Nat) (f : Ld → Ld) : s.onLd o f = s.setLd o (f (s.ld o)) := rfl

theorem State.onPort_eq (s : State) (i : Nat) (f : Port → Port) : s.onPort i f = s.setPort i (f (s.port i)) := rfl

theorem State.onQueue_eq (s : State) (q : Nat) (f : Queue → Queue) : s.onQueue q f = s.setQueue q (f (s.queue q)) := rfl

theorem State.onLocal_eq (s : State) (k : Nat) (f : ReqLocal → ReqLocal) : s.onLocal k f = s.setLocal k (f (s.reqLocal k)) := rfl

theorem State.onRing_eq (s : State) (o r : Nat) (f : Ring → Ring) : s.onRing o r f = s.setRing o r (f (s.ring o r)) := rfl

theorem State.onCore_eq (s : State) (b c : Nat) (f : Core → Core) :
    s.onCore b c f = s.setBrick b ((s.brick b).setCore c (f ((s.brick b).core c))) := rfl

theorem Brick.setCore_core (k : Brick) (c c' : Nat) (v : Core) : (k.setCore c v).core c' = if c' = c then v else k.core c' :=
  NMap.get_put _ _ _ _ _

end Sys2Proof.Machine
end

