-- ==== Sys2Proof/Laws/Ops.lean ====
section
/-! SUPPORT. What the shared operations can do, said once: the parts of the state each one may change, the answers of an object
write, what raising an event leaves, and that every operation on a memory keeps its canonical form. -/

namespace Sys2Proof.Machine

/-! ## Frames compose -/

theorem OnlyParts.refl (l : List Part) (s : State) : OnlyParts l s s := by intro p _; cases p <;> rfl

theorem Part.Same.trans {s u w : State} {p : Part} (h : Part.Same s u p) (h' : Part.Same u w p) : Part.Same s w p := by
  cases p <;> exact Eq.trans h' h

theorem OnlyParts.trans {l : List Part} {s u w : State} (h : OnlyParts l s u) (h' : OnlyParts l u w) : OnlyParts l s w :=
  fun p hp => (h p hp).trans (h' p hp)

theorem OnlyParts.mono {l l' : List Part} {s u : State} (h : OnlyParts l s u) (hl : ∀ p, p ∈ l → p ∈ l') : OnlyParts l' s u :=
  fun p hp => h p (fun hm => hp (hl p hm))

/-- A fold of operations that keep a frame keeps it. -/
theorem OnlyParts.foldl {α : Type} {l : List Part} {f : State → α → State} (h : ∀ s a, OnlyParts l s (f s a)) :
    ∀ (xs : List α) (s : State), OnlyParts l s (xs.foldl f s)
  | [], s => OnlyParts.refl l s
  | a :: xs, s => (h s a).trans (OnlyParts.foldl h xs (f s a))

/-- Two branches that keep a frame keep it together. -/
theorem OnlyParts.ite {c : Prop} [Decidable c] {l : List Part} {s u w : State} (h : OnlyParts l s u) (h' : OnlyParts l s w) :
    OnlyParts l s (if c then u else w) := by
  split
  · exact h
  · exact h'

/-! ## The setters -/

theorem at_only (s : State) (t : Nat) : OnlyParts [.now] s (s.at t) := by
  intro p hp; cases p <;> first | rfl | exact absurd (by decide) hp
theorem emit_only (s : State) (o : Out) : OnlyParts [.out] s (s.emit o) := by
  intro p hp; cases p <;> first | rfl | exact absurd (by decide) hp
theorem fresh_only (s : State) (w : Nat) : OnlyParts [.free] s (s.fresh w).2 := by
  intro p hp; cases p <;> first | rfl | exact absurd (by decide) hp
theorem newId_only (s : State) : OnlyParts [.ids] s s.newId.2 := by
  intro p hp; cases p <;> first | rfl | exact absurd (by decide) hp
theorem setObj_only (s : State) (oid inst v : Nat) : OnlyParts [.dict] s (s.setObj oid inst v) := by
  intro p hp; cases p <;> first | rfl | exact absurd (by decide) hp
theorem bumpBy_only (s : State) (oid inst n : Nat) : OnlyParts [.dict] s (s.bumpBy oid inst n) := setObj_only _ _ _ _
theorem bump_only (s : State) (oid inst : Nat) : OnlyParts [.dict] s (s.bump oid inst) := setObj_only _ _ _ _
theorem setBrick_only (s : State) (b : Nat) (v : Brick) : OnlyParts [.array] s (s.setBrick b v) := by
  intro p hp; cases p <;> first | rfl | exact absurd (by decide) hp
theorem onBrick_only (s : State) (b : Nat) (f : Brick → Brick) : OnlyParts [.array] s (s.onBrick b f) := setBrick_only _ _ _
theorem onCore_only (s : State) (b c : Nat) (f : Core → Core) : OnlyParts [.array] s (s.onCore b c f) := setBrick_only _ _ _
theorem setCounter_only (s : State) (k : Nat) (v : ArrCounter) : OnlyParts [.array] s (s.setCounter k v) := by
  intro p hp; cases p <;> first | rfl | exact absurd (by decide) hp
theorem setPallet_only (s : State) (q : Nat) (v : Pallet) : OnlyParts [.pallets] s (s.setPallet q v) := by
  intro p hp; cases p <;> first | rfl | exact absurd (by decide) hp
theorem onPallet_only (s : State) (q : Nat) (f : Pallet → Pallet) : OnlyParts [.pallets] s (s.onPallet q f) := setPallet_only _ _ _
theorem setKslot_only (s : State) (k : Nat) (v : KeySlot) : OnlyParts [.keys] s (s.setKslot k v) := by
  intro p hp; cases p <;> first | rfl | exact absurd (by decide) hp
theorem onKslot_only (s : State) (k : Nat) (f : KeySlot → KeySlot) : OnlyParts [.keys] s (s.onKslot k f) := setKslot_only _ _ _
theorem setRing_only (s : State) (o r : Nat) (v : Ring) : OnlyParts [.host] s (s.setRing o r v) := by
  intro p hp; cases p <;> first | rfl | exact absurd (by decide) hp
theorem onRing_only (s : State) (o r : Nat) (f : Ring → Ring) : OnlyParts [.host] s (s.onRing o r f) := setRing_only _ _ _ _
theorem setLd_only (s : State) (o : Nat) (v : Ld) : OnlyParts [.host] s (s.setLd o v) := by
  intro p hp; cases p <;> first | rfl | exact absurd (by decide) hp
theorem onLd_only (s : State) (o : Nat) (f : Ld → Ld) : OnlyParts [.host] s (s.onLd o f) := setLd_only _ _ _
theorem winWrite_only (s : State) (o a : Nat) (bs : List Byte) : OnlyParts [.host] s (s.winWrite o a bs) := by
  intro p hp; cases p <;> first | rfl | exact absurd (by decide) hp
theorem reply_only (s : State) (via : Via) (st : Status) (data : List Byte) : OnlyParts [.out] s (s.reply via st data) :=
  emit_only _ _
theorem notifyOne_only (s : State) (k : Nat) (payload : List Byte) : OnlyParts [.vdp, .out] s (s.notifyOne k payload) := by
  unfold State.notifyOne
  split
  · exact OnlyParts.refl _ _
  · intro p hp; cases p <;> first | rfl | exact absurd (by decide) hp

/-- Notifying sessions in turn changes the sessions and what leaves. -/
theorem notifyAll_only (payload : List Byte) (xs : List (Nat × Session)) (s : State) :
    OnlyParts [.vdp, .out] s (xs.foldl (fun u x => u.notifyOne x.1 payload) s) :=
  OnlyParts.foldl (fun u x => notifyOne_only u x.1 payload) xs s

/-- The answer of an access is the newest thing to leave. -/
@[simp] theorem reply_out (s : State) (via : Via) (st : Status) (data : List Byte) :
    (s.reply via st data).out = .answer via 0 st data.length data :: s.out := rfl

theorem reply_replied (s : State) (via : Via) (st : Status) : Replied via st (s.reply via st []) := rfl

/-! ## Object writes -/

/-- Everything an object write can do: nothing while the server is closed, a denial that counts the access, or the body's
effect with its answer. -/
theorem objWrite_cases (s : State) (via : Via) (allowed : Bool) (body : State → State × Status × List Byte) :
    (s.running = false ∧ s.objWrite via allowed body = s)
      ∨ (s.running = true ∧ allowed = false
          ∧ s.objWrite via allowed body = (s.bump Obj.BRK_DICT_WRITES 0).reply via .accessDenied [])
      ∨ (s.running = true ∧ allowed = true
          ∧ s.objWrite via allowed body = (body (s.bump Obj.BRK_DICT_WRITES 0)).1.reply via
              (body (s.bump Obj.BRK_DICT_WRITES 0)).2.1 (body (s.bump Obj.BRK_DICT_WRITES 0)).2.2) := by
  unfold State.objWrite
  cases s.running <;> cases allowed <;> simp

/-- The frame of an object write is its body's, with the counter and the answer. -/
theorem objWrite_only {l : List Part} (s : State) (via : Via) (allowed : Bool) (body : State → State × Status × List Byte)
    (hd : Part.dict ∈ l) (ho : Part.out ∈ l) (hb : ∀ u, OnlyParts l u (body u).1) :
    OnlyParts l s (s.objWrite via allowed body) := by
  have count : OnlyParts l s (s.bump Obj.BRK_DICT_WRITES 0) := (bump_only _ _ _).mono (by simpa using hd)
  have ans : ∀ (u : State) st data, OnlyParts l u (u.reply via st data) := fun u st data =>
    (reply_only _ _ _ _).mono (by simpa using ho)
  rcases objWrite_cases s via allowed body with ⟨_, h⟩ | ⟨_, _, h⟩ | ⟨_, _, h⟩ <;> rw [h]
  · exact OnlyParts.refl _ _
  · exact count.trans (ans _ _ _)
  · exact (count.trans (hb _)).trans (ans _ _ _)

/-! ## The trace -/

theorem tracePut_only (s : State) (v : Nat) : OnlyParts [.dict, .obs] s (tracePut s v) := by
  unfold tracePut
  extract_lets o u next
  have hu : OnlyParts [.dict, .obs] s u := OnlyParts.ite ((bump_only _ _ _).mono (by simp)) (OnlyParts.refl _ _)
  refine hu.trans ?_
  intro p hp; cases p <;> first | rfl | exact absurd (by decide) hp

theorem traceMarker_only (s : State) : OnlyParts [.dict, .obs] s (traceMarker s) := by
  refine (tracePut_only s (15 * 2 ^ 60 + s.now % 2 ^ 60)).trans ?_
  intro p hp; cases p <;> first | rfl | exact absurd (by decide) hp

theorem traceFire_only (s : State) : OnlyParts [.dict, .obs] s (traceFire s) := by
  intro p hp; cases p <;> first | rfl | exact absurd (by decide) hp

theorem traceExtra_only (s : State) : OnlyParts [.dict, .obs] s (traceExtra s) := by
  unfold traceExtra
  intro p hp
  simp only
  split <;> cases p <;> first | rfl | exact absurd (by decide) hp

/-- A change of the observation unit alone. -/
theorem obs_only (s : State) (o : Observe) : OnlyParts [.dict, .obs] s { s with obs := o } := by
  intro p hp; cases p <;> first | rfl | exact absurd (by decide) hp

/-- A trace sample changes only the observation unit and the counts of the trace. -/
theorem traceSample_only (s : State) (src unit payload : Nat) : OnlyParts [.dict, .obs] s (traceSample s src unit payload) := by
  unfold traceSample
  split
  · exact OnlyParts.refl _ _
  · extract_lets hit due u1 put o1 u2 n o2 u3
    have h1 : OnlyParts [.dict, .obs] s u1 := OnlyParts.ite (traceMarker_only s) (OnlyParts.refl _ _)
    have h2 : OnlyParts [.dict, .obs] s u2 := OnlyParts.ite h1 ((h1.trans (tracePut_only _ _)).trans (obs_only _ _))
    have h3 : OnlyParts [.dict, .obs] s u3 := h2.trans (obs_only _ _)
    exact OnlyParts.ite (OnlyParts.ite h2 (OnlyParts.ite (h3.trans (traceFire_only _)) h3))
      (OnlyParts.ite (h2.trans (traceExtra_only _)) h2)

/-! ## Events -/

/-- Everything raising an event can change: the log, the objects, the sessions and what leaves by them, the assertion, and the
trace. -/
theorem raise_only (s : State) (code : Nat) (detail : List (Nat × Nat)) :
    OnlyParts [.dict, .events, .out, .vdp, .boot, .obs] s (s.raise code detail) := by
  unfold State.raise
  extract_lets n e u1 u2 u3
  have h1 : OnlyParts [.dict, .events, .out, .vdp, .boot, .obs] s u1 := by
    intro p hp; cases p <;> first | rfl | exact absurd (by decide) hp
  have h2 : OnlyParts [.dict, .events, .out, .vdp, .boot, .obs] s u2 :=
    (h1.trans ((bump_only _ _ _).mono (by simp))).trans ((traceSample_only _ _ _ _).mono (by simp))
  have h3 : OnlyParts [.dict, .events, .out, .vdp, .boot, .obs] s u3 :=
    OnlyParts.ite (h2.trans ((bump_only _ _ _).mono (by simp)))
      (h2.trans ((notifyAll_only e.payload _ u2).mono (by simp)))
  refine OnlyParts.ite (h3.trans ?_) h3
  intro p hp; cases p <;> first | rfl | exact absurd (by decide) hp

/-- The event is the newest of the log, which holds the newest 128. -/
theorem raise_events (s : State) (code : Nat) (detail : List (Nat × Nat)) :
    (s.raise code detail).events =
      (({ seq := s.obj Obj.ERR_EVENT_SEQ 0 + 1, code := code, time := s.now, detail := ofBytes (pack detail) } : EventRec)
        :: s.events).take 128 := by
  unfold State.raise
  extract_lets n e u1 u2 u3
  have h1 : u1.events = (e :: s.events).take 128 := rfl
  have h2 : u2.events = (e :: s.events).take 128 :=
    Eq.trans (traceSample_only _ 7 0 code .events (by decide)) h1
  have h3 : u3.events = (e :: s.events).take 128 := by
    refine Eq.trans ?_ h2
    have : OnlyParts [.dict, .out, .vdp] u2 u3 :=
      OnlyParts.ite ((bump_only _ _ _).mono (by simp))
        ((notifyAll_only e.payload _ u2).mono (by simp))
    exact this .events (by decide)
  have : ∀ (c : Bool) (w : State), w.events = (e :: s.events).take 128 →
      (if c = true then w else u3).events = (e :: s.events).take 128 := by
    intro c w hw; cases c <;> simp [hw, h3]
  exact this _ _ h3

/-- An event has been raised, as `Raised` says. -/
theorem raise_raised (s : State) (code : Nat) (detail : List (Nat × Nat)) : Raised code s (s.raise code detail) := by
  refine ⟨{ seq := s.obj Obj.ERR_EVENT_SEQ 0 + 1, code := code, time := s.now, detail := ofBytes (pack detail) }, ?_,
    rfl, rfl, rfl⟩
  rw [raise_events]; rfl

theorem raise_events_length (s : State) (code : Nat) (detail : List (Nat × Nat)) :
    (s.raise code detail).events.length ≤ 128 := by
  rw [raise_events, List.length_take]; omega

/-! ## What the device writes to a host -/

theorem sendMsix_only (s : State) (o vector : Nat) : OnlyParts [.host, .out] s (sendMsix s o vector) := by
  unfold sendMsix
  exact OnlyParts.ite (OnlyParts.refl _ _)
    (OnlyParts.ite ((emit_only _ _).mono (by simp)) ((onLd_only _ _ _).mono (by simp)))

theorem signalEntry_only (s : State) (o r : Nat) : OnlyParts [.host, .out] s (signalEntry s o r) := by
  unfold signalEntry
  exact OnlyParts.ite (((setRing_only _ _ _ _).mono (by simp)).trans (sendMsix_only _ _ _))
    ((setRing_only _ _ _ _).mono (by simp))

theorem writeCpl_only (s : State) (o r : Nat) (e : CplEntry) : OnlyParts [.host, .out] s (writeCpl s o r e) := by
  unfold writeCpl
  exact (((winWrite_only _ _ _ _).mono (by simp)).trans ((setRing_only _ _ _ _).mono (by simp))).trans (signalEntry_only _ _ _)

/-- Posting an entry changes only the rings, the windows and the interrupts. -/
theorem postCpl_only (s : State) (o r : Nat) (e : CplEntry) : OnlyParts [.host, .out] s (postCpl s o r e) := by
  unfold postCpl
  exact OnlyParts.ite (OnlyParts.refl _ _) (OnlyParts.ite (writeCpl_only _ _ _ _) ((setRing_only _ _ _ _).mono (by simp)))

theorem releaseCpl_only : ∀ (n o r : Nat) (s : State), OnlyParts [.host, .out, .dict] s (releaseCpl n o r s)
  | 0, _, _, s => OnlyParts.refl _ s
  | n + 1, o, r, s => by
    unfold releaseCpl
    extract_lets v
    split
    · exact OnlyParts.refl _ _
    · rename_i e es _
      refine OnlyParts.ite ?_ (OnlyParts.refl _ _)
      extract_lets u
      have hu : OnlyParts [.host, .out, .dict] s u :=
        OnlyParts.ite ((bumpBy_only _ _ _ _).mono (by simp)) (OnlyParts.refl _ _)
      exact ((hu.trans ((setRing_only _ _ _ _).mono (by simp))).trans ((writeCpl_only _ _ _ _).mono (by simp))).trans
        (releaseCpl_only n o r _)

theorem postEvent_only (s : State) (o code : Nat) (st : Status) (v v2 : Nat) :
    OnlyParts [.host, .out, .dict] s (postEvent s o code st v v2) := by
  unfold postEvent
  exact OnlyParts.ite ((postCpl_only _ _ _ _).mono (by simp)) ((bump_only _ _ _).mono (by simp))

theorem ringError_only (s : State) (o r : Nat) (st : Status) : OnlyParts [.host, .out, .dict] s (ringError s o r st) := by
  unfold ringError
  extract_lets v u1 u2 u3
  have h2 : OnlyParts [.host, .out, .dict] s u2 :=
    ((setRing_only _ _ _ _).mono (by simp)).trans ((bump_only _ _ _).mono (by simp))
  have h3 : OnlyParts [.host, .out, .dict] s u3 := OnlyParts.ite (h2.trans ((onLd_only _ _ _).mono (by simp))) h2
  exact OnlyParts.ite (OnlyParts.refl _ _) (h3.trans (postEvent_only _ _ _ _ _ _))

theorem ringDrained_only (s : State) (o r : Nat) : OnlyParts [.host] s (ringDrained s o r) := by
  unfold ringDrained
  exact OnlyParts.ite (setRing_only _ _ _ _) (OnlyParts.refl _ _)

theorem entryEnded_only (s : State) (o r : Nat) : OnlyParts [.host] s (entryEnded s o r) :=
  (onRing_only _ _ _ _).trans (ringDrained_only _ _ _)

theorem completeObject_only (s : State) (via : Via) (oid inst : Nat) (st : Status) (v : Nat) :
    OnlyParts [.host, .out, .dict, .vdp] s (completeObject s via oid inst st v) := by
  unfold completeObject
  split
  · exact (notifyOne_only _ _ _).mono (by simp)
  · exact OnlyParts.refl _ _
  · exact (postEvent_only _ _ _ _ _ _).mono (by simp)

/-- Completing a command, wherever it came from, changes only the host's side, the sessions, what leaves, and counts. -/
theorem complete_only (s : State) (src : Source) (op : Nat) (st : Status) (v : Nat) :
    OnlyParts [.host, .out, .dict, .vdp] s (complete s src op st v) := by
  unfold complete
  split
  · exact ((postCpl_only _ _ _ _).mono (by simp)).trans ((entryEnded_only _ _ _).mono (by simp))
  · exact completeObject_only _ _ _ _ _ _
  · exact OnlyParts.refl _ _

/-- Passing over entries that no command reads changes only what completing them changes. -/
theorem skipBad_only : ∀ (n o r : Nat) (s : State), OnlyParts [.host, .out, .dict, .vdp] s (skipBad n o r s)
  | 0, _, _, s => OnlyParts.refl _ s
  | n + 1, o, r, s => by
    unfold skipBad
    extract_lets v a op len inline bad u
    exact OnlyParts.ite (OnlyParts.ite
      ((((setRing_only _ _ _ _).mono (by simp)).trans (complete_only _ _ _ _ _)).trans (skipBad_only n o r _))
      (OnlyParts.refl _ _)) (OnlyParts.refl _ _)

/-- The frame of a command of a CMD ring is its body's, with what taking and completing entries change. -/
theorem onEntry_only {l : List Part} (s : State) (o r : Nat) (body : State → State)
    (hl : ∀ p, p ∈ [Part.host, .out, .dict, .vdp] → p ∈ l) (hb : ∀ u, OnlyParts l u (body u)) :
    OnlyParts l s (onEntry s o r body) := by
  unfold onEntry takeEntry
  split
  · exact OnlyParts.refl _ _
  · rename_i u hu
    extract_lets v at hu
    split at hu
    · obtain rfl := Option.some.inj hu
      exact (((setRing_only _ _ _ _).mono (fun p hp => hl p (by simp at hp; subst hp; simp))).trans (hb _)).trans
        ((skipBad_only _ _ _ _).mono hl)
    · cases hu

theorem writeRecord_only (s : State) (o r : Nat) (bs : List Byte) : OnlyParts [.host, .out] s (writeRecord s o r bs) := by
  unfold writeRecord
  extract_lets len v off left u v' u' v'' u''
  have h : OnlyParts [.host, .out] s u :=
    OnlyParts.ite (((winWrite_only _ _ _ _).mono (by simp)).trans ((setRing_only _ _ _ _).mono (by simp))) (OnlyParts.refl _ _)
  have h' : OnlyParts [.host, .out] s u' := h.trans ((winWrite_only _ _ _ _).mono (by simp))
  have h'' : OnlyParts [.host, .out] s u'' := h'.trans ((winWrite_only _ _ _ _).mono (by simp))
  exact (h''.trans ((setRing_only _ _ _ _).mono (by simp))).trans (signalEntry_only _ _ _)

/-- Posting a result record changes only the rings, the windows and the interrupts. -/
theorem postRecord_only (s : State) (o r p : Nat) (bs : List Byte) : OnlyParts [.host, .out] s (postRecord s o r p bs) := by
  unfold postRecord
  exact OnlyParts.ite (OnlyParts.refl _ _) (OnlyParts.ite (writeRecord_only _ _ _ _) ((setRing_only _ _ _ _).mono (by simp)))

/-- The end of a session changes the sessions and the subscriptions. -/
theorem closeSession_only (s : State) (k : Nat) : OnlyParts [.vdp, .dict] s (closeSession s k) := by
  unfold closeSession
  extract_lets x u
  have hu : OnlyParts [.vdp, .dict] s u := by
    intro p hp; cases p <;> first | rfl | exact absurd (by decide) hp
  refine hu.trans (OnlyParts.foldl (fun w (i : Nat) => ?_) _ _)
  exact OnlyParts.ite ((setObj_only _ _ _ _).mono (by simp)) (OnlyParts.refl _ _)

theorem sendClose_only (s : State) (k : Nat) : OnlyParts [.vdp, .dict, .out] s (sendClose s k) := by
  unfold sendClose
  split
  · exact OnlyParts.refl _ _
  · exact ((emit_only _ _).mono (by simp)).trans ((closeSession_only _ _).mono (by simp))

/-! ## The memories keep their form -/

/-- Storing in a window keeps the memories' form. -/
theorem winWrite_memWf {s : State} (h : s.memWf) (o a : Nat) (bs : List Byte) : (s.winWrite o a bs).memWf :=
  ⟨h.1, memWrite_wf _ _ h.2.1, h.2.2⟩

/-- An operation that changes neither the windows nor HBM keeps the memories' form. -/
theorem memWf_of_only {l : List Part} {s u : State} (h : OnlyParts l s u) (hm : Part.mem ∉ l) (hh : Part.host ∉ l)
    (hs : s.memWf) : u.memWf := by
  have h1 : u.mem = s.mem := h .mem hm
  have h2 : u.host = s.host := h .host hh
  unfold State.memWf
  rw [h1, h2]
  exact hs

/-- Raising an event keeps the invariant of every run. -/
theorem raise_inv {s : State} (h : s.Inv) (code : Nat) (detail : List (Nat × Nat)) : (s.raise code detail).Inv :=
  ⟨memWf_of_only (raise_only s code detail) (by decide) (by decide) h.1, raise_events_length s code detail⟩

end Sys2Proof.Machine
end

