-- ==== Sys2Proof/Laws/Memory.lean ====
section
/-! SUPPORT. The operations on whole pages are the byte operations done in one pass, and every store to paged memory keeps the
canonical form of the memories. -/

namespace Sys2Proof.NMap

variable {β : Type}

/-- Below the first key, a table reads as the default. -/
theorem get_above (d : β) {m : NMap β} {k : Nat} (h : above k m) : ∀ x, x ≤ k → get d m x = d := by
  induction m with
  | nil => intros; rfl
  | cons e m ih =>
    intro x hx
    have he := h e (by simp)
    have : e.1 ≠ x := by omega
    simp only [get, this, if_false]
    exact ih (fun e' h' => h e' (by simp [h'])) x hx

/-- Two tables in canonical form that read the same are equal. -/
theorem wf_ext [DecidableEq β] {d : β} : ∀ {m n : NMap β}, wf d m = true → wf d n = true →
    (∀ x, get d m x = get d n x) → m = n
  | [], [], _, _, _ => rfl
  | [], (k, v) :: n, _, hn, h => by
    have := h k; simp [get] at this; exact absurd this.symm ((wf_cons d k v n).1 hn).1
  | (k, v) :: m, [], hm, _, h => by
    have := h k; simp [get] at this; exact absurd this ((wf_cons d k v m).1 hm).1
  | (k, v) :: m, (k', v') :: n, hm, hn, h => by
    obtain ⟨hv, ha, hm'⟩ := (wf_cons d k v m).1 hm
    obtain ⟨hv', ha', hn'⟩ := (wf_cons d k' v' n).1 hn
    have hk : k = k' := by
      rcases Nat.lt_trichotomy k k' with hlt | heq | hgt
      · have h1 := h k
        have h2 : k' ≠ k := by omega
        rw [get, if_pos rfl, get, if_neg h2, get_above d ha' k (by omega)] at h1
        exact absurd h1 hv
      · exact heq
      · have h1 := h k'
        have h2 : k ≠ k' := by omega
        rw [get, if_neg h2, get_above d ha k' (by omega), get, if_pos rfl] at h1
        exact absurd h1.symm hv'
    subst hk
    have hvv : v = v' := by have := h k; simpa [get] using this
    subst hvv
    have : m = n := wf_ext hm' hn' (fun x => by
      by_cases hx : x ≤ k
      · rw [get_above d ha x hx, get_above d ha' x hx]
      · have := h x
        have h2 : k ≠ x := by omega
        simpa [get, h2] using this)
    rw [this]

/-- A key that the filter passes reads the same after it; another reads as the default. -/
theorem get_filter_key (d : β) (m : NMap β) (p : Nat → Bool) (x : Nat) :
    get d (m.filter (fun e => p e.1)) x = if p x then get d m x else d := by
  induction m with
  | nil => simp [get]
  | cons e m ih =>
    obtain ⟨k, v⟩ := e
    simp only [List.filter_cons]
    by_cases hk : k = x
    · subst hk
      by_cases hp : p k = true
      · simp [hp, get]
      · simp only [hp, Bool.false_eq_true, if_false] at ih ⊢
        simpa [hp] using ih
    · by_cases hp : p k = true
      · simp only [hp, if_true, get, hk, if_false]; exact ih
      · simp only [hp, Bool.false_eq_true, if_false, get, hk]; exact ih

/-- Reading a joined table: the first part decides where it lists the key. -/
theorem get_append (d : β) (m n : NMap β) (x : Nat) :
    get d (m ++ n) x = if (∃ e ∈ m, e.1 = x) then get d m x else get d n x := by
  induction m with
  | nil => simp
  | cons e m ih =>
    obtain ⟨k, v⟩ := e
    by_cases hk : k = x
    · simp [get, hk]
    · simp only [List.cons_append, get, hk, if_false, ih, List.mem_cons, exists_eq_or_imp, false_or]

end Sys2Proof.NMap

namespace Sys2Proof.Machine

open Sys2Proof

/-! ## Whole pages -/

/-- The entries that storing bytes lists. -/
def stored (a : Nat) (bs : List Byte) : Mem := (bs.zipIdx.map (fun e => (a + e.2, e.1))).filter (fun e => e.2 ≠ 0)

theorem stored_cons (a : Nat) (b : Byte) (bs : List Byte) :
    stored a (b :: bs) = if b ≠ 0 then (a, b) :: stored (a + 1) bs else stored (a + 1) bs := by
  have e : (bs.zipIdx 1).map (fun e => (a + e.2, e.1)) = bs.zipIdx.map (fun e => (a + 1 + e.2, e.1)) := by
    rw [List.zipIdx_succ, List.map_map]
    apply List.map_congr_left
    intro e _
    simp only [Function.comp, Prod.mk.injEq, and_true]
    omega
  unfold stored
  rw [List.zipIdx_cons, List.map_cons, e, List.filter_cons]
  by_cases hb : b = 0 <;> simp [hb]

theorem stored_bounds : ∀ (a : Nat) (bs : List Byte) (e : Nat × Byte), e ∈ stored a bs → a ≤ e.1 ∧ e.1 < a + bs.length
  | _, [], e, h => by simp [stored] at h
  | a, b :: bs, e, h => by
    rw [stored_cons] at h
    have key : e ∈ stored (a + 1) bs → a ≤ e.1 ∧ e.1 < a + (b :: bs).length := fun h => by
      have := stored_bounds (a + 1) bs e h
      simp only [List.length_cons]; omega
    split at h
    · rcases List.mem_cons.1 h with rfl | h
      · simp
      · exact key h
    · exact key h

theorem stored_wf : ∀ (a : Nat) (bs : List Byte), NMap.wf 0 (stored a bs) = true
  | _, [] => rfl
  | a, b :: bs => by
    rw [stored_cons]
    split
    · next hb =>
      exact (NMap.wf_cons _ _ _ _).2 ⟨hb, fun e he => by have := stored_bounds (a + 1) bs e he; omega, stored_wf (a + 1) bs⟩
    · exact stored_wf (a + 1) bs

theorem stored_get : ∀ (a : Nat) (bs : List Byte) (x : Nat),
    NMap.get 0 (stored a bs) x = if a ≤ x ∧ x < a + bs.length then bs.getD (x - a) 0 else 0
  | _, [], _ => by simp [stored, NMap.get]
  | a, b :: bs, x => by
    rw [stored_cons]
    have ih := stored_get (a + 1) bs x
    by_cases hx : x = a
    · subst hx
      have h0 : NMap.get 0 (stored (x + 1) bs) x = 0 := by rw [ih, if_neg (by omega)]
      have hr : x ≤ x ∧ x < x + (b :: bs).length := by simp only [List.length_cons]; omega
      by_cases hb : b = 0
      · rw [if_neg (fun h => h hb), h0, if_pos hr, hb]; simp
      · rw [if_pos hb, NMap.get, if_pos rfl, if_pos hr]; simp
    · have h2 : a ≠ x := fun h => hx h.symm
      have h3 : NMap.get 0 (if b ≠ 0 then (a, b) :: stored (a + 1) bs else stored (a + 1) bs) x
          = NMap.get 0 (stored (a + 1) bs) x := by
        split
        · simp [NMap.get, h2]
        · rfl
      rw [h3, ih]
      by_cases h : a + 1 ≤ x ∧ x < a + 1 + bs.length
      · obtain ⟨n, rfl⟩ : ∃ n, x = a + 1 + n := ⟨x - (a + 1), by omega⟩
        have e1 : a + 1 + n - (a + 1) = n := by omega
        have e2 : a + 1 + n - a = n + 1 := by omega
        rw [if_pos h, if_pos (by simp only [List.length_cons]; omega), e1, e2]
        simp
      · rw [if_neg h, if_neg (by simp only [List.length_cons]; omega)]

theorem memSplice_parts (m : Mem) (a : Nat) (bs : List Byte) :
    memSplice m a bs = m.filter (fun e => decide (e.1 < a)) ++ stored a bs
      ++ m.filter (fun e => decide (a + bs.length ≤ e.1)) := rfl

/-- Replacing a range keeps the canonical form of a memory. -/
theorem memSplice_wf {m : Mem} (a : Nat) (bs : List Byte) (h : NMap.wf 0 m = true) : NMap.wf 0 (memSplice m a bs) = true := by
  rw [memSplice_parts]
  have lo : ∀ e ∈ m.filter (fun e => decide (e.1 < a)), e.1 < a := fun e he => by simpa using (List.mem_filter.1 he).2
  have hi : ∀ e ∈ m.filter (fun e => decide (a + bs.length ≤ e.1)), a + bs.length ≤ e.1 :=
    fun e he => by simpa using (List.mem_filter.1 he).2
  refine NMap.wf_append (NMap.wf_append (NMap.wf_filter _ h) (stored_wf a bs) ?_) (NMap.wf_filter _ h) ?_
  · intro e he e' he'
    have := lo e he; have := stored_bounds a bs e' he'; omega
  · intro e he e' he'
    have h' := hi e' he'
    rcases List.mem_append.1 he with he | he
    · have := lo e he; omega
    · have := stored_bounds a bs e he; omega

/-- A byte after replacing a range: the byte stored there, or the one before. -/
theorem memSplice_get (m : Mem) (a : Nat) (bs : List Byte) (x : Nat) :
    NMap.get 0 (memSplice m a bs) x = if a ≤ x ∧ x < a + bs.length then bs.getD (x - a) 0 else NMap.get 0 m x := by
  rw [memSplice_parts]
  have outside : ∀ (n : Mem), ¬ (∃ e ∈ n, e.1 = x) → NMap.get 0 n x = 0 := by
    intro n hn
    induction n with
    | nil => rfl
    | cons e n ih =>
      simp only [List.mem_cons, exists_eq_or_imp, not_or] at hn
      rw [NMap.get, if_neg hn.1]; exact ih hn.2
  rw [NMap.get_append, NMap.get_append, NMap.get_filter_key 0 m (fun k => decide (k < a)),
    NMap.get_filter_key 0 m (fun k => decide (a + bs.length ≤ k))]
  by_cases hin : a ≤ x ∧ x < a + bs.length
  · have h1 : ¬ (∃ e ∈ m.filter (fun e => decide (e.1 < a)), e.1 = x) := by
      rintro ⟨e, he, rfl⟩
      have : e.1 < a := by simpa using (List.mem_filter.1 he).2
      omega
    have h2 : ¬ (a + bs.length ≤ x) := by omega
    simp only [h1, h2, decide_false, Bool.false_eq_true, if_false, hin, if_true, and_self, stored_get]
    split
    · rfl
    · next hn =>
      have : NMap.get 0 (stored a bs) x = 0 := outside _ (fun ⟨e, he, hx⟩ => hn ⟨e, by simp [he], hx⟩)
      rw [stored_get, if_pos hin] at this
      exact this.symm
  · rw [if_neg hin]
    have h2 : ¬ (∃ e ∈ stored a bs, e.1 = x) := by
      rintro ⟨e, he, rfl⟩
      exact hin (stored_bounds a bs e he)
    have h3 : NMap.get 0 (stored a bs) x = 0 := outside _ h2
    by_cases hx : x < a
    · have h4 : ¬ (a + bs.length ≤ x) := by omega
      simp only [hx, h4, decide_true, decide_false, Bool.false_eq_true, if_true, if_false, h3]
      split
      · split
        · rfl
        · next hn => exact (outside _ (fun ⟨e, he, hex⟩ =>
            hn ⟨e, List.mem_filter.2 ⟨he, by simpa [hex] using hx⟩, hex⟩)).symm
      · next hn => exact (outside _ (fun ⟨e, he, hex⟩ =>
          hn ⟨e, List.mem_append_left _ (List.mem_filter.2 ⟨he, by simpa [hex] using hx⟩), hex⟩)).symm
    · have h4 : a + bs.length ≤ x := by omega
      have h5 : ¬ (∃ e ∈ m.filter (fun e => decide (e.1 < a)) ++ stored a bs, e.1 = x) := by
        rintro ⟨e, he, rfl⟩
        rcases List.mem_append.1 he with he | he
        · have : e.1 < a := by simpa using (List.mem_filter.1 he).2
          omega
        · exact h2 ⟨e, he, rfl⟩
      rw [if_neg h5]
      simp [h4]

/-- On a memory in canonical form, replacing a range is storing its bytes one by one. -/
theorem memSplice_eq_memWrite {m : Mem} (a : Nat) (bs : List Byte) (h : NMap.wf 0 m = true) :
    memSplice m a bs = memWrite m a bs :=
  NMap.wf_ext (memSplice_wf a bs h) (memWrite_wf a bs h) (fun x => by rw [memSplice_get, memWrite_get])

/-! ## Stores to paged memory -/

/-- Storing a byte at a device virtual address keeps the memories' form. -/
theorem vPut_memWf {s : State} (h : s.memWf) (p a : Nat) (b : Byte) : (s.vPut p a b).memWf := by
  unfold State.vPut
  split
  · exact h
  · split
    · exact ⟨NMap.wf_put _ _ h.1, h.2⟩
    · exact ⟨h.1, h.2.1, NMap.wf_put _ _ h.2.2⟩
    · exact h

/-- Storing bytes at a device virtual address keeps the memories' form. -/
theorem vWrite_memWf : ∀ (bs : List Byte) {s : State} (_ : s.memWf) (p a : Nat), (s.vWrite p a bs).memWf
  | [], _, h, _, _ => h
  | b :: bs, _, h, p, a => vWrite_memWf bs (vPut_memWf h p a b) p (a + 1)

/-- Storing bytes in one page keeps the memories' form. -/
theorem pageWrite_memWf {s : State} (h : s.memWf) (p va : Nat) (bs : List Byte) : (s.pageWrite p va bs).memWf := by
  unfold State.pageWrite
  split
  · exact h
  · split
    · exact ⟨memSplice_wf _ _ h.1, h.2⟩
    · exact ⟨h.1, h.2.1, memSplice_wf _ _ h.2.2⟩
    · exact h

/-- Freeing a frame erases its bytes and keeps the memories' form. -/
theorem freeFrame_memWf {s : State} (h : s.memWf) (f : Nat) : (s.freeFrame f).memWf := ⟨memClear_wf _ _ h.1, h.2⟩

/-- Removing a leaf keeps the memories' form. -/
theorem unmapKey_memWf {s : State} (h : s.memWf) (k : Nat) : (s.unmapKey k).memWf := by
  unfold State.unmapKey
  split
  · exact h
  · extract_lets m u
    have hu : u.memWf := h
    split
    · exact freeFrame_memWf hu _
    · exact hu

end Sys2Proof.Machine
end

