-- ==== Sys2Proof/Laws/Parts.lean ====
section
/-! SUPPORT. What each update of one record does to each part of the state, for the updates of receiver flows, home registers,
stored shards, arriving moves, sessions, rack slots, the start-up stage, shapers and descriptors; a flush; a number and a free
value drawn. One lemma each, true by unfolding. -/

namespace Sys2Proof.Machine

/-! ### setRx -/

@[simp] theorem State.setRx_pending (s : State) (key : Nat) (r : RxFlow) : (s.setRx key r).pending = s.pending := rfl
@[simp] theorem State.setRx_now (s : State) (key : Nat) (r : RxFlow) : (s.setRx key r).now = s.now := rfl
@[simp] theorem State.setRx_free (s : State) (key : Nat) (r : RxFlow) : (s.setRx key r).free = s.free := rfl
@[simp] theorem State.setRx_ids (s : State) (key : Nat) (r : RxFlow) : (s.setRx key r).ids = s.ids := rfl
@[simp] theorem State.setRx_out (s : State) (key : Nat) (r : RxFlow) : (s.setRx key r).out = s.out := rfl
@[simp] theorem State.setRx_dict (s : State) (key : Nat) (r : RxFlow) : (s.setRx key r).dict = s.dict := rfl
@[simp] theorem State.setRx_events (s : State) (key : Nat) (r : RxFlow) : (s.setRx key r).events = s.events := rfl
@[simp] theorem State.setRx_boot (s : State) (key : Nat) (r : RxFlow) : (s.setRx key r).boot = s.boot := rfl
@[simp] theorem State.setRx_kiln (s : State) (key : Nat) (r : RxFlow) : (s.setRx key r).kiln = s.kiln := rfl
@[simp] theorem State.setRx_keys (s : State) (key : Nat) (r : RxFlow) : (s.setRx key r).keys = s.keys := rfl
@[simp] theorem State.setRx_vdp (s : State) (key : Nat) (r : RxFlow) : (s.setRx key r).vdp = s.vdp := rfl
@[simp] theorem State.setRx_host (s : State) (key : Nat) (r : RxFlow) : (s.setRx key r).host = s.host := rfl
@[simp] theorem State.setRx_array (s : State) (key : Nat) (r : RxFlow) : (s.setRx key r).array = s.array := rfl
@[simp] theorem State.setRx_pallets (s : State) (key : Nat) (r : RxFlow) : (s.setRx key r).pallets = s.pallets := rfl
@[simp] theorem State.setRx_req (s : State) (key : Nat) (r : RxFlow) : (s.setRx key r).req = s.req := rfl
@[simp] theorem State.setRx_mem (s : State) (key : Nat) (r : RxFlow) : (s.setRx key r).mem = s.mem := rfl
@[simp] theorem State.setRx_ports (s : State) (key : Nat) (r : RxFlow) : (s.setRx key r).ports = s.ports := rfl
@[simp] theorem State.setRx_tb (s : State) (key : Nat) (r : RxFlow) : (s.setRx key r).tb = s.tb := rfl
@[simp] theorem State.setRx_trn (s : State) (key : Nat) (r : RxFlow) : (s.setRx key r).trn = { s.trn with rx := NMap.ins s.trn.rx key r } := rfl
@[simp] theorem State.setRx_rmf (s : State) (key : Nat) (r : RxFlow) : (s.setRx key r).rmf = s.rmf := rfl
@[simp] theorem State.setRx_asc (s : State) (key : Nat) (r : RxFlow) : (s.setRx key r).asc = s.asc := rfl
@[simp] theorem State.setRx_obs (s : State) (key : Nat) (r : RxFlow) : (s.setRx key r).obs = s.obs := rfl

/-! ### setHome -/

@[simp] theorem State.setHome_pending (s : State) (rid : Nat) (h : HomeReg) : (s.setHome rid h).pending = s.pending := rfl
@[simp] theorem State.setHome_now (s : State) (rid : Nat) (h : HomeReg) : (s.setHome rid h).now = s.now := rfl
@[simp] theorem State.setHome_free (s : State) (rid : Nat) (h : HomeReg) : (s.setHome rid h).free = s.free := rfl
@[simp] theorem State.setHome_ids (s : State) (rid : Nat) (h : HomeReg) : (s.setHome rid h).ids = s.ids := rfl
@[simp] theorem State.setHome_out (s : State) (rid : Nat) (h : HomeReg) : (s.setHome rid h).out = s.out := rfl
@[simp] theorem State.setHome_dict (s : State) (rid : Nat) (h : HomeReg) : (s.setHome rid h).dict = s.dict := rfl
@[simp] theorem State.setHome_events (s : State) (rid : Nat) (h : HomeReg) : (s.setHome rid h).events = s.events := rfl
@[simp] theorem State.setHome_boot (s : State) (rid : Nat) (h : HomeReg) : (s.setHome rid h).boot = s.boot := rfl
@[simp] theorem State.setHome_kiln (s : State) (rid : Nat) (h : HomeReg) : (s.setHome rid h).kiln = s.kiln := rfl
@[simp] theorem State.setHome_keys (s : State) (rid : Nat) (h : HomeReg) : (s.setHome rid h).keys = s.keys := rfl
@[simp] theorem State.setHome_vdp (s : State) (rid : Nat) (h : HomeReg) : (s.setHome rid h).vdp = s.vdp := rfl
@[simp] theorem State.setHome_host (s : State) (rid : Nat) (h : HomeReg) : (s.setHome rid h).host = s.host := rfl
@[simp] theorem State.setHome_array (s : State) (rid : Nat) (h : HomeReg) : (s.setHome rid h).array = s.array := rfl
@[simp] theorem State.setHome_pallets (s : State) (rid : Nat) (h : HomeReg) : (s.setHome rid h).pallets = s.pallets := rfl
@[simp] theorem State.setHome_req (s : State) (rid : Nat) (h : HomeReg) : (s.setHome rid h).req = { s.req with homes := NMap.ins s.req.homes rid h } := rfl
@[simp] theorem State.setHome_mem (s : State) (rid : Nat) (h : HomeReg) : (s.setHome rid h).mem = s.mem := rfl
@[simp] theorem State.setHome_ports (s : State) (rid : Nat) (h : HomeReg) : (s.setHome rid h).ports = s.ports := rfl
@[simp] theorem State.setHome_tb (s : State) (rid : Nat) (h : HomeReg) : (s.setHome rid h).tb = s.tb := rfl
@[simp] theorem State.setHome_trn (s : State) (rid : Nat) (h : HomeReg) : (s.setHome rid h).trn = s.trn := rfl
@[simp] theorem State.setHome_rmf (s : State) (rid : Nat) (h : HomeReg) : (s.setHome rid h).rmf = s.rmf := rfl
@[simp] theorem State.setHome_asc (s : State) (rid : Nat) (h : HomeReg) : (s.setHome rid h).asc = s.asc := rfl
@[simp] theorem State.setHome_obs (s : State) (rid : Nat) (h : HomeReg) : (s.setHome rid h).obs = s.obs := rfl

/-! ### setShard -/

@[simp] theorem State.setShard_pending (s : State) (rid : Nat) (k : CopyShard) : (s.setShard rid k).pending = s.pending := rfl
@[simp] theorem State.setShard_now (s : State) (rid : Nat) (k : CopyShard) : (s.setShard rid k).now = s.now := rfl
@[simp] theorem State.setShard_free (s : State) (rid : Nat) (k : CopyShard) : (s.setShard rid k).free = s.free := rfl
@[simp] theorem State.setShard_ids (s : State) (rid : Nat) (k : CopyShard) : (s.setShard rid k).ids = s.ids := rfl
@[simp] theorem State.setShard_out (s : State) (rid : Nat) (k : CopyShard) : (s.setShard rid k).out = s.out := rfl
@[simp] theorem State.setShard_dict (s : State) (rid : Nat) (k : CopyShard) : (s.setShard rid k).dict = s.dict := rfl
@[simp] theorem State.setShard_events (s : State) (rid : Nat) (k : CopyShard) : (s.setShard rid k).events = s.events := rfl
@[simp] theorem State.setShard_boot (s : State) (rid : Nat) (k : CopyShard) : (s.setShard rid k).boot = s.boot := rfl
@[simp] theorem State.setShard_kiln (s : State) (rid : Nat) (k : CopyShard) : (s.setShard rid k).kiln = s.kiln := rfl
@[simp] theorem State.setShard_keys (s : State) (rid : Nat) (k : CopyShard) : (s.setShard rid k).keys = s.keys := rfl
@[simp] theorem State.setShard_vdp (s : State) (rid : Nat) (k : CopyShard) : (s.setShard rid k).vdp = s.vdp := rfl
@[simp] theorem State.setShard_host (s : State) (rid : Nat) (k : CopyShard) : (s.setShard rid k).host = s.host := rfl
@[simp] theorem State.setShard_array (s : State) (rid : Nat) (k : CopyShard) : (s.setShard rid k).array = s.array := rfl
@[simp] theorem State.setShard_pallets (s : State) (rid : Nat) (k : CopyShard) : (s.setShard rid k).pallets = s.pallets := rfl
@[simp] theorem State.setShard_req (s : State) (rid : Nat) (k : CopyShard) : (s.setShard rid k).req = { s.req with shards := NMap.ins s.req.shards rid k } := rfl
@[simp] theorem State.setShard_mem (s : State) (rid : Nat) (k : CopyShard) : (s.setShard rid k).mem = s.mem := rfl
@[simp] theorem State.setShard_ports (s : State) (rid : Nat) (k : CopyShard) : (s.setShard rid k).ports = s.ports := rfl
@[simp] theorem State.setShard_tb (s : State) (rid : Nat) (k : CopyShard) : (s.setShard rid k).tb = s.tb := rfl
@[simp] theorem State.setShard_trn (s : State) (rid : Nat) (k : CopyShard) : (s.setShard rid k).trn = s.trn := rfl
@[simp] theorem State.setShard_rmf (s : State) (rid : Nat) (k : CopyShard) : (s.setShard rid k).rmf = s.rmf := rfl
@[simp] theorem State.setShard_asc (s : State) (rid : Nat) (k : CopyShard) : (s.setShard rid k).asc = s.asc := rfl
@[simp] theorem State.setShard_obs (s : State) (rid : Nat) (k : CopyShard) : (s.setShard rid k).obs = s.obs := rfl

/-! ### addMoveIn -/

@[simp] theorem addMoveIn_pending (s : State) (m : MoveIn) : (addMoveIn s m).pending = s.pending := rfl
@[simp] theorem addMoveIn_now (s : State) (m : MoveIn) : (addMoveIn s m).now = s.now := rfl
@[simp] theorem addMoveIn_free (s : State) (m : MoveIn) : (addMoveIn s m).free = s.free := rfl
@[simp] theorem addMoveIn_ids (s : State) (m : MoveIn) : (addMoveIn s m).ids = s.ids := rfl
@[simp] theorem addMoveIn_out (s : State) (m : MoveIn) : (addMoveIn s m).out = s.out := rfl
@[simp] theorem addMoveIn_dict (s : State) (m : MoveIn) : (addMoveIn s m).dict = s.dict := rfl
@[simp] theorem addMoveIn_events (s : State) (m : MoveIn) : (addMoveIn s m).events = s.events := rfl
@[simp] theorem addMoveIn_boot (s : State) (m : MoveIn) : (addMoveIn s m).boot = s.boot := rfl
@[simp] theorem addMoveIn_kiln (s : State) (m : MoveIn) : (addMoveIn s m).kiln = s.kiln := rfl
@[simp] theorem addMoveIn_keys (s : State) (m : MoveIn) : (addMoveIn s m).keys = s.keys := rfl
@[simp] theorem addMoveIn_vdp (s : State) (m : MoveIn) : (addMoveIn s m).vdp = s.vdp := rfl
@[simp] theorem addMoveIn_host (s : State) (m : MoveIn) : (addMoveIn s m).host = s.host := rfl
@[simp] theorem addMoveIn_array (s : State) (m : MoveIn) : (addMoveIn s m).array = s.array := rfl
@[simp] theorem addMoveIn_pallets (s : State) (m : MoveIn) : (addMoveIn s m).pallets = s.pallets := rfl
@[simp] theorem addMoveIn_req (s : State) (m : MoveIn) : (addMoveIn s m).req = { s.req with into := s.req.into ++ [m] } := rfl
@[simp] theorem addMoveIn_mem (s : State) (m : MoveIn) : (addMoveIn s m).mem = s.mem := rfl
@[simp] theorem addMoveIn_ports (s : State) (m : MoveIn) : (addMoveIn s m).ports = s.ports := rfl
@[simp] theorem addMoveIn_tb (s : State) (m : MoveIn) : (addMoveIn s m).tb = s.tb := rfl
@[simp] theorem addMoveIn_trn (s : State) (m : MoveIn) : (addMoveIn s m).trn = s.trn := rfl
@[simp] theorem addMoveIn_rmf (s : State) (m : MoveIn) : (addMoveIn s m).rmf = s.rmf := rfl
@[simp] theorem addMoveIn_asc (s : State) (m : MoveIn) : (addMoveIn s m).asc = s.asc := rfl
@[simp] theorem addMoveIn_obs (s : State) (m : MoveIn) : (addMoveIn s m).obs = s.obs := rfl

/-! ### setSession -/

@[simp] theorem State.setSession_pending (s : State) (k : Nat) (v : Session) : (s.setSession k v).pending = s.pending := rfl
@[simp] theorem State.setSession_now (s : State) (k : Nat) (v : Session) : (s.setSession k v).now = s.now := rfl
@[simp] theorem State.setSession_free (s : State) (k : Nat) (v : Session) : (s.setSession k v).free = s.free := rfl
@[simp] theorem State.setSession_ids (s : State) (k : Nat) (v : Session) : (s.setSession k v).ids = s.ids := rfl
@[simp] theorem State.setSession_out (s : State) (k : Nat) (v : Session) : (s.setSession k v).out = s.out := rfl
@[simp] theorem State.setSession_dict (s : State) (k : Nat) (v : Session) : (s.setSession k v).dict = s.dict := rfl
@[simp] theorem State.setSession_events (s : State) (k : Nat) (v : Session) : (s.setSession k v).events = s.events := rfl
@[simp] theorem State.setSession_boot (s : State) (k : Nat) (v : Session) : (s.setSession k v).boot = s.boot := rfl
@[simp] theorem State.setSession_kiln (s : State) (k : Nat) (v : Session) : (s.setSession k v).kiln = s.kiln := rfl
@[simp] theorem State.setSession_keys (s : State) (k : Nat) (v : Session) : (s.setSession k v).keys = s.keys := rfl
@[simp] theorem State.setSession_vdp (s : State) (k : Nat) (v : Session) : (s.setSession k v).vdp = { s.vdp with sessions := NMap.ins s.vdp.sessions k v } := rfl
@[simp] theorem State.setSession_host (s : State) (k : Nat) (v : Session) : (s.setSession k v).host = s.host := rfl
@[simp] theorem State.setSession_array (s : State) (k : Nat) (v : Session) : (s.setSession k v).array = s.array := rfl
@[simp] theorem State.setSession_pallets (s : State) (k : Nat) (v : Session) : (s.setSession k v).pallets = s.pallets := rfl
@[simp] theorem State.setSession_req (s : State) (k : Nat) (v : Session) : (s.setSession k v).req = s.req := rfl
@[simp] theorem State.setSession_mem (s : State) (k : Nat) (v : Session) : (s.setSession k v).mem = s.mem := rfl
@[simp] theorem State.setSession_ports (s : State) (k : Nat) (v : Session) : (s.setSession k v).ports = s.ports := rfl
@[simp] theorem State.setSession_tb (s : State) (k : Nat) (v : Session) : (s.setSession k v).tb = s.tb := rfl
@[simp] theorem State.setSession_trn (s : State) (k : Nat) (v : Session) : (s.setSession k v).trn = s.trn := rfl
@[simp] theorem State.setSession_rmf (s : State) (k : Nat) (v : Session) : (s.setSession k v).rmf = s.rmf := rfl
@[simp] theorem State.setSession_asc (s : State) (k : Nat) (v : Session) : (s.setSession k v).asc = s.asc := rfl
@[simp] theorem State.setSession_obs (s : State) (k : Nat) (v : Session) : (s.setSession k v).obs = s.obs := rfl

/-! ### setRackSlot -/

@[simp] theorem State.setRackSlot_pending (s : State) (b n : Nat) (r : RackSlot) : (s.setRackSlot b n r).pending = s.pending := rfl
@[simp] theorem State.setRackSlot_now (s : State) (b n : Nat) (r : RackSlot) : (s.setRackSlot b n r).now = s.now := rfl
@[simp] theorem State.setRackSlot_free (s : State) (b n : Nat) (r : RackSlot) : (s.setRackSlot b n r).free = s.free := rfl
@[simp] theorem State.setRackSlot_ids (s : State) (b n : Nat) (r : RackSlot) : (s.setRackSlot b n r).ids = s.ids := rfl
@[simp] theorem State.setRackSlot_out (s : State) (b n : Nat) (r : RackSlot) : (s.setRackSlot b n r).out = s.out := rfl
@[simp] theorem State.setRackSlot_dict (s : State) (b n : Nat) (r : RackSlot) : (s.setRackSlot b n r).dict = s.dict := rfl
@[simp] theorem State.setRackSlot_events (s : State) (b n : Nat) (r : RackSlot) : (s.setRackSlot b n r).events = s.events := rfl
@[simp] theorem State.setRackSlot_boot (s : State) (b n : Nat) (r : RackSlot) : (s.setRackSlot b n r).boot = s.boot := rfl
@[simp] theorem State.setRackSlot_kiln (s : State) (b n : Nat) (r : RackSlot) : (s.setRackSlot b n r).kiln = s.kiln := rfl
@[simp] theorem State.setRackSlot_keys (s : State) (b n : Nat) (r : RackSlot) : (s.setRackSlot b n r).keys = s.keys := rfl
@[simp] theorem State.setRackSlot_vdp (s : State) (b n : Nat) (r : RackSlot) : (s.setRackSlot b n r).vdp = s.vdp := rfl
@[simp] theorem State.setRackSlot_host (s : State) (b n : Nat) (r : RackSlot) : (s.setRackSlot b n r).host = s.host := rfl
@[simp] theorem State.setRackSlot_array (s : State) (b n : Nat) (r : RackSlot) : (s.setRackSlot b n r).array = s.array := rfl
@[simp] theorem State.setRackSlot_pallets (s : State) (b n : Nat) (r : RackSlot) : (s.setRackSlot b n r).pallets = s.pallets := rfl
@[simp] theorem State.setRackSlot_req (s : State) (b n : Nat) (r : RackSlot) : (s.setRackSlot b n r).req = s.req := rfl
@[simp] theorem State.setRackSlot_mem (s : State) (b n : Nat) (r : RackSlot) : (s.setRackSlot b n r).mem = s.mem := rfl
@[simp] theorem State.setRackSlot_ports (s : State) (b n : Nat) (r : RackSlot) : (s.setRackSlot b n r).ports = s.ports := rfl
@[simp] theorem State.setRackSlot_tb (s : State) (b n : Nat) (r : RackSlot) : (s.setRackSlot b n r).tb = s.tb := rfl
@[simp] theorem State.setRackSlot_trn (s : State) (b n : Nat) (r : RackSlot) : (s.setRackSlot b n r).trn = s.trn := rfl
@[simp] theorem State.setRackSlot_rmf (s : State) (b n : Nat) (r : RackSlot) : (s.setRackSlot b n r).rmf = { s.rmf with rack := NMap.put RackSlot.reset s.rmf.rack (b * 16 + n) r } := rfl
@[simp] theorem State.setRackSlot_asc (s : State) (b n : Nat) (r : RackSlot) : (s.setRackSlot b n r).asc = s.asc := rfl
@[simp] theorem State.setRackSlot_obs (s : State) (b n : Nat) (r : RackSlot) : (s.setRackSlot b n r).obs = s.obs := rfl

/-! ### setStage -/

@[simp] theorem State.setStage_pending (s : State) (b : BootStage) : (s.setStage b).pending = s.pending := rfl
@[simp] theorem State.setStage_now (s : State) (b : BootStage) : (s.setStage b).now = s.now := rfl
@[simp] theorem State.setStage_free (s : State) (b : BootStage) : (s.setStage b).free = s.free := rfl
@[simp] theorem State.setStage_ids (s : State) (b : BootStage) : (s.setStage b).ids = s.ids := rfl
@[simp] theorem State.setStage_out (s : State) (b : BootStage) : (s.setStage b).out = s.out := rfl
@[simp] theorem State.setStage_dict (s : State) (b : BootStage) : (s.setStage b).dict = s.dict := rfl
@[simp] theorem State.setStage_events (s : State) (b : BootStage) : (s.setStage b).events = s.events := rfl
@[simp] theorem State.setStage_boot (s : State) (b : BootStage) : (s.setStage b).boot = { s.boot with stage := b } := rfl
@[simp] theorem State.setStage_kiln (s : State) (b : BootStage) : (s.setStage b).kiln = s.kiln := rfl
@[simp] theorem State.setStage_keys (s : State) (b : BootStage) : (s.setStage b).keys = s.keys := rfl
@[simp] theorem State.setStage_vdp (s : State) (b : BootStage) : (s.setStage b).vdp = s.vdp := rfl
@[simp] theorem State.setStage_host (s : State) (b : BootStage) : (s.setStage b).host = s.host := rfl
@[simp] theorem State.setStage_array (s : State) (b : BootStage) : (s.setStage b).array = s.array := rfl
@[simp] theorem State.setStage_pallets (s : State) (b : BootStage) : (s.setStage b).pallets = s.pallets := rfl
@[simp] theorem State.setStage_req (s : State) (b : BootStage) : (s.setStage b).req = s.req := rfl
@[simp] theorem State.setStage_mem (s : State) (b : BootStage) : (s.setStage b).mem = s.mem := rfl
@[simp] theorem State.setStage_ports (s : State) (b : BootStage) : (s.setStage b).ports = s.ports := rfl
@[simp] theorem State.setStage_tb (s : State) (b : BootStage) : (s.setStage b).tb = s.tb := rfl
@[simp] theorem State.setStage_trn (s : State) (b : BootStage) : (s.setStage b).trn = s.trn := rfl
@[simp] theorem State.setStage_rmf (s : State) (b : BootStage) : (s.setStage b).rmf = s.rmf := rfl
@[simp] theorem State.setStage_asc (s : State) (b : BootStage) : (s.setStage b).asc = s.asc := rfl
@[simp] theorem State.setStage_obs (s : State) (b : BootStage) : (s.setStage b).obs = s.obs := rfl

/-! ### setTokens -/

@[simp] theorem State.setTokens_pending (s : State) (k v : Nat) : (s.setTokens k v).pending = s.pending := rfl
@[simp] theorem State.setTokens_now (s : State) (k v : Nat) : (s.setTokens k v).now = s.now := rfl
@[simp] theorem State.setTokens_free (s : State) (k v : Nat) : (s.setTokens k v).free = s.free := rfl
@[simp] theorem State.setTokens_ids (s : State) (k v : Nat) : (s.setTokens k v).ids = s.ids := rfl
@[simp] theorem State.setTokens_out (s : State) (k v : Nat) : (s.setTokens k v).out = s.out := rfl
@[simp] theorem State.setTokens_dict (s : State) (k v : Nat) : (s.setTokens k v).dict = s.dict := rfl
@[simp] theorem State.setTokens_events (s : State) (k v : Nat) : (s.setTokens k v).events = s.events := rfl
@[simp] theorem State.setTokens_boot (s : State) (k v : Nat) : (s.setTokens k v).boot = s.boot := rfl
@[simp] theorem State.setTokens_kiln (s : State) (k v : Nat) : (s.setTokens k v).kiln = s.kiln := rfl
@[simp] theorem State.setTokens_keys (s : State) (k v : Nat) : (s.setTokens k v).keys = s.keys := rfl
@[simp] theorem State.setTokens_vdp (s : State) (k v : Nat) : (s.setTokens k v).vdp = s.vdp := rfl
@[simp] theorem State.setTokens_host (s : State) (k v : Nat) : (s.setTokens k v).host = s.host := rfl
@[simp] theorem State.setTokens_array (s : State) (k v : Nat) : (s.setTokens k v).array = s.array := rfl
@[simp] theorem State.setTokens_pallets (s : State) (k v : Nat) : (s.setTokens k v).pallets = s.pallets := rfl
@[simp] theorem State.setTokens_req (s : State) (k v : Nat) : (s.setTokens k v).req = s.req := rfl
@[simp] theorem State.setTokens_mem (s : State) (k v : Nat) : (s.setTokens k v).mem = s.mem := rfl
@[simp] theorem State.setTokens_ports (s : State) (k v : Nat) : (s.setTokens k v).ports = s.ports := rfl
@[simp] theorem State.setTokens_tb (s : State) (k v : Nat) : (s.setTokens k v).tb = s.tb := rfl
@[simp] theorem State.setTokens_trn (s : State) (k v : Nat) : (s.setTokens k v).trn = s.trn := rfl
@[simp] theorem State.setTokens_rmf (s : State) (k v : Nat) : (s.setTokens k v).rmf = s.rmf := rfl
@[simp] theorem State.setTokens_asc (s : State) (k v : Nat) : (s.setTokens k v).asc = { s.asc with tokens := NMap.put 0 s.asc.tokens k v } := rfl
@[simp] theorem State.setTokens_obs (s : State) (k v : Nat) : (s.setTokens k v).obs = s.obs := rfl

/-! ### setDescs -/

@[simp] theorem State.setDescs_pending (s : State) (k : Nat) (l : List StepDesc) : (s.setDescs k l).pending = s.pending := rfl
@[simp] theorem State.setDescs_now (s : State) (k : Nat) (l : List StepDesc) : (s.setDescs k l).now = s.now := rfl
@[simp] theorem State.setDescs_free (s : State) (k : Nat) (l : List StepDesc) : (s.setDescs k l).free = s.free := rfl
@[simp] theorem State.setDescs_ids (s : State) (k : Nat) (l : List StepDesc) : (s.setDescs k l).ids = s.ids := rfl
@[simp] theorem State.setDescs_out (s : State) (k : Nat) (l : List StepDesc) : (s.setDescs k l).out = s.out := rfl
@[simp] theorem State.setDescs_dict (s : State) (k : Nat) (l : List StepDesc) : (s.setDescs k l).dict = s.dict := rfl
@[simp] theorem State.setDescs_events (s : State) (k : Nat) (l : List StepDesc) : (s.setDescs k l).events = s.events := rfl
@[simp] theorem State.setDescs_boot (s : State) (k : Nat) (l : List StepDesc) : (s.setDescs k l).boot = s.boot := rfl
@[simp] theorem State.setDescs_kiln (s : State) (k : Nat) (l : List StepDesc) : (s.setDescs k l).kiln = s.kiln := rfl
@[simp] theorem State.setDescs_keys (s : State) (k : Nat) (l : List StepDesc) : (s.setDescs k l).keys = s.keys := rfl
@[simp] theorem State.setDescs_vdp (s : State) (k : Nat) (l : List StepDesc) : (s.setDescs k l).vdp = s.vdp := rfl
@[simp] theorem State.setDescs_host (s : State) (k : Nat) (l : List StepDesc) : (s.setDescs k l).host = s.host := rfl
@[simp] theorem State.setDescs_array (s : State) (k : Nat) (l : List StepDesc) : (s.setDescs k l).array = s.array := rfl
@[simp] theorem State.setDescs_pallets (s : State) (k : Nat) (l : List StepDesc) : (s.setDescs k l).pallets = s.pallets := rfl
@[simp] theorem State.setDescs_req (s : State) (k : Nat) (l : List StepDesc) : (s.setDescs k l).req = s.req := rfl
@[simp] theorem State.setDescs_mem (s : State) (k : Nat) (l : List StepDesc) : (s.setDescs k l).mem = s.mem := rfl
@[simp] theorem State.setDescs_ports (s : State) (k : Nat) (l : List StepDesc) : (s.setDescs k l).ports = s.ports := rfl
@[simp] theorem State.setDescs_tb (s : State) (k : Nat) (l : List StepDesc) : (s.setDescs k l).tb = s.tb := rfl
@[simp] theorem State.setDescs_trn (s : State) (k : Nat) (l : List StepDesc) : (s.setDescs k l).trn = s.trn := rfl
@[simp] theorem State.setDescs_rmf (s : State) (k : Nat) (l : List StepDesc) : (s.setDescs k l).rmf = s.rmf := rfl
@[simp] theorem State.setDescs_asc (s : State) (k : Nat) (l : List StepDesc) : (s.setDescs k l).asc = { s.asc with descs := NMap.put [] s.asc.descs k l } := rfl
@[simp] theorem State.setDescs_obs (s : State) (k : Nat) (l : List StepDesc) : (s.setDescs k l).obs = s.obs := rfl

/-! ### addFlush -/

@[simp] theorem addFlush_pending (s : State) (f : FlushRec) : (addFlush s f).pending = s.pending := rfl
@[simp] theorem addFlush_now (s : State) (f : FlushRec) : (addFlush s f).now = s.now := rfl
@[simp] theorem addFlush_free (s : State) (f : FlushRec) : (addFlush s f).free = s.free := rfl
@[simp] theorem addFlush_ids (s : State) (f : FlushRec) : (addFlush s f).ids = s.ids + 1 := rfl
@[simp] theorem addFlush_out (s : State) (f : FlushRec) : (addFlush s f).out = s.out := rfl
@[simp] theorem addFlush_dict (s : State) (f : FlushRec) : (addFlush s f).dict = s.dict := rfl
@[simp] theorem addFlush_events (s : State) (f : FlushRec) : (addFlush s f).events = s.events := rfl
@[simp] theorem addFlush_boot (s : State) (f : FlushRec) : (addFlush s f).boot = s.boot := rfl
@[simp] theorem addFlush_kiln (s : State) (f : FlushRec) : (addFlush s f).kiln = s.kiln := rfl
@[simp] theorem addFlush_keys (s : State) (f : FlushRec) : (addFlush s f).keys = s.keys := rfl
@[simp] theorem addFlush_vdp (s : State) (f : FlushRec) : (addFlush s f).vdp = s.vdp := rfl
@[simp] theorem addFlush_host (s : State) (f : FlushRec) : (addFlush s f).host = s.host := rfl
@[simp] theorem addFlush_array (s : State) (f : FlushRec) : (addFlush s f).array = s.array := rfl
@[simp] theorem addFlush_pallets (s : State) (f : FlushRec) : (addFlush s f).pallets = s.pallets := rfl
@[simp] theorem addFlush_req (s : State) (f : FlushRec) : (addFlush s f).req = s.req := rfl
@[simp] theorem addFlush_mem (s : State) (f : FlushRec) : (addFlush s f).mem = { s.mem with flushes := NMap.ins s.mem.flushes s.ids f } := rfl
@[simp] theorem addFlush_ports (s : State) (f : FlushRec) : (addFlush s f).ports = s.ports := rfl
@[simp] theorem addFlush_tb (s : State) (f : FlushRec) : (addFlush s f).tb = s.tb := rfl
@[simp] theorem addFlush_trn (s : State) (f : FlushRec) : (addFlush s f).trn = s.trn := rfl
@[simp] theorem addFlush_rmf (s : State) (f : FlushRec) : (addFlush s f).rmf = s.rmf := rfl
@[simp] theorem addFlush_asc (s : State) (f : FlushRec) : (addFlush s f).asc = s.asc := rfl
@[simp] theorem addFlush_obs (s : State) (f : FlushRec) : (addFlush s f).obs = s.obs := rfl

/-! ### A free value and a number -/

theorem State.fresh_value (s : State) (w : Nat) : (s.fresh w).1 = Config.freeValue s.free % 2 ^ w := rfl
theorem State.fresh_lt (s : State) (w : Nat) : (s.fresh w).1 < 2 ^ w := Nat.mod_lt _ (Nat.two_pow_pos w)
@[simp] theorem State.fresh_pending (s : State) (w : Nat) : (s.fresh w).2.pending = s.pending := rfl
@[simp] theorem State.fresh_now (s : State) (w : Nat) : (s.fresh w).2.now = s.now := rfl
@[simp] theorem State.fresh_free (s : State) (w : Nat) : (s.fresh w).2.free = s.free + 1 := rfl
@[simp] theorem State.fresh_ids (s : State) (w : Nat) : (s.fresh w).2.ids = s.ids := rfl
@[simp] theorem State.fresh_out (s : State) (w : Nat) : (s.fresh w).2.out = s.out := rfl
@[simp] theorem State.fresh_dict (s : State) (w : Nat) : (s.fresh w).2.dict = s.dict := rfl
@[simp] theorem State.fresh_events (s : State) (w : Nat) : (s.fresh w).2.events = s.events := rfl
@[simp] theorem State.fresh_boot (s : State) (w : Nat) : (s.fresh w).2.boot = s.boot := rfl
@[simp] theorem State.fresh_kiln (s : State) (w : Nat) : (s.fresh w).2.kiln = s.kiln := rfl
@[simp] theorem State.fresh_keys (s : State) (w : Nat) : (s.fresh w).2.keys = s.keys := rfl
@[simp] theorem State.fresh_vdp (s : State) (w : Nat) : (s.fresh w).2.vdp = s.vdp := rfl
@[simp] theorem State.fresh_host (s : State) (w : Nat) : (s.fresh w).2.host = s.host := rfl
@[simp] theorem State.fresh_array (s : State) (w : Nat) : (s.fresh w).2.array = s.array := rfl
@[simp] theorem State.fresh_pallets (s : State) (w : Nat) : (s.fresh w).2.pallets = s.pallets := rfl
@[simp] theorem State.fresh_req (s : State) (w : Nat) : (s.fresh w).2.req = s.req := rfl
@[simp] theorem State.fresh_mem (s : State) (w : Nat) : (s.fresh w).2.mem = s.mem := rfl
@[simp] theorem State.fresh_ports (s : State) (w : Nat) : (s.fresh w).2.ports = s.ports := rfl
@[simp] theorem State.fresh_tb (s : State) (w : Nat) : (s.fresh w).2.tb = s.tb := rfl
@[simp] theorem State.fresh_trn (s : State) (w : Nat) : (s.fresh w).2.trn = s.trn := rfl
@[simp] theorem State.fresh_rmf (s : State) (w : Nat) : (s.fresh w).2.rmf = s.rmf := rfl
@[simp] theorem State.fresh_asc (s : State) (w : Nat) : (s.fresh w).2.asc = s.asc := rfl
@[simp] theorem State.fresh_obs (s : State) (w : Nat) : (s.fresh w).2.obs = s.obs := rfl
@[simp] theorem State.newId_value (s : State) : s.newId.1 = s.ids := rfl
@[simp] theorem State.newId_pending (s : State) : s.newId.2.pending = s.pending := rfl
@[simp] theorem State.newId_now (s : State) : s.newId.2.now = s.now := rfl
@[simp] theorem State.newId_free (s : State) : s.newId.2.free = s.free := rfl
@[simp] theorem State.newId_ids (s : State) : s.newId.2.ids = s.ids + 1 := rfl
@[simp] theorem State.newId_out (s : State) : s.newId.2.out = s.out := rfl
@[simp] theorem State.newId_dict (s : State) : s.newId.2.dict = s.dict := rfl
@[simp] theorem State.newId_events (s : State) : s.newId.2.events = s.events := rfl
@[simp] theorem State.newId_boot (s : State) : s.newId.2.boot = s.boot := rfl
@[simp] theorem State.newId_kiln (s : State) : s.newId.2.kiln = s.kiln := rfl
@[simp] theorem State.newId_keys (s : State) : s.newId.2.keys = s.keys := rfl
@[simp] theorem State.newId_vdp (s : State) : s.newId.2.vdp = s.vdp := rfl
@[simp] theorem State.newId_host (s : State) : s.newId.2.host = s.host := rfl
@[simp] theorem State.newId_array (s : State) : s.newId.2.array = s.array := rfl
@[simp] theorem State.newId_pallets (s : State) : s.newId.2.pallets = s.pallets := rfl
@[simp] theorem State.newId_req (s : State) : s.newId.2.req = s.req := rfl
@[simp] theorem State.newId_mem (s : State) : s.newId.2.mem = s.mem := rfl
@[simp] theorem State.newId_ports (s : State) : s.newId.2.ports = s.ports := rfl
@[simp] theorem State.newId_tb (s : State) : s.newId.2.tb = s.tb := rfl
@[simp] theorem State.newId_trn (s : State) : s.newId.2.trn = s.trn := rfl
@[simp] theorem State.newId_rmf (s : State) : s.newId.2.rmf = s.rmf := rfl
@[simp] theorem State.newId_asc (s : State) : s.newId.2.asc = s.asc := rfl
@[simp] theorem State.newId_obs (s : State) : s.newId.2.obs = s.obs := rfl

/-! ### What is read back -/

theorem State.setHome_home? (s : State) (k k' : Nat) (h : HomeReg) :
    (s.setHome k h).home? k' = if k' = k then some h else s.home? k' :=
  NMap.get?_ins _ _ _ _

theorem State.setShard_shard? (s : State) (k k' : Nat) (v : CopyShard) :
    (s.setShard k v).shard? k' = if k' = k then some v else s.shard? k' :=
  NMap.get?_ins _ _ _ _

theorem State.setRackSlot_rackSlot (s : State) (b n b' n' : Nat) (r : RackSlot) :
    (s.setRackSlot b n r).rackSlot b' n' = if b' * 16 + n' = b * 16 + n then r else s.rackSlot b' n' :=
  NMap.get_put _ _ _ _ _

end Sys2Proof.Machine
end

