-- ==== Sys2Proof/Tests/Slice0.lean ====
section
/-! SUPPORT. The model's own tests: the checks of WellFormed refuse ill-formed terms, the hypotheses of the statements are met
by concrete states (`witness_<statement>`), and single commands on small states (`test_<what>`), with results worked out
from the rules of spec/. -/

namespace Sys2Proof.Machine.Tests

open Sys2Proof Sys2Proof.Machine

set_option Elab.async false

/-! ## Small states -/

/-- The mailboxes are open. -/
def up : State := { State.reset with boot := { State.reset.boot with stage := .running } }

/-- Pallet 0 is READY on the rectangle of 2 × 2 bricks at brick 0. -/
def yard : State := (up.setObj Obj.PAL_GEOMETRY 0 (2 * 2 ^ 6 + 2 * 2 ^ 17)).setPallet 0 { Pallet.reset with state := .ready }

/-- Register x1 of micro-core 0 of brick 0 holds a value. -/
def yardX (v : Word) : State := yard.onCore 0 0 (fun k => k.setX 1 v)

/-- Brick 0 of `yard` with another content. -/
def yardB (f : Brick → Brick) : State := yard.onBrick 0 f

/-- A work token of KIND 1. -/
def tok1 : Token := { src := 3, kind := 1, engines := 0, passes := 0, arrId := 5, page := 0, args := List.replicate 40 0, tag := 9 }

/-- A step descriptor without entries, and a step of it that runs with step tag 7 and arrival counter 0. -/
def desc0 : StepDesc :=
  { batch := 1, pallet := 0, kind := 1, arrTarget := 3, accelMod := 0xFFFF, accelQ := 0, imageId := 0, length := 64,
    reserved := false, entries := [], hints := [], replay := [] }

def run0 : StepRun :=
  { o := 0, r := 1, desc := desc0, tStart := 0, tag := 7, epoch := 0, counter := 0, entries := [], doneAt := none,
    doneSeen := false, discarded := false }

/-- Pallet 0 runs that step. -/
def stepping : State := yard.setPallet 0 { Pallet.reset with state := .running, seq := 7, run := some run0 }

/-! ## Meeting the hypotheses that are structures -/

theorem coreRuns_of {s : State} {b c n p : Nat} (h : s.palletOf b = some p ∧ (s.pallet p).live = true
    ∧ s.array.stopped.contains b = false ∧ (s.core b c).waiting = none ∧ (s.core b c).pc.toNat + n ≤ 0x200000) :
    CoreRuns s b c n p :=
  ⟨h.1, h.2.1, h.2.2.1, h.2.2.2.1, h.2.2.2.2⟩

theorem arrives_of {s : State} {i op : Nat} {p : Pkt} {r : RxFlow} (h : (s.port i).isUp = true ∧ p.dstMod = s.moduleNum
    ∧ s.moduleNum ≠ 0xFFFF ∧ (p.keyId = 0 ∨ s.keyInstalled p.keyId = true) ∧ s.icvOk op (s.rxExt p) p = true
    ∧ s.age p + s.delta ≤ 500000 ∧ s.dead p.srcMod = false ∧ NMap.get? s.trn.rx (rxKey p.srcMod p.flow) = some r ∧ r.flowT = p.flowT ∧ p.psn = r.expected ∧ r.expected < 2 ^ 24
    ∧ (s.epochSlot p.epoch).isSome = true ∧ s.retiredWork op p = false) : Arrives s i op p r :=
  ⟨h.1, h.2.1, h.2.2.1, h.2.2.2.1, h.2.2.2.2.1, h.2.2.2.2.2.1, h.2.2.2.2.2.2.1, h.2.2.2.2.2.2.2.1, h.2.2.2.2.2.2.2.2.1,
    h.2.2.2.2.2.2.2.2.2.1, h.2.2.2.2.2.2.2.2.2.2.1, h.2.2.2.2.2.2.2.2.2.2.2.1, h.2.2.2.2.2.2.2.2.2.2.2.2⟩

theorem answers_of {s : State} {i op : Nat} {p : Pkt} {f : Flow} (h : (s.port i).isUp = true ∧ p.dstMod = s.moduleNum
    ∧ s.moduleNum ≠ 0xFFFF ∧ (p.keyId = 0 ∨ s.keyInstalled p.keyId = true) ∧ s.icvOk op (s.rxExt p) p = true
    ∧ s.age p + s.delta ≤ 500000 ∧ s.flow? p.flow = some f ∧ f.flowT = p.flowT ∧ f.dst = p.srcMod) : Answers s i op p f :=
  ⟨h.1, h.2.1, h.2.2.1, h.2.2.2.1, h.2.2.2.2.1, h.2.2.2.2.2.1, h.2.2.2.2.2.2.1, h.2.2.2.2.2.2.2.1, h.2.2.2.2.2.2.2.2⟩

theorem rackHere_of {s : State} {region op len : Nat} {p : Pkt} {g : MapRecord} (h : s.record? p.epoch 2 region = some g
    ∧ g.home = s.moduleNum ∧ regCheck s g.rkey p.keyId (g.base + p.addr) len (rackUse op) = none
    ∧ s.vMapped (s.reg (bitsOf g.rkey 0 16)).pallet (g.base + p.addr) len = true
    ∧ s.vHostLds (s.reg (bitsOf g.rkey 0 16)).pallet (g.base + p.addr) len = []
    ∧ s.vWritable (s.reg (bitsOf g.rkey 0 16)).pallet (g.base + p.addr) len = true
    ∧ (g.writer = 0xFFFF ∨ p.srcMod = g.writer) ∧ olderWriter s p.epoch g = false) : RackHere s region op len p g :=
  ⟨h.1, h.2.1, h.2.2.1, h.2.2.2.1, h.2.2.2.2.1, fun _ => h.2.2.2.2.2.1, fun _ => h.2.2.2.2.2.2.1, fun _ => h.2.2.2.2.2.2.2⟩

theorem sendsOn_of {s : State} {dst cls epoch k : Nat} {f : Flow} (h : s.dead dst = false
    ∧ (s.portsOf epoch dst).isSome = true ∧ s.flowFor dst cls = some k ∧ s.flow? k = some f
    ∧ s.flowAwaited dst cls 0 = false ∧ f.backoffTill.isSome = true) :
    SendsOn s dst cls epoch k f :=
  ⟨h.1, h.2.1, h.2.2.1, h.2.2.2.1, h.2.2.2.2.1, h.2.2.2.2.2⟩

/-! ## A module on the rack: number 5, beside module 7 -/

/-- The receiver entry of flow 3 of module 7, which expects the last PSN. -/
def rx0 : RxFlow := { flowT := 100, expected := 2 ^ 24 - 1, wraps := 0, m := 0, nakFor := none, hold := none }

/-- Sender flow 0, to module 7 in class 2, which waits out a backoff. -/
def flow0 : Flow :=
  { dst := 7, cls := 2, lane := 0, flowT := 50, opened := true, acked := true, port := 11, nextPsn := 0, wraps := 0, unacked := [], queued := [], part := [],
    expiries := 0, notReady := 0, backoffTill := some 1000000, lastSent := 0, lastBusy := 0, vft := 0, weight := 1, shaper := 0 }

/-- A record of KIND 1 for module 7, and of KIND 2 for region 9, whose HOME is this module. -/
def mod7 : MapRecord :=
  { kind := 1, remove := false, key := 7, ports := 0xFFF, home := 0, writer := 0, rkey := 0, base := 0, length := 0, split := 0,
    accel := 0, members := [], rid := 0 }

/-- The same for another key. -/
def modRec (k : Nat) : MapRecord := { mod7 with key := k }

def region9 : MapRecord :=
  { mod7 with kind := 2, key := 9, home := 5, writer := 0xFFFF, rkey := 0x1000001, base := 0x2000, length := 8192 }

/-- Registration 1 of pallet 0, generation 0x100, which permits every use of the page at 0x2000. -/
def reg1 : Reg :=
  { Reg.reset with
    state := 1, lwrite := true, rwrite := true, rread := true, ratomic := true, gen := 0x100, va := 0x2000, length := 8192 }

def leaf0 : Leaf := { write := true, tier := .hbm, ld := 0, target := 4, keyslot := 0 }

/-- The module: its number, port 11 UP, the timebase locked, epoch 1 held, the flows, the registration and its page. -/
def net : State :=
  let n := yard.setObj Obj.RMF_MODULE_NUM 0 5
  let n := (n.setObj Obj.RMF_EPOCH 0 1).setPort 11 { Port.reset with state := .up }
  let n := n.setReg 1 reg1
  let n := n.setLeaf 0 0x2000 leaf0
  { n with
    tb := { n.tb with state := .locked },
    trn := { n.trn with rx := [(rxKey 7 3, rx0)], flows := [(0, flow0)] },
    rmf := { n.rmf with
      epochs := [{ number := 1, slot := 0 }],
      entries := [(0, { record := mod7, emask := 1, staged := false, drop := false }),
        (1, { record := region9, emask := 1, staged := false, drop := false }),
        (2, { record := modRec 5, emask := 1, staged := false, drop := false }),
        (3, { record := { region9 with key := 10, home := 7 }, emask := 1, staged := false, drop := false })] } }

/-- A packet of module 7 on flow 3 that takes the last PSN of its space. -/
def pkt0 : Pkt :=
  { openF := false, first := false, last := false, coded := false, flagged := false, relaxed := false, epoch := 1, srcMod := 7, dstMod := 5,
    flow := 3, keyId := 0, psn := 2 ^ 24 - 1, fgen := 0, flowT := 100, dq := 4, sq := 6, addr := 0x2000, rkey := 0x1000001, status := .ok,
    tag := 0, imm := 0, ackPsn := 0, aux := 8192, birth := 0, cls := 2, data := List.replicate 4096 1, icv := .checked true }

/-! ## A resident request -/

def geom0 : Geom := { nlayer := 1, nkv := 1, hdimc := 0, dlayer := 0, dnkv := 0, dhdimc := 0 }

/-- A request of pallet 0 in slot 2, generation 1. -/
def req0 : Request :=
  { handle := 2 * 4096 + 1, life := .resident, pallet := 0, keyslot := 0, nstream := 1, pfmt := 0, pendValid := true, geom := geom0,
    ctxlen := 10, nextStep := 3, cstep := 3, copyVer := 0, homeSeq := 4, rid := 77, vbase := 0, resPages := 0, resSpill := 0,
    homeMod := 5, admitHandle := 2 * 4096 + 1, copyGroup := [5, 7, 8, 9, 10, 11], tAdmit := 0, tLast := 0, pending := [1],
    blocks := [], counts := [], inbox := [], inboxNext := 0 }

def withReq (s : State) (r : Request) : State := s.setRequest 2 r

def sentry0 : StepEntry :=
  { handle := 2 * 4096 + 1, step := 3, ntok := 1, attach := false, last := false, offer := false, incPos0 := 0, dstHandle := 0,
    dstMod := 0, dstPallet := 0, deadline := 0 }

/-- The request's entry of a running step. -/
def entry0 : EntryRun :=
  { d := sentry0, slot := some 2, statuses := [], nostep := false, ended := false, held := none, heldAt := 0, stalled := 0, tDone := 0, blocks := [], counts := [],
    tree := none, sentAt := 0, logits := none, path := [], emitted := [], accepted := 0, stopped := false, fresh := [] }

/-- Pallet 0 of the module runs a step with that entry. -/
def stepOf (s : State) (f : EntryRun → EntryRun) (g : StepRun → StepRun) : State :=
  (withReq s req0).setPallet 0
    { Pallet.reset with state := .running, seq := 7, loaded := none, run := some (g { run0 with entries := [f entry0] }) }

/-- A DECODE image for two columns and two courses that loads nothing. -/
def manifest0 : Manifest :=
  { magic := 0x4C50, version := 1, kind := 1, ncourse := 2, imageId := 6,
    geom := { nlayer := 1, nkv := 1, hdimc := 0, dlayer := 0, dnkv := 0, dhdimc := 0 },
    nqh := 1, macPerNode := 0, counts := [(2, 0, 0), (2, 0, 0), (2, 0, 0)], variants := [(2, [0, 0, 0, 0])], loads := [(2, [])] }

def loaded0 : Loaded := { addr := 0x2000, manifest := manifest0, ncol := 2, entries := [0, 0, 0, 0], digest := 0, keyslot := 0 }

/-- A CMD ring with one visible entry. -/
def cmdRing : Ring := { Ring.reset with enable := true, kind := 1, state := 1, logSize := 6, tail := 1, visible := 1 }

/-! ## Chapter 02 -/

theorem yard_runs : CoreRuns (yard.at 0) 0 0 4 0 :=
  ⟨by decide +kernel, by decide +kernel, by decide +kernel, by decide +kernel, by decide +kernel⟩

theorem yardX_runs : CoreRuns ((yardX 0x1FFFC0).at 0) 0 0 4 0 :=
  ⟨by decide +kernel, by decide +kernel, by decide +kernel, by decide +kernel, by decide +kernel⟩

theorem witness_StepRunsFrontCommand : ({ up with pending := [.counterRelease 0] } : State).pending = .counterRelease 0 :: [] ∧ up.pending = [] :=
  by decide +kernel

/-- The shift functions are the two function codes that the second clause leaves out; every other one meets it. -/
theorem witness_IntegerInstructions : CoreRuns (yard.at 0) 0 0 4 0 ∧ (7 : Fin 8).val ≠ 1 ∧ (7 : Fin 8).val ≠ 5 :=
  ⟨yard_runs, by decide, by decide⟩

/-- The last line of the brick store: its last word, and the word at 0. -/
theorem witness_LoadStoreWord :
    let k := ((yardX 0x1FFFC0).at 0).core 0 0
    let a := (k.getX 1 + (60 : BitVec 12).signExtend 32).toNat
    let z := (k.getX 0 + (0 : BitVec 12).signExtend 32).toNat
    CoreRuns ((yardX 0x1FFFC0).at 0) 0 0 4 0 ∧ (a % 4 = 0 ∧ a + 4 ≤ 0x200000) ∧ z % 4 = 0 ∧ z + 4 ≤ 0x200000 :=
  ⟨yardX_runs, by decide +kernel, by decide +kernel⟩

theorem witness_VectorInstructions :
    let k := ((yardX 0x1FFFC0).at 2).core 0 0
    let a := (k.getX 1 + (56 : BitVec 12).signExtend 32).toNat
    CoreRuns yard 0 0 4 0 ∧ CoreRuns ((yardX 0x1FFFC0).at 2) 0 0 4 0 ∧ (a % 8 = 0 ∧ a + 8 ≤ 0x200000)
      ∧ 2 ≤ ((yardX 0x1FFFC0).at 2).now :=
  ⟨⟨by decide +kernel, by decide +kernel, by decide +kernel, by decide +kernel, by decide +kernel⟩,
    ⟨by decide +kernel, by decide +kernel, by decide +kernel, by decide +kernel, by decide +kernel⟩,
    by decide +kernel, by decide +kernel⟩

/-- A queue with one token and the last line of the store; and an empty queue. -/
theorem witness_TokensTaken :
    let s := (yardX 0x1FFFC0).onBrick 0 (fun k => { k with tokens := [tok1] })
    CoreRuns (s.at 0) 0 0 4 0 ∧ lineAddr (((s.at 0).core 0 0).getX 1).toNat = true ∧ ((s.at 0).brick 0).tokens = tok1 :: []
      ∧ CoreRuns ((yardX 0x1FFFC0).at 0) 0 0 4 0 ∧ lineAddr ((((yardX 0x1FFFC0).at 0).core 0 0).getX 1).toNat = true
      ∧ (((yardX 0x1FFFC0).at 0).brick 0).tokens = [] :=
  ⟨⟨by decide +kernel, by decide +kernel, by decide +kernel, by decide +kernel, by decide +kernel⟩,
    by decide +kernel, by decide +kernel, yardX_runs, by decide +kernel, by decide +kernel⟩

/-- x1 is the line or counter or tag, x2 the second operand, x3 the length. -/
def waits (a v len : Word) : State := yard.onCore 0 0 (fun k => ((k.setX 1 a).setX 2 v).setX 3 len)

theorem waits_runs (a v len : Word) : (((waits a v len).at 0).core 0 0).waiting = none →
    (((waits a v len).at 0).core 0 0).pc.toNat + 4 ≤ 0x200000 → CoreRuns ((waits a v len).at 0) 0 0 4 0 :=
  fun w f => ⟨yard_runs.pallet, by rw [show ((waits a v len).at 0).pallet 0 = yard.pallet 0 from rfl]; decide +kernel, yard_runs.clock, w, f⟩

theorem witness_TokenPutAndWaits :
    CoreRuns ((waits 0 0xFFFFFFFF 0).at 0) 0 0 4 0 ∧ lineAddr (0 : Word).toNat = true
      ∧ ((((waits 0 0xFFFFFFFF 0).at 0).core 0 0).getX 2).toNat = 0xFFFFFFFF ∧ credits ((waits 0 0xFFFFFFFF 0).at 0) 0 2 ≠ 0
      ∧ CoreRuns ((waits 2 8 0).at 0) 0 0 4 0 ∧ (8 : BitVec 12).toNat ≤ credits ((waits 2 8 0).at 0) 0 2
      ∧ CoreRuns ((waits 3 0 0).at 0) 0 0 4 0 ∧ ((((waits 3 0 0).at 0).core 0 0).getX 1).toNat = 3
      ∧ CoreRuns ((waits 63 0 0).at 0) 0 0 4 0 ∧ 0 ≤ (((waits 63 0 0).at 0).counter (0 * 64 + 63)).count
      ∧ (∀ m ∈ (((waits 15 0 0).at 0).core 0 0).bulk, m.tag ≠ 15)
      ∧ CoreRuns ((waits 0 262144 262144).at 0) 0 0 4 0
      ∧ leastBelow 16 (fun i => (((waits 0 262144 262144).at 0).core 0 0).bulk.all (fun m => m.tag ≠ i)) = some 0
      ∧ ((((waits 0 262144 262144).at 0).core 0 0).getX 3).toNat = 262144
      ∧ CoreRuns ((waits 76799 65535 0).at 0) 0 0 4 0 ∧ (((waits 76799 65535 0).at 0).core 0 0).acks = []
      ∧ (((waits 76799 65535 0).at 0).core 0 0).bulk = [] ∧ (((waits 76799 65535 0).at 0).core 0 0).arrives = [] :=
  ⟨waits_runs _ _ _ (by decide +kernel) (by decide +kernel), by decide +kernel, by decide +kernel, by decide +kernel,
    waits_runs _ _ _ (by decide +kernel) (by decide +kernel), by decide +kernel,
    waits_runs _ _ _ (by decide +kernel) (by decide +kernel), by decide +kernel,
    waits_runs _ _ _ (by decide +kernel) (by decide +kernel), by decide +kernel, by decide +kernel,
    waits_runs _ _ _ (by decide +kernel) (by decide +kernel), by decide +kernel, by decide +kernel,
    waits_runs _ _ _ (by decide +kernel) (by decide +kernel), by decide +kernel, by decide +kernel, by decide +kernel⟩

/-- Micro-core 0 waits for a bulk move of tag 0: it goes on once none has the tag, and stays while one has. Another waits for a
request credit. -/
theorem witness_WaitsAndMovesEnd :
    let s := yard.onCore 0 0 (fun k => { k with waiting := some (.bwait 0) })
    let m : BulkMove := { id := 0, tag := 0, dst := 64, src := 0, len := 64 }
    let w := s.onCore 0 0 (fun k => { k with bulk := [m] })
    let z := yard.onCore 0 0 (fun k => { k with waiting := some (.cwait 1 0 8) })
    let a : HeldArrive := { k := 1, n := 1, tag := 2, acks := [], moves := [] }
    let h := yard.onCore 0 0 (fun k => { k with arrives := [a] })
    ((s.at 0).palletOf 0 = some 0 ∧ ((s.at 0).pallet 0).live = true ∧ (s.at 0).array.stopped.contains 0 = false
        ∧ ((s.at 0).core 0 0).waiting = some (.bwait 0) ∧ WaitHolds (s.at 0) 0 0 (.bwait 0))
      ∧ ((w.at 0).palletOf 0 = some 0 ∧ ((w.at 0).pallet 0).live = true
        ∧ ((w.at 0).core 0 0).waiting = some (.bwait 0) ∧ ¬ WaitHolds (w.at 0) 0 0 (.bwait 0) ∧ ¬ WaitSeen (.bwait 0))
      ∧ (((z.at 0).core 0 0).waiting = some (.cwait 1 0 8) ∧ WaitSeen (.cwait 1 0 8))
      ∧ (w.core 0 0).bulk.find? (fun m => m.tag == 0) = some m
      ∧ ((h.at 0).core 0 0).arrives = a :: [] ∧ a.acks = [] ∧ a.moves = [] := by
  simp only [WaitHolds, WaitSeen]
  decide +kernel

/-- The longest request at the end of the brick store, and one at the end of HBM channel 7's last page; the first node number that
the mortar's table does not list. -/
theorem witness_MortarRequestsServed :
    (validNode 3 = true ∧ 1 ≤ 248 ∧ 248 ≤ 248 ∧ 0x1FFF08 + 248 ≤ 0x200000)
      ∧ (List.replicate 240 (0 : Byte) ≠ [] ∧ (List.replicate 240 (0 : Byte)).length ≤ 240
        ∧ 0x1FFF10 + (List.replicate 240 (0 : Byte)).length ≤ 0x200000)
      ∧ (frameCount * 8192 - 240 + 240 ≤ frameCount * 8192 ∧ (frameCount * 8192 - 240) / 8192 % 8 = 7
        ∧ (frameCount * 8192 - 240 + 240 - 1) / 8192 % 8 = 7)
      ∧ validNode 0xFFF = false := by
  decide +kernel

theorem witness_MortarAnswersTaken : validNode 3 = true ∧ validNode 0xFFF = false := by decide +kernel

theorem witness_TokenClaimed :
    let sent := fun (s : State) (t : Token) => ({ s with array := { s.array with flying := [(0, t)] } } : State)
    let full := sent (yardB (fun k => { k with tokens := List.replicate 64 tok1 })) tok1
    let one := sent (yardB (fun k => { k with passing := [tok1], used := [(2, 8)] })) tok1
    let crowd := sent (yardB (fun k => { k with tokens := List.replicate 64 tok1, passing := [tok1] })) tok1
    let far : Token := { tok1 with passes := 4 }
    let s := sent yard far
    let n := sent yard tok1
    (s.palletOf 0 = some 0 ∧ (s.pallet 0).live = true ∧ validNode far.src = true ∧ tokenInOrder s 0 far = true
        ∧ (s.brick 0).tokens.length < 64 ∧ (s.rect 0).size ≤ far.passes)
      ∧ (tokenInOrder n 0 tok1 = true ∧ (∀ i < 7, bitOf tok1.engines i = true → credits n 0 (engineCounter i) ≠ 0)
        ∧ (n.brick 0).tokens.length < claimThreshold n 0 (tokenScore n 0 0 tok1))
      ∧ (full.palletOf 0 = some 0 ∧ (full.pallet 0).live = true ∧ tokenInOrder full 0 tok1 = true
        ∧ 64 ≤ (full.brick 0).tokens.length ∧ (full.brick 0).passing = [] ∧ credits full 0 2 ≠ 0)
      ∧ (tokenInOrder crowd 0 tok1 = true ∧ 64 ≤ (crowd.brick 0).tokens.length ∧ (crowd.brick 0).passing ≠ [])
      ∧ (one.palletOf 0 = some 0 ∧ (one.brick 0).passing = tok1 :: []
        ∧ 1 ≤ NMap.get 0 (one.brick 0).used 2 ∧ NMap.get 0 (one.brick 0).used 2 ≤ 8)
      ∧ validNode ({ tok1 with src := 0xFFF } : Token).src = false := by
  decide +kernel

theorem witness_ArrivalCounters :
    let armed := yard.setCounter 0 { state := .armed, count := 1, target := 3, tag := 7 }
    ((yard.at 0).counter 76799).state = .idle ∧ 0 < 1
      ∧ ((armed.at 0).palletOf (0 / 64) = some 0 ∧ ((armed.at 0).counter 0).state = .armed ∧ ((armed.at 0).counter 0).tag = 7
        ∧ ((armed.at 0).counter 0).count + 1 < ((armed.at 0).counter 0).target
        ∧ ((armed.at 0).counter 0).count + 2 = ((armed.at 0).counter 0).target ∧ ((armed.at 0).counter 0).tag ≠ 8)
      ∧ ((yard.at 0).palletOf (63 / 64) = some 0 ∧ ((yard.at 0).counter 63).state = .idle)
      ∧ ((yard.setCounter 5 { state := .done, count := 3, target := 3, tag := 7 }).counter 5).state = .done
      ∧ ((stepping.at 0).pallet 0).run = some run0 ∧ run0.tag = 7 := by
  decide +kernel

/-! ## Chapter 09 -/

/-- Port 11 in a state. -/
def portIs (f : Port → Port) : State := up.setPort 11 (f Port.reset)

def portUp : State := portIs (fun v => { v with state := .up, spareOk := true })

theorem witness_PortStateMachine :
    let p := fun (st : PortState) (w : Bool) => (portIs (fun v => { v with state := st, trainWait := w }))
    let m := up.setObj Obj.LNK_MAC 11 5
    (m.running = true ∧ m.isPriv (.mailbox 16) = true ∧ m.obj Obj.LNK_MAC 11 ≠ 0 ∧ (m.port 11).state = .disabled)
      ∧ (portUp.running = true ∧ portUp.isPriv (.mailbox 16) = true ∧ (portUp.port 11).isUp = true)
      ∧ ((p .negotiating false).port 11).state = .negotiating
      ∧ (((p .training false).port 11).state = .training ∧ ((p .training false).port 11).trainWait = false)
      ∧ (((p .training true).port 11).state = .training ∧ ((p .training true).port 11).trainWait = true)
      ∧ ((p .aligning false).port 11).state = .aligning ∧ (((p .upSpared false).at 0).port 11).isUp = true := by
  decide +kernel

/-- Corrected symbols of a window: those of lane 7 only. -/
def sym7 (n : Nat) : List Nat := [0, 0, 0, 0, 0, 0, 0, n]

theorem sym7_else (n : Nat) : ∀ j, j ≠ 7 → (sym7 n).getD j 0 = 0
  | 0, _ => rfl
  | 1, _ => rfl
  | 2, _ => rfl
  | 3, _ => rfl
  | 4, _ => rfl
  | 5, _ => rfl
  | 6, _ => rfl
  | 7, h => absurd rfl h
  | _ + 8, _ => rfl

/-- The highest lane, and a count one above and one at the threshold; a spare that carries data, and one that is paused. -/
theorem witness_SpareLaneRemap :
    let s := portUp.at 0
    let limit := s.obj Obj.LNK_REMAP_SYM 11
    let m : Remap := { llane := 7, plane := 7, sudden := true, seq := 0 }
    let r := portIs (fun v => { v with state := .up, rxRemap := some m, txRemap := some m, spareOk := true })
    ((s.port 11).isUp = true ∧ (s.port 11).rxSpareUsed = false ∧ (s.port 11).rxRemap = none ∧ (s.port 11).spareOk = true
        ∧ (s.port 11).rxMap.findIdx? (fun x => x == (7 : Fin 9).val) = some 7
        ∧ (s.port 11).rxMap.findIdx? (fun x => x == (6 : Fin 9).val) = some 6 ∧ (7 : Fin 9) ≠ 6
        ∧ limit < (sym7 (limit + 1)).getD 7 0 ∧ (sym7 limit).getD 7 0 ≤ limit)
      ∧ (∀ j, j ≠ 7 → (sym7 (limit + 1)).getD j 0 ≤ limit)
      ∧ ((portUp.port 11).isUp = true ∧ (portUp.port 11).seen 65535 = false ∧ (portUp.port 11).spareOk = true
        ∧ (portUp.port 11).txSpareUsed = false)
      ∧ ((portIs (fun v => { v with seqSeen := [0] })).port 11).seen 0 = true
      ∧ (r.port 11).rxRemap = some m
      ∧ ((r.port 11).txRemap = some m ∧ m.llane = (7 : Fin 8).val ∧ (r.port 11).seen 0 = false) :=
  ⟨by decide +kernel, fun j h => by rw [sym7_else _ j h]; exact Nat.zero_le _, by decide +kernel, by decide +kernel,
    by decide +kernel, by decide +kernel⟩

def frame0 : Frame :=
  { fcsOk := true, daOk := true, tpid := 0x8100, etype := 0x9A71, gver := 1, kind := 0, op := 0x2F, pcp := 2, plen := 4224, bytes := 4260,
    pause8023x := false }

theorem witness_FramesAndPriorityFlowControl :
    let s := portUp.at 0
    let x := portIs (fun v => { v with state := .up, xoff := [2], occ := [(2, 100000000)] })
    let y := portIs (fun v => { v with state := .up, xoff := [2], occ := [(2, 4260)] })
    let z := (portIs (fun v => { v with state := .up, pausedSince := [(7, 10)], pausedTill := [(7, 100000000)] })).at 90000000
    let e := z.at 100000000
    (NMap.get 0 (s.port 11).occ frame0.pcp + frame0.bytes ≤ s.allot 11 frame0.pcp
        ∧ NMap.get 0 (s.port 11).occ frame0.pcp + frame0.bytes < s.xoffAt 11 frame0.pcp
        ∧ frame0.fcsOk = true ∧ frame0.pause8023x = false ∧ frame0.daOk = true ∧ frame0.tpid = 0x8100 ∧ frame0.etype = 0x9A71
        ∧ frame0.gver = 1 ∧ frame0.kind < 2 ∧ 36 + frame0.plen ≤ frame0.bytes ∧ frame0.plen ≤ 4224
        ∧ (s.port 11).isUp = true)
      ∧ ({ frame0 with fcsOk := false } : Frame).fcsOk = false
      ∧ ((x.port 11).isUp = true ∧ (x.port 11).xoff.contains 2 = true ∧ x.xonAt 11 2 < NMap.get 0 (x.port 11).occ 2)
      ∧ ((y.port 11).isUp = true ∧ (y.port 11).xoff.contains 2 = true ∧ NMap.get 0 (y.port 11).occ 2 - 4260 ≤ y.xonAt 11 2)
      ∧ ((z.port 11).isUp = true ∧ 0 < 65535 ∧ 65535 < 65536 ∧ z.now < NMap.get 0 (z.port 11).pausedTill 7)
      ∧ (NMap.get 0 (e.port 11).pausedTill 7 ≤ e.now ∧ NMap.get? (e.port 11).pausedSince 7 = some 10)
      ∧ (e.obj Obj.LNK_STORM_US 11 * 1000 ≤ min e.now (NMap.get 0 (e.port 11).pausedTill 7) - 10 ∧ (e.port 11).degraded.contains 7 = false) := by
  decide +kernel

/-- Two masters, the second the better. -/
def master1 : PtpMaster :=
  { priority1 := 128, clockClass := 6, accuracy := 0x21, variance := 0x4E5D, priority2 := 128, identity := 9, steps := 1, sender := 9 }

def master2 : PtpMaster := { master1 with priority1 := 127, identity := 8, sender := 8 }

/-- MGMT_A, MGMT_B and PPS. -/
theorem witness_TimebaseSources :
    let src := fun (k : Nat) (f : TbSrc → TbSrc) (s : State) => s.setTbSrc k (f (s.tbSrc k))
    let d := (src 1 (fun v => { v with reqAt := some 5, delays := 3, sync := some 4, diff := some 2, master := some master1 }) up).at 10
    let p := (src 3 (fun v => { v with second := some 7, good := 4 }) up).at 10
    let l := fun (s : State) => ({ s with tb := { s.tb with state := .locked, selected := 1 } } : State).at 10
    let two := l (src 2 (fun v => { v with qualified := true }) (src 1 (fun v => { v with qualified := true }) up))
    TbSource.mgmtA ≠ .pps ∧ 255 ≠ d.obj Obj.TB_PTP_DOMAIN 0
      ∧ (d.tbSrc 1).sync = some 4
      ∧ ((d.tbSrc 1).reqAt = some 5 ∧ (d.tbSrc 1).diff = some 2 ∧ d.tb.selected ≠ 1 ∧ 4 ≤ (d.tbSrc 1).delays + 1)
      ∧ ((p.tbSrc 1).master = none ∧ (d.tbSrc 1).master = some master1 ∧ master1.sender = master1.sender
        ∧ master1.sender ≠ master2.sender ∧ betterMaster master2 master1 = true ∧ (d.tbSrc 1).qualified = false
        ∧ betterMaster { master1 with sender := 8, identity := 10 } master1 = false)
      ∧ ((p.tbSrc 3).second = some 7 ∧ p.tb.ppsAt = none ∧ 4 ≤ (p.tbSrc 3).good ∧ (p.tbSrc 1).lastDelay = none ∧ (p.tbSrc 2).lastDelay = none)
      ∧ ((l up).tb.state = .locked ∧ (l up).tb.selected = srcNo .mgmtA
        ∧ ((l up).setTbSrc 1 ((l up).tbSrc 1).fallen).bestSrc = 0)
      ∧ (two.tb.state = .locked ∧ two.tb.selected = srcNo .mgmtA ∧ (two.setTbSrc 1 (two.tbSrc 1).fallen).bestSrc = 2) := by
  decide +kernel

/-- A holdover just short of its length and at it; the ends of the object's range. -/
theorem witness_HoldoverAndPpsOut :
    let h := fun (t : Nat) => ({ up with tb := { up.tb with state := .holdover, holdoverAt := 1 } } : State).at t
    let len := up.obj Obj.TB_HOLDOVER_S 0 * 1000000000
    ((h (len + 1)).tb.state = .holdover
        ∧ (h (len + 1)).obj Obj.TB_HOLDOVER_S 0 * 1000000000 ≤ (h (len + 1)).now - (h (len + 1)).tb.holdoverAt)
      ∧ (h len).now - (h len).tb.holdoverAt < (h len).obj Obj.TB_HOLDOVER_S 0 * 1000000000
      ∧ (up.running = true ∧ up.isPriv (.mailbox 16) = true ∧ inRange Obj.TB_HOLDOVER_S 3600 = true
        ∧ inRange Obj.TB_HOLDOVER_S 3601 = false)
      ∧ (up.at 3000000000).now % 1000000000 = 0 := by
  decide +kernel

/-! ## Chapter 10 -/

def wqe0 : Wqe :=
  { signal := true, flush := false, flag := false, dstMod := 7, dq := 0, wrid := 0, laddr := 0x2000, lkey := 0x1000001, len := 8192,
    raddr := 0, rkey := 1, imm := 0, wcq := 0, wcount := 0, reserved := false }

def buf0 : QEntry :=
  { n := 0, w := wqe0, op := 0, epoch := 1, tag := 0, fgen := 0, ended := none, bytes := 0, missing := 0, imm := none, acked := false, src := 7, sq := 6 }

/-- A queue of receive buffers whose ring holds one, of the registration's length. -/
def rq0 : Queue := { Queue.reset with state := 1, typ := 1, logSize := 6, tail := 1 }

/-- A packet of each opcode, the last PSN of the space, and data that ends at the registration's end. -/
theorem witness_PacketsAccepted :
    let s := net.at 10
    let q := (net.setQueue 4 { Queue.reset with state := 1, typ := 1, entries := [buf0] }).at 10
    let b := ((net.setQueue 4 rq0).winWrite 0 0x10 (toBytes 8 0x2000 ++ toBytes 4 0x1000001 ++ toBytes 4 8192)).at 10
    let e : QEntry := { buf0 with op := 5, tag := 0, missing := 8192 }
    let d := (net.setQueue 6 { Queue.reset with state := 1, entries := [e] }).at 10
    let p := { pkt0 with addr := 0x3000 }
    let o := { pkt0 with addr := 0x1000 }
    let m : Pkt := { pkt0 with first := true, addr := 0 }
    Arrives s 11 3 p rx0 ∧ Arrives s 11 3 { p with last := true, tag := 1 } rx0 ∧ (p.relaxed = false ∧ p.last = false
        ∧ regCheck s p.rkey p.keyId p.addr p.data.length .write = none
        ∧ s.vWritable (s.reg (bitsOf p.rkey 0 16)).pallet p.addr p.data.length = true
        ∧ s.vHostLds (s.reg (bitsOf p.rkey 0 16)).pallet p.addr p.data.length = [])
      ∧ Arrives b 11 1 m rx0 ∧ Arrives b 11 2 m rx0 ∧ (b.trn.missed = [] ∧ m.relaxed = false ∧ m.first = true ∧ m.last = false
        ∧ boundTo (b.queue 4) m = none ∧ (b.queue 4).state = 1 ∧ (b.queue 4).typ = 1
        ∧ sameTenant b m.keyId (b.queue 4).keyId = true ∧ (b.queue 4).head ≠ (b.queue 4).tail ∧ b.stalledQueue 4 = false
        ∧ postedBuffer b (b.queue 4) = (0x2000, 0x1000001, 8192, 0) ∧ msgLen m ≤ 8192
        ∧ regCheck b 0x1000001 (b.queue 4).keyId 0x2000 8192 .localWrite = none
        ∧ (b.reg (bitsOf 0x1000001 0 16)).pallet = (b.queue 4).pallet ∧ b.vWritable 0 0x2000 8192 = true)
      ∧ Arrives q 11 1 o rx0 ∧ Arrives q 11 2 o rx0 ∧ Arrives q 11 4 p rx0
      ∧ ((q.queue p.dq).place = 0 ∧ q.trn.missed = [] ∧ p.first = false ∧ boundTo (q.queue p.dq) p = some buf0
        ∧ boundTo (q.queue o.dq) o = some buf0
        ∧ regCheck q buf0.w.lkey (q.queue o.dq).keyId (buf0.w.laddr + o.addr) o.data.length .localWrite = none
        ∧ regCheck q p.rkey p.keyId p.addr p.data.length .write = none
        ∧ q.vWritable (q.reg (bitsOf p.rkey 0 16)).pallet p.addr p.data.length = true)
      ∧ Arrives s 11 5 pkt0 rx0 ∧ (regCheck s pkt0.rkey pkt0.keyId pkt0.addr pkt0.aux .read = none ∧ 0 < pkt0.aux
        ∧ s.vMapped (s.reg (bitsOf pkt0.rkey 0 16)).pallet pkt0.addr pkt0.aux = true
        ∧ s.vHostLds (s.reg (bitsOf pkt0.rkey 0 16)).pallet pkt0.addr pkt0.aux = [])
      ∧ SendsOn s pkt0.srcMod pkt0.cls pkt0.epoch 0 flow0
      ∧ Arrives s 11 6 pkt0 rx0 ∧ readEntry s pkt0.tag pkt0.srcMod = none
      ∧ Arrives d 11 6 pkt0 rx0 ∧ (readEntry d pkt0.tag pkt0.srcMod = some (6, e) ∧ pkt0.status = .ok
        ∧ regCheck d e.w.lkey (d.queue 6).keyId e.w.laddr e.w.len .localWrite = none ∧ pkt0.data.length < e.missing) :=
  ⟨arrives_of (by decide +kernel), arrives_of (by decide +kernel), by decide +kernel, arrives_of (by decide +kernel),
    arrives_of (by decide +kernel), by decide +kernel, arrives_of (by decide +kernel), arrives_of (by decide +kernel),
    arrives_of (by decide +kernel), by decide +kernel, arrives_of (by decide +kernel), by decide +kernel,
    sendsOn_of (by decide +kernel), arrives_of (by decide +kernel), by decide +kernel, arrives_of (by decide +kernel),
    by decide +kernel⟩

/-- No entry; an older incarnation; the furthest duplicate; the furthest packet ahead; another module; a bad trailer. -/
theorem witness_PacketsOutOfPlace :
    let s := net.at 10
    let bad : Pkt := { pkt0 with icv := .checked false }
    ((s.port 11).isUp = true ∧ pkt0.dstMod = s.moduleNum ∧ s.moduleNum ≠ 0xFFFF ∧ pkt0.keyId = 0
        ∧ s.icvOk 3 (s.rxExt pkt0) pkt0 = true ∧ s.age pkt0 + s.delta ≤ 500000 ∧ s.dead pkt0.srcMod = false)
      ∧ (NMap.get? s.trn.rx (rxKey 7 4) = none ∧ pkt0.openF = false)
      ∧ (NMap.get? s.trn.rx (rxKey 7 3) = some rx0 ∧ 99 < rx0.flowT)
      ∧ 2 ^ 23 ≤ psnDist rx0.expected (2 ^ 23 - 1) ∧ (0 < psnDist rx0.expected (2 ^ 23 - 2)
        ∧ psnDist rx0.expected (2 ^ 23 - 2) < 2 ^ 23 ∧ rx0.nakFor = none)
      ∧ 6 ≠ s.moduleNum ∧ s.icvOk 3 (s.rxExt bad) bad = false := by
  decide +kernel

/-- A flow with two single-packet messages outstanding, the first at the last PSN. -/
def held (psn : Nat) : Held := { op := 6, pkt := { pkt0 with psn := psn, last := true, data := [] }, purpose := .response, sent := 1 }

def flowU : Flow := { flow0 with unacked := [held (2 ^ 24 - 1), held 0], acked := true }

/-- An answer to it. -/
def ans (ack : Nat) : Pkt := { pkt0 with data := [], flow := 0, flowT := 50, ackPsn := ack }

theorem witness_AnswersAtSender :
    let s := (net.setFlow 0 flowU).at 10
    let e := { buf0 with w := { wqe0 with flush := true } }
    let z := ({ s with trn := { s.trn with queues := [(8, { s.queue 8 with entries := [e] })] } } : State)
    (Answers s 11 7 (ans 1) flowU ∧ Answers s 11 8 (ans 1) flowU ∧ Answers s 11 (8 + 256) (ans (2 ^ 24 - 1)) flowU
        ∧ Answers s 11 (8 + 256 * 2) (ans 1) flowU ∧ Answers s 11 (8 + 256 * 3) (ans 0) flowU)
      ∧ Answers z 11 9 (ans 1) flowU ∧ (flowU.unacked = held (2 ^ 24 - 1) :: [held 0] ∧ flowU.queued = [])
      ∧ (0 < psnDist (2 ^ 24 - 1) 1 ∧ psnDist (2 ^ 24 - 1) 1 ≤ flowU.unacked.length
        ∧ (∀ g ∈ flowU.unacked.take (psnDist (2 ^ 24 - 1) 1), g.pkt.last = true)
        ∧ (∀ g ∈ flowU.unacked.take (psnDist (2 ^ 24 - 1) 1), g.purpose = .response) ∧ flowU.part = [])
      ∧ psnDist (2 ^ 24 - 1) (2 ^ 24 - 1) = 0
      ∧ (0 = (2 ^ 24 - 1 + 1) % 2 ^ 24 ∧ (ans 0).status ≠ .epochStale ∧ (held (2 ^ 24 - 1)).purpose = .response)
      ∧ (z.trn.queues = [(8, { z.queue 8 with entries := [e] })] ∧ e.w.flush = true ∧ e.tag = (ans 1).tag
        ∧ e.w.dstMod = (ans 1).srcMod ∧ e.ended = none ∧ (ans 1).status = .ok) :=
  ⟨⟨answers_of (by decide +kernel), answers_of (by decide +kernel), answers_of (by decide +kernel), answers_of (by decide +kernel),
    answers_of (by decide +kernel)⟩, answers_of (by decide +kernel), by decide +kernel⟩

/-- Each timer at its boundary. -/
theorem witness_FlowTimers :
    let s := (net.setFlow 0 { flowU with backoffTill := none }).at 8000
    let old := (net.setFlow 0 flowU).at 400001
    let idle := net.at (net.obj Obj.TRN_FLOW_IDLE_NS 0)
    let w := ({ net with trn := { net.trn with flows := [], waiting := [(7, 2, 0, [held 0])] } } : State)
    let e := ({ net with tb := { net.tb with state := .freerun } } : State)
    (s.flow? 0 = some { flowU with backoffTill := none } ∧ flowU.queued = [] ∧ flowU.unacked ≠ [] ∧ 8000 ≤ s.now - flowU.lastSent
        ∧ flowU.expiries + 1 < s.obj Obj.TRN_RETRY_MAX 0)
      ∧ ((net.at 1000000).flow? 0 = some flow0 ∧ flow0.backoffTill = some 1000000 ∧ 1000000 ≤ (net.at 1000000).now)
      ∧ (old.flow? 0 = some flowU ∧ flowU.part = [] ∧ (∀ h ∈ flowU.unacked, h.purpose = .response)
        ∧ ∃ h ∈ flowU.unacked, 0 < h.sent ∧ 400000 < old.age h.pkt)
      ∧ (idle.flow? 0 = some flow0 ∧ flow0.unacked = [] ∧ idle.obj Obj.TRN_FLOW_IDLE_NS 0 ≤ idle.now - flow0.lastBusy)
      ∧ (w.trn.waiting = (7, 2, 0, held 0 :: []) :: [] ∧ w.flowOf 7 2 0 = none ∧ NMap.get? w.trn.flows 0 = none)
      ∧ (NMap.get? (e.at (2 ^ 33)).trn.rx (rxKey 7 3) = some rx0 ∧ rx0.m + 500000 + (e.at (2 ^ 33)).delta ≤ (e.at (2 ^ 33)).now) := by
  decide +kernel

theorem witness_QueueContexts :
    let m : QModify := { typ := 2, relaxed := false, pallet := 0, cls := 3, keyId := 0, cqn := 0, logSize := 16, ring := 0, reserved := false }
    let q := fun (f : Queue → Queue) => (net.setQueue 9 (f Queue.reset)).at (10 ^ 10)
    let sq := q (fun v => { v with state := 1, ld := 16, logSize := 6, head := 2 ^ 32 - 1 })
    let nop := sq.winWrite 16 (63 * 64) [0x21]
    let cq := q (fun v => { v with state := 1, typ := 2, ld := 16, logSize := 6, tail := 3 })
    let hbm := q (fun v => { v with state := 1, place := 1, ld := 2 })
    let idle := (hbm.setObj Obj.TRN_CTX_HOST 2 (256 * 2 ^ 64)).onLd 2 (fun l => { l with busMaster := true })
    let f := q (fun v => { v with state := 1, place := 2, fetching := true })
    (net.running = true ∧ net.isPriv (.mailbox 16) = true ∧ (net.queue 9).state = 0 ∧ net.ownsPallet 16 m.pallet = true
        ∧ m.keyId = 0 ∧ qmodValid m net 16 = true ∧ net.cachedQueues.length < 16384)
      ∧ (q (fun v => { v with state := 3 })).running = true ∧ ((q (fun v => { v with state := 3 })).queue 9).state = 3
      ∧ ((sq.queue 9).state = 1 ∧ (sq.queue 9).entries = [] ∧ (sq.queue 9).outst = 0 ∧ (sq.queue 9).held = [])
      ∧ ((sq.queue 9).typ = 0 ∧ (sq.queue 9).ld = 16 ∧ (sq.queue 9).place = 0 ∧ sq.trn.missed = [] ∧ 63 < 2 ^ 32
        ∧ (63 + 2 ^ 32 - (sq.queue 9).head) % 2 ^ 32 ≤ (sq.queue 9).size
        ∧ (sq.winNat 16 ((sq.queue 9).ring + (sq.queue 9).head % (sq.queue 9).size * 64) 1 = 0 ∧ (sq.queue 9).waits = none
          ∧ (sq.queue 9).relaxed = false ∧ sq.stalledQueue 9 = false)
        ∧ nop.winNat 16 ((nop.queue 9).ring + (nop.queue 9).head % (nop.queue 9).size * 64) 1 = 0x21)
      ∧ ((cq.queue 9).state = 1 ∧ (cq.queue 9).typ = 2 ∧ (cq.queue 9).ld = 16 ∧ (cq.queue 9).held = []
        ∧ ((cq.queue 9).tail + 2 ^ 32 - (2 ^ 32 - 61)) % 2 ^ 32 ≤ (cq.queue 9).size)
      ∧ (cq.queue 9).ld ≠ 3
      ∧ ((f.queue 9).fetching = true ∧ (∀ d ∈ f.host.dmas, d.purpose ≠ .context 9) ∧ f.trn.missed = []
        ∧ f.cachedQueues.length < 16384)
      ∧ ((idle.queue 9).place = 1 ∧ (idle.queue 9).fetching = false
        ∧ idle.obj Obj.TRN_CTX_IDLE_US 0 * 1000 ≤ idle.now - (idle.queue 9).lastUse
        ∧ leastBelow (idle.objField Obj.TRN_CTX_HOST (idle.queue 9).ld 8 8 / 256) (fun k =>
            idle.trn.queues.all (fun e => !(e.2.place == 2 && e.2.ld == (idle.queue 9).ld && e.2.hostSlot == k))) = some 0
        ∧ (idle.ld (idle.queue 9).ld).busMaster = true) := by
  decide +kernel

/-- Queue 9 with one entry in its ring, of the longest length its registration has. -/
theorem witness_WorkQueueEntries :
    let w := wqe0
    let c := { w with wcq := 10, wcount := 1 }
    let s := (net.setQueue 9 { Queue.reset with state := 1, tail := 1, logSize := 6, cls := 2, cqn := 10 }).at 10
    let s := s.setQueue 10 { Queue.reset with state := 1, typ := 2 }
    let d := s.onQueue 9 (fun v => { v with waits := some (10, 0), head := 1 })
    let ew : QEntry := { buf0 with op := 0x20 }
    let x := d.onQueue 9 (fun v => { v with entries := [ew] })
    ((s.queue 9).place = 0 ∧ mayStart s 9 1 w = true ∧ mayStart s 9 2 w = true ∧ mayStart s 9 3 w = true ∧ mayStart s 9 4 w = true
        ∧ mayStart s 9 5 w = true ∧ wqeValid w 1 = true ∧ wqeValid w 2 = true ∧ wqeValid w 3 = true ∧ wqeValid w 4 = true
        ∧ wqeValid w 5 = true ∧ 0 < w.len ∧ regCheck s w.lkey (s.queue 9).keyId w.laddr w.len .localRead = none
        ∧ regCheck s w.lkey (s.queue 9).keyId w.laddr w.len .localWrite = none
        ∧ (s.reg (bitsOf w.lkey 0 16)).pallet = (s.queue 9).pallet ∧ (s.reg (bitsOf w.lkey 0 16)).ld = (s.queue 9).ld
        ∧ s.vHostLds (s.reg (bitsOf w.lkey 0 16)).pallet w.laddr w.len = []
        ∧ s.vMapped (s.reg (bitsOf w.lkey 0 16)).pallet w.laddr w.len = true
        ∧ s.vWritable (s.reg (bitsOf w.lkey 0 16)).pallet w.laddr w.len = true
        ∧ s.dead w.dstMod = false ∧ (s.portsOf s.curEpoch w.dstMod).isSome = true ∧ s.flowFor w.dstMod (s.queue 9).cls = some 0
        ∧ s.flow? 0 = some flow0 ∧ s.flowAwaited w.dstMod (s.queue 9).cls 0 = false ∧ flow0.backoffTill.isSome = true
        ∧ (s.queue 9).relaxed = false ∧ ((s.queue 9).head + 1) % 2 ^ 32 = (s.queue 9).tail)
      ∧ (mayStart s 9 0x20 c = true ∧ wqeValid c 0x20 = true ∧ c.wcq ≠ 9 ∧ (s.queue c.wcq).typ = 2
        ∧ (s.queue c.wcq).ld = (s.queue 9).ld ∧ (s.queue c.wcq).pallet = (s.queue 9).pallet ∧ waitDone s c.wcq c.wcount = false)
      ∧ ((d.queue 9).waits = some (10, 0) ∧ waitDone d 10 0 = true ∧ (∀ e ∈ (d.queue 9).entries, e.op ≠ 0x20 ∨ e.ended.isSome = true)
        ∧ (d.queue 9).head = (d.queue 9).tail)
      ∧ ((x.queue 9).waits = some (10, 0) ∧ waitDone x 10 0 = true ∧ (x.queue 9).entries = [ew] ∧ ew.op = 0x20 ∧ ew.ended = none
        ∧ (x.queue 9).cqn ≠ 9 ∧ (x.queue 9).head = (x.queue 9).tail)
      ∧ (mayStart s 9 0x21 w = true ∧ wqeValid w 0x21 = true ∧ (s.queue 9).entries = [] ∧ (s.queue 9).cqn ≠ 9) := by
  decide +kernel

theorem witness_Registrations :
    let s := (net.setRing 16 63 cmdRing).at 600000
    let r := fun (k : Nat) => s.setReg 1 { reg1 with state := k, ld := 16 }
    ((takeEntry s 16 63).isSome = true ∧ 15 < 16 ∧ (2 ^ 48 - 64) % 64 = 0 ∧ 64 % 64 = 0 ∧ 0 < 64 ∧ 2 ^ 48 - 64 + 64 ≤ 2 ^ 48
        ∧ s.ownsPallet 16 0 = true ∧ leastBelow 65536 (fun j => (NMap.get? s.trn.regs j).isNone) = some 0)
      ∧ ((takeEntry (r 1) 16 63).isSome = true ∧ bitsOf 0x1000001 0 16 = 1 ∧ ((r 1).reg 1).ld = 16 ∧ ((r 1).reg 1).state = 1
        ∧ ((r 1).reg 1).gen = bitsOf 0x1000001 16 12)
      ∧ (((r 2).reg 1).state = 2 ∧ ((r 2).reg 1).inflight = 0)
      ∧ (((r 3).reg 1).state = 3 ∧ ((r 3).reg 1).tDrained + 500000 ≤ (r 3).now) := by
  decide +kernel

/-! ## Chapter 11 -/

theorem witness_MapStagedCommittedPurged :
    let two := { net with rmf := { net.rmf with epochs := [{ number := 1, slot := 0 }, { number := 2, slot := 1 }] } }
    let busy := two.setPallet 0 { Pallet.reset with state := .running, run := some { run0 with epoch := 1 } }
    Served net (.mailbox 16) ∧ (mapValid (modRec 65535) = true ∧ (modRec 65535).remove = false)
      ∧ (∃ i < 1024 * net.tableBlocks 0, NMap.get? net.rmf.entries i = none)
      ∧ (commitOk net 2 = true ∧ net.epochSlot 2 = none) ∧ commitOk net 1 = false
      ∧ (two.rmf.epochs = { number := 1, slot := 0 } :: { number := 2, slot := 1 } :: [] ∧ inFlight two 1 = 0)
      ∧ (busy.rmf.epochs = { number := 1, slot := 0 } :: { number := 2, slot := 1 } :: [] ∧ inFlight busy 1 ≠ 0) :=
  ⟨⟨by decide +kernel, by decide +kernel⟩, by decide +kernel, ⟨4, by decide +kernel, by decide +kernel⟩, by decide +kernel,
    by decide +kernel, by decide +kernel, by decide +kernel⟩

/-- A command on the region whose HOME is module 7, and a module whose flow to it is of a class. -/
def rackCmd (len : Nat) : RackCmd :=
  { aop := 6, w64 := true, region := 10, offset := 64, laddr := 0x200000 - len, len := len, opnd1 := 1, opnd2 := 2, arrId := 0x1FFFF,
    arrTag := 0 }

def netCls (c : Nat) : State := { net with trn := { net.trn with flows := [(0, { flow0 with cls := c })] } }

theorem witness_RackCommands :
    let s := (netCls 3).at 5
    let b := (netCls 2).at 5
    let q := { net with rmf := { net.rmf with rack := [(15, { RackSlot.reset with busy := true })] } }
    let g : MapRecord := { region9 with key := 10, home := 7 }
    SendsOn s g.home 3 (s.stepEpoch ((s.palletOf 0).getD 0)) 0 { flow0 with cls := 3 }
      ∧ SendsOn b g.home 2 (b.stepEpoch ((b.palletOf 0).getD 0)) 0 { flow0 with cls := 2 }
      ∧ ((s.rackSlot 0 15).busy = false ∧ s.record? (s.stepEpoch ((s.palletOf 0).getD 0)) 2 10 = some g
        ∧ b.record? (b.stepEpoch ((b.palletOf 0).getD 0)) 2 10 = some g
        ∧ rackValid 1 (rackCmd 4096) = true ∧ rackValid 2 (rackCmd 4096) = true ∧ rackValid 3 (rackCmd 0) = true
        ∧ rackValid 4 (rackCmd 262144) = true ∧ rackValid 5 (rackCmd 262144) = true
        ∧ 64 % rackAlign 1 (rackCmd 4096) = 0 ∧ 64 % rackAlign 3 (rackCmd 0) = 0 ∧ 64 % rackAlign 5 (rackCmd 262144) = 0)
      ∧ ((q.at 5).rackSlot 0 15).busy = true :=
  ⟨sendsOn_of (by decide +kernel), sendsOn_of (by decide +kernel), by decide +kernel, by decide +kernel⟩

/-- A packet that names region 9 at its last bytes. -/
def rackPkt (addr aux len : Nat) : Pkt := { pkt0 with addr := addr, aux := aux, data := List.replicate len 3, cls := 3 }

/-- A module that holds the home register of RID 77. -/
def homeReg0 : HomeReg :=
  { handle := 8193, homeMod := 5, homeSeq := 4, copyVer := 0, cstep := 3, tHome := 0, primary := true, backup := 0xFFFF, peer := 0xFFFF,
    waiting := [] }

def homed (s : State) : State := s.setHome 77 homeReg0

theorem witness_RackPacketsAtHome :
    let s := (netCls 3).at 10
    let b := (netCls 2).at 10
    let put : Pkt := { rackPkt 4096 0 4096 with last := true, imm := 64 }
    (Arrives s 11 0x22 (rackPkt 4096 0 4096) rx0 ∧ RackHere s 9 0x22 4096 (rackPkt 4096 0 4096) region9)
      ∧ (Arrives s 11 0x28 (rackPkt 4096 0 4096) rx0 ∧ RackHere s 9 0x28 4096 (rackPkt 4096 0 4096) region9
        ∧ (rackPkt 4096 0 4096).last = false)
      ∧ (Arrives s 11 0x28 put rx0 ∧ RackHere s 9 0x28 4096 put region9 ∧ put.last = true ∧ bitsOf put.imm 0 17 ≠ 0x1FFFF)
      ∧ (Arrives s 11 0x20 (rackPkt 0 8192 0) rx0 ∧ RackHere s 9 0x20 8192 (rackPkt 0 8192 0) region9
        ∧ SendsOn s 7 3 1 0 { flow0 with cls := 3 } ∧ s.homeAt 9 0 = none
        ∧ (homed s).homeAt Config.homeRegion (Config.homeOffset 77) = some homeReg0)
      ∧ (Arrives b 11 0x29 (rackPkt 0 8192 0) rx0 ∧ RackHere b 9 0x29 8192 (rackPkt 0 8192 0) region9
        ∧ SendsOn b 7 2 1 0 flow0)
      ∧ (Arrives s 11 0x23 (rackPkt 8184 16 16) rx0 ∧ RackHere s 9 0x23 8 (rackPkt 8184 16 16) region9
        ∧ s.vInHbm 0 (region9.base + 8184) 8 = true)
      ∧ s.record? 1 2 11 = none :=
  ⟨⟨arrives_of (by decide +kernel), rackHere_of (by decide +kernel)⟩,
    ⟨arrives_of (by decide +kernel), rackHere_of (by decide +kernel), by decide⟩,
    ⟨arrives_of (by decide +kernel), rackHere_of (by decide +kernel), by decide, by decide⟩,
    ⟨arrives_of (by decide +kernel), rackHere_of (by decide +kernel), sendsOn_of (by decide +kernel),
      by rw [State.homeAt, show ((netCls 3).at 10).req.homes = [] by decide +kernel]; simp,
      by rw [State.homeAt, show (homed ((netCls 3).at 10)).req.homes = [(77, homeReg0)] by decide +kernel]; simp⟩,
    ⟨arrives_of (by decide +kernel), rackHere_of (by decide +kernel), sendsOn_of (by decide +kernel)⟩,
    ⟨arrives_of (by decide +kernel), rackHere_of (by decide +kernel), by decide +kernel⟩, by decide +kernel⟩

/-- A LOAD, a GET and an ATOMIC in progress at slot 15 of brick 0. -/
def rackSlot1 (op : Nat) : RackSlot :=
  { op := op, cmd := rackCmd 64, busy := true, complete := false, status := 0, result := 0, dst := 7, tag := 0, epoch := 1, missing := 64,
    core := 0, pallet := 0 }

def netRack (op : Nat) : State := { net with rmf := { net.rmf with rack := [(15, rackSlot1 op)], aborted := [(1, 2, 3, 4)] } }

def abortHeld : Held :=
  { op := 0x30, pkt := { pkt0 with data := List.replicate 24 0 ++ [5, 0] ++ List.replicate 38 0 }, purpose := .abort 1 2 3, sent := 1 }

theorem witness_RackAnswersAndAborts :
    let p := rackPkt 32 0 32
    let a : CollAbort := { gid := 9, reason := .timeout, step := 3, rid := 2, tDetect := 0, origin := 7 }
    let f := { flow0 with unacked := [abortHeld] }
    let u := (net.setFlow 0 f).at 50000
    let r := (stepOf net id id).onPallet 0 (fun v => { v with loaded := some loaded0 })
    let g : MapRecord := { mod7 with kind := 3, key := 9, members := [5, 7], rid := 2 }
    let k := { net with rmf := { net.rmf with entries := net.rmf.entries ++ [(4, ({ record := g, emask := 1, staged := false, drop := false } : CompEntry))] } }
    Arrives ((netRack 1).at 10) 11 0x21 p rx0 ∧ Arrives ((netRack 5).at 10) 11 0x2A p rx0 ∧ Arrives ((netRack 3).at 10) 11 0x24 p rx0
      ∧ (rackOf ((netRack 1).at 10) [1] p = some (0, 15, rackSlot1 1) ∧ rackOf ((netRack 5).at 10) [5] p = some (0, 15, rackSlot1 5)
        ∧ rackOf ((netRack 3).at 10) [3] p = some (0, 15, rackSlot1 3) ∧ ((netRack 1).at 10).rackSlot 0 15 = rackSlot1 1
        ∧ (∀ m ∈ ((netRack 1).at 10).req.out, m.state = .check → m.checkTag ≠ p.tag)
        ∧ p.data.length ≤ (rackSlot1 1).missing ∧ p.addr + p.data.length ≤ (rackSlot1 1).cmd.len)
      ∧ Served net (.mailbox 16)
      ∧ (Arrives ((netRack 1).at 10) 11 0x30 p rx0
        ∧ ∃ x ∈ ((netRack 1).at 10).rmf.aborted, x.2.1 = a.rid ∧ x.2.2.1 = a.step)
      ∧ (Arrives (net.at 10) 11 0x30 p rx0 ∧ (∀ x ∈ (net.at 10).rmf.aborted, x.2.1 ≠ a.rid ∨ x.2.2.1 ≠ a.step)
        ∧ (net.at 10).groupOf (net.at 10).curEpoch a.rid = none ∧ (net.at 10).byRid a.rid = none)
      ∧ (Arrives (r.at 10) 11 0x30 p rx0 ∧ (r.at 10).groupOf (r.at 10).curEpoch 77 = none
        ∧ (r.at 10).byRid 77 = some (2, req0) ∧ (r.at 10).entryOf 0 2 = some (0, entry0) ∧ entry0.d.step = a.step
        ∧ (r.at 10).req.calls = [] ∧ ((r.at 10).pallet 0).loaded.isSome = true)
      ∧ (Arrives (k.at 10) 11 0x30 p rx0 ∧ ((k.at 10).groupOf (k.at 10).curEpoch 2).isSome = true ∧ (k.at 10).byRid 2 = none)
      ∧ (u.trn.flows = [(0, f)] ∧ abortHeld ∈ f.unacked ∧ abortHeld.purpose = .abort 1 2 3
        ∧ ofBytes ((abortHeld.pkt.data.drop 24).take 2) = u.moduleNum
        ∧ ofBytes ((abortHeld.pkt.data.drop 16).take 8) + 50000 ≤ u.now) :=
  ⟨arrives_of (by decide +kernel), arrives_of (by decide +kernel), arrives_of (by decide +kernel), by decide +kernel,
    ⟨by decide +kernel, by decide +kernel⟩, ⟨arrives_of (by decide +kernel), by decide +kernel⟩,
    ⟨arrives_of (by decide +kernel), by decide +kernel⟩, ⟨arrives_of (by decide +kernel), by decide +kernel⟩,
    ⟨arrives_of (by decide +kernel), by decide +kernel⟩, by decide +kernel⟩

/-! ## Chapters 12, 13 and 16 -/

def unsent0 : Held := { held 0 with sent := 0 }

def flowQ : Flow := { flow0 with queued := [unsent0], backoffTill := none, shaper := 0x1FFF }

def order0 : OrderEntry := { vft := 2 ^ 62, domain := 16 + 11, eligible := true, entity := 0 }

theorem witness_FairQueueing :
    let s := (({ (net.setFlow 0 flowQ) with asc := { net.asc with order := [(0, [order0])] } } : State)).at 9
    let m := { net with asc := { net.asc with order := [(0, [order0, order0])] } }
    let m := m.setObj Obj.ASC_ORDER_SLACK 0 1023
    let r := { net with asc := { net.asc with v := [(27, 2 ^ 62), (26, 2 ^ 62 - 1)] } }
    ((NMap.get 0 net.asc.v 15 = 0 ∧ net.orderCount < net.tableBlocks 1 * 1024 ∧ (net.orderBlock 0).length < 1024)
        ∧ net.flow? 0 = some flow0)
      ∧ (m.orderBlock 0 = [order0] ++ [order0] ∧ [order0].length < 1024 ∧ 1023 < m.obj Obj.ASC_ORDER_SLACK 0 + [order0].length
        ∧ 0 + 1 < m.tableBlocks 1 ∧ (m.orderBlock (0 + 1)).length < [order0].length ∧ m.asc.waiting = [])
      ∧ (2 ^ 62 ≤ NMap.get 0 r.asc.v 27 ∧ r.asc.order = [] ∧ r.asc.waiting = []) ∧ NMap.get 0 r.asc.v 26 < 2 ^ 62
      ∧ ((net.at 9).port 0).isUp = false
      ∧ ((s.port 11).isUp = true ∧ s.asc.order = [(0, [order0])] ∧ s.asc.waiting = [] ∧ order0.domain = 16 + 11 ∧ order0.eligible = true
        ∧ s.flow? order0.entity = some flowQ ∧ flowQ.port = 11 ∧ s.paused 11 flowQ.cls = false ∧ flowQ.queued = [unsent0]
        ∧ unsent0.sent = 0 ∧ unsent0.op ≠ 0x11 ∧ s.dead unsent0.pkt.dstMod = false
        ∧ flowQ.unacked = [] ∧ flowQ.backoffTill = none ∧ flowQ.shaper = 0x1FFF ∧ 0 < s.obj Obj.TRN_WINDOW 0) := by
  decide +kernel

theorem witness_ShaperRefill :
    let p := net.obj Obj.SCH_REFILL_NS 0
    ((net.at p).now % (net.at p).obj Obj.SCH_REFILL_NS 0 = 0 ∧ (∀ g ∈ (net.at p).dict.groups, g.point ≠ .refill))
      ∧ (net.at (p + 1)).now % (net.at (p + 1)).obj Obj.SCH_REFILL_NS 0 ≠ 0 := by
  decide +kernel

/-- Group 3 sets an object of pallet 0. -/
def group0 (point : CommitPoint) (oid v : Nat) : Group :=
  { id := 3, commit := 1, point := point, pallet := some 0, items := [(objKey oid 0, v)] }

def capture (s : State) (g : Group) : State := { s with dict := { s.dict with groups := [g] } }

/-- Pallet 0 of the module with another content, and a captured PAL_IMAGE. -/
def palIs (v : Nat) (f : Pallet → Pallet) : State := capture (net.setPallet 0 (f Pallet.reset)) (group0 .palletIdle Obj.PAL_IMAGE v)

theorem witness_PalletImages :
    let inst : Installed := { addr := 0x2000, manifest := manifest0, length := 0, digest := 0, keyslot := 0 }
    let g := group0 .palletIdle Obj.PAL_IMAGE
    let ready := (palIs 0 (fun q => { q with state := .ready })).at 4
    let empty := (palIs 0x2000 (fun q => { q with installed := [inst] })).at 4
    let none' := (palIs 0x4000 (fun q => { q with installed := [inst] })).at 4
    let c : Change := { target := none, saveSlot := some 3, restoreSlot := none }
    let saving := (palIs 0 (fun q => { q with state := .saving, change := some c, loaded := some loaded0 })).at 4
    let d : Change := { target := some loaded0, saveSlot := none, restoreSlot := none }
    let loading := (palIs 0 (fun q => { q with state := .loading, change := some d, loaded := some loaded0 })).at 4
    let retest := (palIs 0 (fun q => { q with state := .loading, change := some d, loaded := some loaded0, retest := some 41 })).at 4
    let e : Change := { target := some loaded0, saveSlot := none, restoreSlot := some 3 }
    let restore := (palIs 0 (fun q => { q with state := .loading, change := some e, loaded := some loaded0 })).at 4
    (ready.dict.groups.find? (fun g => g.point == .palletIdle && g.pallet == some 0) = some (g 0)
        ∧ (g 0).items = [(objKey Obj.PAL_IMAGE 0, 0)] ∧ (ready.pallet 0).run = none ∧ (ready.pallet 0).state = .ready)
      ∧ (empty.dict.groups.find? (fun g => g.point == .palletIdle && g.pallet == some 0) = some (g 0x2000)
        ∧ (empty.pallet 0).state = .empty ∧ (empty.pallet 0).run = none ∧ bitsOf 0x2000 0 48 ≠ 0 ∧ bitOf 0x2000 76 = false
        ∧ (∀ b ∈ (empty.rect 0).bricks, empty.marked b = false) ∧ loadedFor empty 0 (bitsOf 0x2000 0 48) = some loaded0)
      ∧ ((none'.pallet 0).state = .empty ∧ loadedFor none' 0 (bitsOf 0x4000 0 48) = none)
      ∧ ((saving.pallet 0).state = .saving ∧ (saving.pallet 0).change = some c ∧ c.target = none ∧ c.saveSlot = some 3
        ∧ (saving.pallet 0).loaded = some loaded0 ∧ scratchClean saving 0 = true
        ∧ scratchClean (saving.onBrick 0 (fun k => { k with dirty := [511] })) 0 = false)
      ∧ ((loading.pallet 0).state = .loading ∧ (loading.pallet 0).change = some d ∧ d.target = some loaded0 ∧ d.restoreSlot = none
        ∧ (loading.pallet 0).retest = none ∧ (loading.rect 0).col0 + (loading.rect 0).ncol ≤ 40)
      ∧ (retest.pallet 0).retest = some 41
      ∧ ((restore.pallet 0).change = some e ∧ e.restoreSlot = some 3 ∧ NMap.get? (restore.pallet 0).saves 3 = none) := by
  decide +kernel

theorem witness_CommitsCaptured :
    let s := { net with dict := { net.dict with shadow := [(objKey Obj.ATT_SINK_PAGES 15, 1)] } }
    Served s (.mailbox 16) ∧ (bitsOf 0 0 2 < 2 ∧ ∀ e ∈ s.dict.shadow, ∀ p, palletOfKey e.1 = some p → p < 16) ∧ 2 ≤ bitsOf 3 0 2 := by
  refine ⟨⟨by decide +kernel, by decide +kernel⟩, ⟨by decide +kernel, ?_⟩, by decide +kernel⟩
  intro e he p hp
  have h : e = (objKey Obj.ATT_SINK_PAGES 15, 1) := by simpa using he
  subst h
  have : palletOfKey (objKey Obj.ATT_SINK_PAGES 15) = some 15 := by decide +kernel
  rw [this] at hp; cases hp; decide

theorem witness_ErrorBoundFloor :
    Served net (.mailbox 16) ∧ (15 : Byte).toNat + 256 * (1 : Byte).toNat < 272 ∧ 272 ≤ (16 : Byte).toNat + 256 * (1 : Byte).toNat :=
  ⟨⟨by decide +kernel, by decide +kernel⟩, by decide, by decide⟩

/-- The sum one above the limit, and at it. -/
theorem witness_SelectionSums :
    let sum := net.obj Obj.ATT_SINK_PAGES 0 + net.obj Obj.ATT_RECENT_PAGES 0 + net.obj Obj.ATT_SEL_PAGES 0
    let g := fun (v : Nat) => group0 .stepBoundary Obj.ATT_DENSE_LIMIT v
    let s := fun (v : Nat) => (capture net (g v)).at 4
    let names := [Obj.ATT_SINK_PAGES, Obj.ATT_RECENT_PAGES, Obj.ATT_SEL_PAGES, Obj.ATT_DENSE_LIMIT]
    ((s sum).dict.groups = [g sum] ∧ (g sum).point = .stepBoundary ∧ (g sum).pallet = some (0 : PalletNo).val ∧ (s sum).calm 0 = true
        ∧ (g sum).items ≠ [] ∧ (∀ e ∈ (g sum).items, ∃ oid ∈ names, e.1 = objKey oid 0) ∧ ((g sum).items.map (fun e => e.1)).Nodup)
      ∧ (g sum).obj (s sum) Obj.ATT_SINK_PAGES 0 + (g sum).obj (s sum) Obj.ATT_RECENT_PAGES 0 + (g sum).obj (s sum) Obj.ATT_SEL_PAGES 0
        ≤ (g sum).obj (s sum) Obj.ATT_DENSE_LIMIT 0
      ∧ (g (sum - 1)).obj (s (sum - 1)) Obj.ATT_DENSE_LIMIT 0
        < (g (sum - 1)).obj (s (sum - 1)) Obj.ATT_SINK_PAGES 0 + (g (sum - 1)).obj (s (sum - 1)) Obj.ATT_RECENT_PAGES 0
          + (g (sum - 1)).obj (s (sum - 1)) Obj.ATT_SEL_PAGES 0 := by
  decide +kernel

theorem stepping_unloaded : ∀ q, (stepping.pallet q).loaded = none := by
  intro q
  by_cases h : q = 0
  · subst h; decide +kernel
  · have : stepping.pallet q = Pallet.reset := by
      show (if 0 = q then _ else NMap.get Pallet.reset [] q) = _
      rw [if_neg (Ne.symm h)]; rfl
    rw [this]; rfl

theorem witness_GeometrySets :
    let g := fun (v : Nat) => group0 .geometry Obj.PAL_GEOMETRY v
    let run := fun (v : Nat) => (capture stepping (g v)).at 4
    let idle := fun (v : Nat) => (capture (up.setObj Obj.PAL_GEOMETRY 1 (39 + 1 * 2 ^ 6 + 1 * 2 ^ 17)) (g v)).at 4
    let rects := fun (v : Nat) => (List.range 16).map (fun q => rectOf ((g v).obj (idle v) Obj.PAL_GEOMETRY q))
    let fits := 39 * 2 ^ 6 + 30 * 2 ^ 17
    let clash := 40 * 2 ^ 6 + 30 * 2 ^ 17
    ((run 0).dict.groups.find? (fun g => g.point == .geometry) = some (g 0) ∧ (g 0).items = [(objKey Obj.PAL_GEOMETRY 0, 0)]
        ∧ (g 0).commit ≠ 0 ∧ (∀ q, ((run 0).pallet q).loaded = none) ∧ ((run 0).pallet 0).run ≠ none
        ∧ 0 ≠ (run 0).obj Obj.PAL_GEOMETRY 0)
      ∧ ((∀ q, ((idle fits).pallet q).loaded = none) ∧ ((idle fits).pallet 0).run = none ∧ geometryOk (idle fits) (rects fits) = true)
      ∧ ((∀ q, ((idle clash).pallet q).loaded = none) ∧ ((idle clash).pallet 0).run = none
        ∧ geometryOk (idle clash) (rects clash) = false) :=
  ⟨⟨by decide +kernel, by decide +kernel, by decide +kernel, stepping_unloaded, by decide +kernel, by decide +kernel⟩,
    ⟨fun _ => rfl, by decide +kernel, by decide +kernel⟩, fun _ => rfl, by decide +kernel, by decide +kernel⟩

/-! ## Chapter 07 -/

theorem witness_EccCode : (15 : Fin 16) ≠ 0 ∧ (0 : Fin 20) ≠ 19 := by decide

/-- A good word, one with its last symbol in error, and one with the first and the last; a scrub due and one that is not. -/
theorem witness_ProtectedWords :
    let c := eccEncode 5
    let s := (withReq net req0).at 8
    let z := { s with mem := { s.mem with scrubs := [(7, (0, 7)), (8 + 41, (0, 7))] } }
    eccDecode 5 c = .good ∧ eccDecode 5 (c ^^^ 0xF000) = .corrected 5 ∧ eccDecode (5 ^^^ 15) (c ^^^ 0xF000) = .uncorrectable
      ∧ (NMap.get? s.mem.scrubs 7 = none ∧ NMap.get? s.mem.scrubs (8 + 41) = none)
      ∧ (brickPlace 41 false 0 = brickWord 41 0 ∧ brickPlace 1199 false 0 = brickWord 1199 0 ∧ brickPlace 41 true 0 ≠ brickWord 41 0
        ∧ brickPlace 41 true 0 = brickWord 41 262144)
      ∧ (NMap.get? z.mem.scrubs 7 = some (0, 7) ∧ ¬ 7 + z.obj Obj.MEM_SCRUB_PERIOD 0 * 10 ^ 9 ≤ z.now
        ∧ NMap.get? z.mem.scrubs (8 + 41) = some (0, 7) ∧ ¬ 7 + z.obj Obj.MEM_BRICK_SCRUB_MS 0 * 10 ^ 6 ≤ z.now)
      ∧ (s.request? 2 = some req0 ∧ s.entryOf req0.pallet 2 = none) ∧ s.palletOf 1199 = none
      ∧ (s.palletOf 41 = some 0 ∧ (s.pallet 0).state = .ready ∧ (s.pallet 0).run = none ∧ (s.pallet 0).faulted = false
        ∧ s.trn.queues = []) := by
  decide +kernel

def place0 : PlaceCmd :=
  { pallet := 0, ld := 3, stackMask := 0xFF, npages := 1, va := 0x400000000000, hostPa := 0x6000, tag := 9, reserved := false }

/-- The page of a request's region mapped to frame 5 with the tables on the way to it, and a CMD ring with an entry to take. -/
def placing : State :=
  let s := (net.setLeaf 0 0x400000000000 { leaf0 with target := 5 }).setRing 16 63 cmdRing
  let s := ((s.onLd 3 (fun l => { l with busMaster := true })).setObj Obj.MEM_PREFETCH_KIB 0 8).setObj Obj.MEM_HBM_QUOTA 0 8
  { s with mem := { s.mem with
      tables := [3, 2, 1].map (fun level => (tableKey 0 level 0x400000000000, level)), frames := [(5, 0)] } }

theorem witness_PlacementAndTranslation :
    let s := placing.at 8
    let x : Placement := { id := 4, op := 2, cmd := place0, source := .device, frames := [], switched := false }
    let d := ({ s with mem := { s.mem with placements := [x] } } : State)
    let l := { leaf0 with target := 5 }
    let b := s.onBrick 0 (fun k => { k with dirty := [511] })
    let f := { leaf0 with target := 8 }
    let h := s.setLeaf 0 0x400000000000 { leaf0 with tier := .host, ld := 3 }
    ((takeEntry s 16 63).isSome = true ∧ placeRefusal s 16 1 { place0 with stackMask := 1 } = none ∧ placeRefusal s 16 2 place0 = none
        ∧ (s.ld place0.ld).busMaster = true ∧ atHost s place0 place0.va = false ∧ placeRefusal s 16 3 place0 = none
        ∧ placeRefusal s 16 1 { place0 with npages := 0 } = some .transportError)
      ∧ (d.mem.placements = [x] ∧ x.op = 2 ∧ x.switched = false ∧ x.cmd = place0 ∧ place0.npages = 1 ∧ x.source = .device
        ∧ place0.va = 8192 * 0x200000000 ∧ (d.pallet place0.pallet).run = none ∧ d.host.dmas = []
        ∧ d.leaf? place0.pallet place0.va = some l ∧ l.tier = .hbm ∧ hostCopied d place0 place0.va = true)
      ∧ (s.walk 0 0x400000000000 = some l ∧ h.walk 0 0x400000000000 = some { leaf0 with tier := .host, ld := 3 }
        ∧ (h.ld 3).busMaster = true)
      ∧ ((s.setLeaf 0 0x400000000000 f).leaf? 0 0x400000000000 = some f ∧ f.tier = .hbm ∧ 8 ≤ s.obj Obj.MEM_PREFETCH_KIB 0
        ∧ prefetchBrick (s.setLeaf 0 0x400000000000 f) 0 f.target = some 0)
      ∧ (s.walk 0 0xFFFFFFFFE000 = none ∧ s.palletOf 0 = some 0 ∧ (s.pallet 0).state = .ready ∧ (s.pallet 0).run = none
        ∧ s.trn.queues = [])
      ∧ (511 ∈ (b.brick 0).dirty ∧ b.palletOf 0 = some 0 ∧ 511 ∉ (b.brick 0).again ∧ vRegion 0x200000000000 = .scratch
        ∧ 511 ∈ ((b.onBrick 0 (fun k => { k with again := [511] })).brick 0).again)
      ∧ (stallCause s 0 0 0x400000000000 = 1 ∧ 0 < s.obj Obj.MEM_STALL_NS 0 + 1) :=
  ⟨by decide +kernel, by decide +kernel, by decide +kernel, by decide +kernel, by decide +kernel, by decide +kernel, by decide +kernel⟩
/-! ## Chapters 20 and 02 -/

/-- A state at a stage of the start-up. -/
def stage (st : BootStage) (f : Boot → Boot) : State := { State.reset with boot := f { State.reset.boot with stage := st } }

/-- The edges of each band and of the restart. -/
theorem witness_PowerCycle :
    let c := (stage .cut (fun b => { b with tCut := some 7 }))
    ((c.at 0).boot.stage = .cut ∧ 40000 ≤ 40000 ∧ (c.at 0).boot.tCut = some 7 ∧ (stage .cut id).boot.tCut = none) ∧ up.boot.stage ≠ .cut ∧ (stage .charging id).boot.stage = .charging
      ∧ (stage .converting id).boot.stage = .converting
      ∧ ((c.at 100000007).boot.stage = .cut ∧ (c.at 100000007).boot.tCut = some 7 ∧ 7 + 100000000 ≤ (c.at 100000007).now
        ∧ (c.at 100000006).now < 7 + 100000000)
      ∧ (up.boot.stage.powered = true ∧ (36000 ≤ 39999 ∧ 39999 < 40000) ∧ (60000 < 65000 ∧ 65000 ≤ 65000) ∧ up.boot.excursion = false
        ∧ up.obj Obj.PWR_INPUT_MV 0 < 40000 ∧ 60000 < 65000)
      ∧ (up.boot.stage ≠ .refLost ∧ 10006 < 10007 ∧ 9993 < 9994)
      ∧ (up.boot.stage.operating = true ∧ ∀ p, (up.pallet p).run = none) ∧ up.trn.queues = []
      ∧ (yard.pallet 0).state ≠ .empty :=
  ⟨by decide +kernel, by decide +kernel, by decide +kernel, by decide +kernel, by decide +kernel, by decide +kernel, by decide +kernel,
    ⟨by decide +kernel, fun _ => rfl⟩, by decide +kernel, by decide +kernel⟩

/-- An image of a TYPE, signed with Otnov's key, whose signature verifies or not. -/
def image (typ : Nat) (ok : Bool) (svn : Nat) : ImageCheck :=
  { magic := 0x4A52494D, version := 1, typ := typ, svn := svn, imageId := 1, enc := false, signer := Config.firmwareKey, digest := 2,
    bodyDigest := 2, sigOk := ok, tagOk := false }

theorem image_valid (typ svn : Nat) : imageValid typ (image typ true svn) = true := by simp [imageValid, image]
theorem image_bad (typ svn : Nat) : imageValid typ (image typ false svn) = false := by simp [imageValid, image]

theorem witness_BootChain_images (typ : Nat) :
    (imageValid typ (image typ true 4) = true ∧ (imageValid typ (image typ false 6) = false ∨ 6 ≤ (image typ true 4).svn))
      ∧ (imageValid typ (image typ true 5) = true ∧ (image typ true 4).svn < (image typ true 5).svn)
      ∧ imageValid typ (image typ false 5) = false ∧ imageValid typ (image typ false 6) = false :=
  ⟨⟨image_valid typ 4, .inl (image_bad typ 6)⟩, ⟨image_valid typ 5, (by decide : 4 < 5)⟩, image_bad typ 5, image_bad typ 6⟩

theorem test_image_refused :
    let good : ImageCheck := { image 3 true 1 with signer := 5 }
    imageValid 3 good = true ∧ imageValid 4 { good with typ := 4, enc := true, tagOk := true } = true
      ∧ ([{ good with magic := 0 }, { good with version := 2 }, { good with typ := 1 }, { good with bodyDigest := 3 },
        { good with sigOk := false }, { good with enc := true, tagOk := true }] : List ImageCheck).all
          (fun c => !imageValid 3 c) = true := by
  decide +kernel

theorem witness_BootChain :
    ((stage .railsUp id).boot.stage = .railsUp ∧ (0xFE : BitVec 8).toNat % 4 ≠ 3 ∧ (0xFF : BitVec 8).toNat % 4 = 3)
      ∧ (stage .romRunning id).boot.stage = .romRunning
      ∧ (stage .kilnUp id).boot.stage = .kilnUp ∧ (stage .configUp id).boot.stage = .configUp
      ∧ ((stage .hbmUp (fun b => { b with marched := [1199] })).boot.stage = .hbmUp
        ∧ 1199 ∈ (stage .hbmUp (fun b => { b with marched := [1199] })).boot.marched
        ∧ 0 ∉ (stage .hbmUp (fun b => { b with marched := [1199] })).boot.marched)
      ∧ (stage .fwRunning id).boot.stage = .fwRunning := by
  decide +kernel

/-- A voltage table of 85 codes, half the frequency code each, and an island at a setting. -/
def vf0 : Nat := ofBytes ((List.range 85).map (fun i => BitVec.ofNat 8 (i / 2)))

def powered (freq volt : Nat) : State :=
  ((up.setObj Obj.PWR_VF_TABLE 0 vf0).setObj Obj.PWR_ISLAND_SETTING 40 (freq + volt * 256)).setObj Obj.PWR_BUDGET_W 0 1000

theorem powered_no_pallet (p : Nat) : (powered 1 0).exists? p = false := by
  have hv : (powered 1 0).dict.vals = [(objKey Obj.PWR_BUDGET_W 0, 1000), (objKey Obj.PWR_VF_TABLE 0, vf0),
      (objKey Obj.PWR_ISLAND_SETTING 40, 1)] := by decide +kernel
  have hk : ∀ oid i, oid ≠ Obj.PAL_GEOMETRY → objKey oid i ≠ objKey Obj.PAL_GEOMETRY p := by
    intro oid i h; unfold objKey; omega
  have hd : objDefault Obj.PAL_GEOMETRY = 0 := by decide +kernel
  have hg : (powered 1 0).obj Obj.PAL_GEOMETRY p = 0 := by
    unfold State.obj
    rw [hv, hd]
    simp only [NMap.get]
    rw [if_neg (hk _ _ (by decide)), if_neg (hk _ _ (by decide)), if_neg (hk _ _ (by decide))]
  unfold State.exists? State.rect
  rw [hg]; decide

theorem witness_IslandsAndGovernor :
    let s := powered 1 0
    let w := min (islandFreq (0x2854 : BitVec 16).toNat) (s.freqMax 0) + islandVolt (0x2854 : BitVec 16).toNat * 256
    Served s (.mailbox 16) ∧ islandFreq (0x0001 : BitVec 16).toNat ≤ 84
      ∧ (islandCheck s 0 1 = true ∧ raiseBarred s 0 = false) ∧ islandCheck s 0 w = false
      ∧ (s.boot.stage.operating = true ∧ s.instancesOf Obj.PWR_ISLAND_TEMP = [] ∧ s.array.lowering = [] ∧ s.array.throttled = []
        ∧ s.boot.thermAlert = false ∧ 30 ≤ s.obj Obj.PWR_TJ_WARN_C 0 ∧ 30 ≤ s.obj Obj.PWR_TJ_THROTTLE_C 0
        ∧ 30 ≤ s.obj Obj.PWR_TJ_TRIP_C 0 ∧ (0 < (51 : Int) ∧ (51 : Int) < 52) ∧ 0 < islandFreq (s.island 40))
      ∧ ((∀ p, s.exists? p = false) ∧ s.obj Obj.PWR_BUDGET_W 0 * 1000 = 1000000 ∧ 1000000 * 98 < 980001 * 100
        ∧ NMap.get? s.array.classAt 0 = none ∧ 0 < s.obj Obj.PWR_BUDGET_W 0 * 1000)
      ∧ (stage .charging id).boot.stage.operating = false := by
  exact ⟨⟨by decide +kernel, by decide +kernel⟩, by decide +kernel, by decide +kernel, by decide +kernel, by decide +kernel,
    ⟨powered_no_pallet, by decide +kernel⟩, by decide +kernel⟩

/-! ## Chapters 19, 18 and 21 -/

/-- Pallet 0 is sampled every 1,000 ns and recorded every 5,000 ns; the trace matches source 9 once, with any payload. -/
def observed (trace : Nat) : State :=
  let s := (yard.setObj Obj.OBS_PC_PERIOD_NS 0 1000).setObj Obj.OBS_CNT_INTERVAL_NS 0 5000
  let s := (s.setObj Obj.OBS_TRACE_TRIGGER 0 (9 + 3 * 16 + 256 + 7 * 2 ^ 192)).setObj Obj.OBS_TRACE_CTRL 0 (2 ^ 41 + 2 ^ 39)
  { s with obs := { s.obs with traceState := trace, traceNext := 1 } }

theorem witness_SamplesRecordsAndTrace :
    let s := (observed 1).at 5000
    let off := (observed 0).at 5000
    let ctrl : BitVec 128 := 1 + 2 * 3 + 2 ^ 41
    let trig := s.obj Obj.OBS_TRACE_TRIGGER 0
    (s.obj Obj.OBS_PC_PERIOD_NS 0 ≠ 0 ∧ s.now % s.obj Obj.OBS_PC_PERIOD_NS 0 = 0 ∧ s.gate 1 = true ∧ (s.rect 0).size ≠ 0)
      ∧ (s.obj Obj.OBS_CNT_INTERVAL_NS 0 ≠ 0 ∧ s.now % s.obj Obj.OBS_CNT_INTERVAL_NS 0 = 0)
      ∧ (Served off (.mailbox 16) ∧ off.gate 0 = true ∧ off.obs.traceState = 0 ∧ bitsOf ctrl.toNat 32 1 = 0
        ∧ bitsOf ctrl.toNat 42 6 = 0 ∧ bitOf ctrl.toNat 0 = true
        ∧ off.obj Obj.OBS_TRACE_POST 0 < 131072 * 2 ^ bitsOf ctrl.toNat 1 2 ∧ triggerOk (off.obj Obj.OBS_TRACE_TRIGGER 0) = true)
      ∧ (s.gate 0 = true ∧ s.obs.traceState = 1 ∧ bitsOf trig 4 4 = 3 ∧ bitsOf trig 192 64 ≤ s.now)
      ∧ (s.traceOn 9 (sampleUnit s 9 5) = true ∧ s.obs.traceWrapped = false ∧ s.now - s.obs.traceMark < 2 ^ 20
        ∧ s.obs.traceSince < 1024 ∧ s.traceMatch 9 5 = true ∧ s.obs.traceMatches + 1 = bitsOf trig 8 8
        ∧ s.traceOn 7 (sampleUnit s 7 5) = true ∧ s.traceMatch 7 5 = false)
      ∧ ((observed 2).obs.traceState = 2 ∧ (observed 2).obs.postLeft = 0)
      ∧ (Served (observed 3) (.mailbox 16) ∧ (observed 3).obs.traceState = 3 ∧ 0 < 8
        ∧ (observed 3).traceSize - 8 + 8 = (observed 3).traceSize) :=
  ⟨by decide +kernel, by decide +kernel, ⟨⟨by decide +kernel, by decide +kernel⟩, by decide +kernel⟩, by decide +kernel, by decide +kernel,
    by decide +kernel, ⟨by decide +kernel, by decide +kernel⟩, by decide +kernel⟩

/-- A tenant without consent closes every gate. -/
def gated : State :=
  { up with keys := { up.keys with tenants := [(0, { id := 1, consent := 0, pallets := 0, lds := 0, signer := 0, policyDigest := 0 })] } }

theorem witness_PinsAndHealth :
    let good := List.replicate 15 0 ++ [1 * 4096 + 1199]
    let bad := List.replicate 15 0 ++ [1 * 4096 + 1200]
    Served up (.mailbox 16) ∧ up.gate 2 = true
      ∧ (good.length = 16 ∧ (∀ x ∈ good, x < 65536) ∧ ∀ x ∈ good, selectionValid x = true)
      ∧ (bad.length = 16 ∧ (∀ x ∈ bad, x < 65536) ∧ ∃ x ∈ bad, selectionValid x = false)
      ∧ (Served gated (.mailbox 16) ∧ gated.gate 2 = false ∧ gated.gate 3 = false) ∧ up.gate 3 = true :=
  ⟨⟨by decide +kernel, by decide +kernel⟩, by decide +kernel, by decide +kernel, by decide +kernel,
    ⟨⟨by decide +kernel, by decide +kernel⟩, by decide +kernel⟩, by decide +kernel⟩

/-! ## Chapter 16 -/

/-- Session 1 at a stage, last heard of at instant 5. -/
def session (st : SessStage) : Session := { Session.opened 0 5 with stage := st, answers := [(3, [1])] }

def talking (st : SessStage) : State := { yard with vdp := { yard.vdp with sessions := [(1, session st)], next := 1 } }

def eight : State :=
  { up with vdp := { up.vdp with sessions := (List.range 8).map (fun i => (i + 1, session .established)), next := 8 } }

def hdr0 : FrameHdr :=
  { session := 1, typ := 0x10, magic := 0x5644, version := 1, msgLen := 1184, off := 0, len := 1184, seq := 0, isSealed := true,
    tagOk := true }

theorem witness_SessionsAndFrames :
    let e := (talking .established).at 9
    let v := session .established
    let old := { v with rxHigh := some 1024, rxSeen := [1024] }
    (up.running = true ∧ countIf up.vdp.sessions (fun e => e.1 ≠ 0) < 8)
      ∧ (eight.running = true ∧ 8 ≤ countIf eight.vdp.sessions (fun e => e.1 ≠ 0))
      ∧ (e.running = true ∧ frameOk e { hdr0 with len := 1185 } = false)
      ∧ (frameOk e hdr0 = true ∧ hdr0.isSealed = true ∧ e.session? hdr0.session = some v ∧ seqFresh v 0 = true ∧ hdr0.tagOk = true
        ∧ hdr0.off = 0 ∧ hdr0.len = hdr0.msgLen ∧ ∀ q ∈ v.partials, q.msg ≠ 2)
      ∧ (seqFresh old 1024 = false ∧ seqFresh old 0 = true)
      ∧ (((talking .hello).at 9).session? 1 = some (session .hello) ∧ (session .hello).stage = .hello)
      ∧ (((talking .challenged).at 10000000005).session? 1 = some (session .challenged)
        ∧ (session .challenged).last + 10000000000 ≤ ((talking .challenged).at 10000000005).now
        ∧ ((talking .challenged).at 10000000004).now < (session .challenged).last + 10000000000)
      ∧ v.last + e.obj Obj.BRK_SESSION_IDLE_S 0 * 1000000000 ≤ (e.at (5 + e.obj Obj.BRK_SESSION_IDLE_S 0 * 1000000000)).now := by
  decide +kernel

theorem witness_DictionaryRequests :
    let s := (talking .established).at 9
    let v := session .established
    let w := ((talking .established).setObj Obj.OBS_SUB 63 (1 + 2 ^ 32 + 2 * 2 ^ 64))
    (s.running = true ∧ 1 ≠ 0 ∧ s.session? 1 = some v ∧ v.stage = .established)
      ∧ (∀ y ∈ v.answers, y.1 ≠ 4) ∧ v.answers.find? (fun y => y.1 == 3) = some (3, [1])
      ∧ (bitOf (w.obj Obj.OBS_SUB 63) 0 = true ∧ bitsOf (w.obj Obj.OBS_SUB 63) 32 32 = 1 ∧ w.session? 1 = some v
        ∧ bitsOf (w.obj Obj.OBS_SUB 63) 64 32 * 1000 ≠ 0 ∧ (w.at 4000).now % (bitsOf (w.obj Obj.OBS_SUB 63) 64 32 * 1000) = 0
        ∧ (w.at 4001).now % (bitsOf (w.obj Obj.OBS_SUB 63) 64 32 * 1000) ≠ 0) := by
  decide +kernel

/-! ## Chapter 15 -/

/-- LD 15 with 256 MiB. -/
def windowed : State := up.onLd 15 (fun l => { l with hdmMib := 256 })

theorem witness_MailboxAndWindow :
    let free := up.setObj Obj.HST_HDM_POOL_MIB 0 512
    up.running = true ∧ (List.replicate 4 (0 : Byte)).length = 4 ∧ allocOk free 14 [256, 256] = true ∧ 15 + [5].length ≤ 16 ∧ 6 ≤ 6
      ∧ 1 ≠ 0 ∧ ((2 ^ 28 - 1) / 64 * 64 + 64 ≤ windowed.winSize 15 ∧ windowed.host.rings = [] ∧ windowed.trn.queues = [])
      ∧ windowed.winSize 15 < 2 ^ 28 / 64 * 64 + 64 := by
  decide +kernel

/-- Ring 63 of LD 15. -/
def ringIs (f : Ring → Ring) : State := windowed.setRing 15 63 (f { Ring.reset with logSize := 6 })

theorem witness_RingConfiguration :
    let cpl := ringIs (fun v => { v with kind := 3 })
    let on := ringIs (fun v => { v with kind := 3, enable := true, state := 1 })
    let busy := ringIs (fun v => { v with kind := 1, enable := true, state := 1, taken := 1 })
    let cfg := { windowed with boot := { windowed.boot with perstAt := some 4 } }
    ((cpl.ring 15 63).enable = false ∧ (cpl.ring 15 63).state = 0 ∧ enableOk cpl 15 63 = true
        ∧ enableOk ((ringIs (fun v => { v with kind := 3, base := 2 ^ 28 }))) 15 63 = false)
      ∧ ((on.ring 15 63).enable = true ∧ (on.ring 15 63).kind ≠ 2 ∧ (on.ring 15 63).taken = 0 ∧ (busy.ring 15 63).taken ≠ 0
        ∧ (busy.ring 15 63).enable = true)
      ∧ 2 ^ 32 - 1 < 2 ^ 32 ∧ (windowed.trn.queues = [] ∧ windowed.trn.regs = [])
      ∧ ((cfg.at 100000004).cfgRetry = false ∧ (cfg.at 100000003).cfgRetry = true ∧ cfg.boot.perstAt ≠ none) := by
  decide +kernel

theorem witness_DoorbellsAndSignals :
    let step := fun (f : Ring → Ring) => ringIs (fun v => f { v with kind := 2, enable := true, state := 1, visible := 2 ^ 32 - 1 })
    let at0 := step (fun v => { v with tail := 2 ^ 32 - 1, head := 2 ^ 32 - 1 })
    let bad := step (fun v => { v with visible := 1, tail := 1, head := 1 })
    let wait := step (fun v => { v with visible := 0, tail := 1, waitSince := some 6 })
    let wrong := step (fun v => { v with visible := 1, tail := 2, head := 1, waitSince := some 6 })
    let late := wrong.at (6 + wrong.obj Obj.HST_SEQ_WAIT_US 15 * 1000)
    let fm := (up.setRing 16 63 { Ring.reset with kind := 3, enable := true, logSize := 6, tail := 1, head := 2 ^ 32 - 1 }).at 9
    let coal := ((ringIs (fun v => { v with vector := 2047, coalNs := 10, firstAt := some 5 })).onLd 15
      (fun l => { l with unmasked := [2047] })).at 15
    let pend := up.onLd 15 (fun l => { l with msixPending := [2047] })
    let m : Dma := { id := 3, ld := 15, addr := 0, since := 1, stalled := 0, purpose := .page 0 5 }
    let dma := { up with host := { up.host with dmas := [m] } }
    let lim := 1 + up.obj Obj.HST_DMA_TIMEOUT_US 15 * 1000
    ((at0.ring 15 63).tail = (at0.ring 15 63).visible ∧ (at0.ring 15 63).head = (at0.ring 15 63).visible
        ∧ (at0.ring 15 63).waitSince = none ∧ (at0.ring 15 63).enable = true ∧ (at0.ring 15 63).state = 1 ∧ (at0.ring 15 63).kind = 2
        ∧ (at0.ring 15 63).visible < 2 ^ 32 ∧ seqMatches bad 15 (bad.ring 15 63) = false
        ∧ seqMatches (step (fun v => { v with visible := 0 })) 15 ((step (fun v => { v with visible := 0 })).ring 15 63) = true
        ∧ (at0.ring 15 63).size < (64 + 2 ^ 32 - (at0.ring 15 63).head) % 2 ^ 32)
      ∧ ((wait.ring 15 63).waitSince = some 6 ∧ (wait.ring 15 63).tail = ((wait.ring 15 63).visible + 1) % 2 ^ 32
        ∧ (wait.ring 15 63).visible ≠ ((wait.ring 15 63).visible + 1) % 2 ^ 32 ∧ seqMatches wait 15 (wait.ring 15 63) = true)
      ∧ ((late.ring 15 63).waitSince = some 6 ∧ seqMatches late 15 (late.ring 15 63) = false
        ∧ 6 + late.obj Obj.HST_SEQ_WAIT_US 15 * 1000 ≤ late.now)
      ∧ ((fm.ring 16 63).enable = true ∧ (fm.ring 16 63).kind = 3 ∧ (fm.ring 16 63).held = []
        ∧ ((fm.ring 16 63).tail + 2 ^ 32 - 0) % 2 ^ 32 ≤ (fm.ring 16 63).used)
      ∧ (up.ring 15 63).enable = false
      ∧ ((coal.ring 15 63).firstAt = some 5 ∧ (coal.ring 15 63).coalNs ≠ 0 ∧ 5 + (coal.ring 15 63).coalNs ≤ coal.now
        ∧ (coal.ring 15 63).vector ∈ (coal.ld 15).unmasked)
      ∧ (2047 ∈ (pend.ld 15).msixPending ∧ 2047 ∉ (up.ld 15).msixPending)
      ∧ ((dma.at lim).host.dmas = [m] ∧ m.purpose = .page 0 5 ∧ (dma.at lim).byHandle 5 = none
        ∧ m.stalled = 0 ∧ (dma.at 2).now - m.since ≤ (dma.at 2).obj Obj.MEM_STALL_NS 0
        ∧ (dma.at lim).obj Obj.MEM_STALL_NS 0 < (dma.at lim).now - m.since
        ∧ m.since + (dma.at lim).obj Obj.HST_DMA_TIMEOUT_US m.ld * 1000 ≤ (dma.at lim).now
        ∧ (dma.at (lim - 1)).now < m.since + (dma.at (lim - 1)).obj Obj.HST_DMA_TIMEOUT_US m.ld * 1000) := by
  decide +kernel

/-! ## Chapter 14 -/

/-- Key slot 1023 in a state. -/
def slotIs (f : KeySlot → KeySlot) : State :=
  let s := net.setKslot 1023 (f { KeySlot.reset with gen := 63 })
  { s with kiln := { s.kiln with identity := true } }

theorem witness_KeySlotLifecycle :
    let st := fun (x : SlotState) => slotIs (fun v => { v with state := x, ekExpire := 50, tRetire := 40, tD := 30 })
    let full := { st .assigned with kiln := { (st .assigned).kiln with attestQ := List.replicate 16 (5, 0, .mailbox 16) } }
    let one := { st .assigned with kiln := { (st .assigned).kiln with attestQ := [(1023, 7, .mailbox 16)] } }
    let busy := slotIs (fun v => { v with state := .retiring, tRetire := 40, tenant := some 0 })
    let c : PlaceCmd := { pallet := 5, ld := 0, stackMask := 0, npages := 1, va := 0, hostPa := 0, tag := 0, reserved := false }
    let x : Placement := { id := 4, op := 1, cmd := c, source := .device, switched := false, frames := [] }
    let t : Tenant := { id := 1, consent := 0, pallets := 32, lds := 0, signer := 0, policyDigest := 0 }
    let busy := { busy with keys := { busy.keys with tenants := [(0, t)] } }
    let busy := { busy with mem := { busy.mem with placements := [x] }, trn := { busy.trn with queues := [], regs := [], flows := [] } }
    let act := { st .active with trn := { (st .active).trn with queues := [], regs := [] } }
    let max := 40 + busy.obj Obj.SEC_DRAIN_MAX_MS 0 * 1000000
    Served net (.mailbox 16) ∧ ((1023 : SlotNo).val ≠ 0 ∧ 1 ≠ 0 ∧ 1 ≠ (net.kslot 1023).lastGen ∧ (net.kslot 1023).state = .empty)
      ∧ Served (st .assigned) (.mailbox 16) ∧ (((st .assigned).kslot 1023).state = .assigned ∧ attestRefusal (st .assigned) 1023 = none
        ∧ (st .assigned).kiln.attestQ.length < 16 ∧ attestRefusal full 1023 = none ∧ 16 ≤ full.kiln.attestQ.length)
      ∧ ((st .installing).kslot 1023).state = .installing
      ∧ ((act.kslot 1023).state = .active ∧ act.req.requests = [] ∧ act.trn.queues = [] ∧ act.trn.regs = []
        ∧ ∀ p ∈ slotPallets act 1023, (act.pallet p).state = .empty)
      ∧ (one.kiln.attestQ = (1023, 7, .mailbox 16) :: [] ∧ attestRefusal one 1023 = none ∧ (one.kslot 1023).state ≠ .active)
      ∧ (((st .reserved).kslot 1023).state = .reserved ∧ ((st .reserved).kslot 1023).ekExpire ≤ ((st .reserved).at 50).now
        ∧ ((st .reserved).at 49).now < ((st .reserved).kslot 1023).ekExpire)
      ∧ (((st .retiring).kslot 1023).state = .retiring ∧ drained ((st .retiring).at 60) 1023 = true)
      ∧ ((busy.kslot 1023).state = .retiring ∧ drained (busy.at max) 1023 = false ∧ drained (busy.at (max - 1)) 1023 = false
        ∧ busy.req.requests = [] ∧ busy.trn.queues = []
        ∧ busy.trn.regs = [] ∧ busy.trn.flows = [] ∧ busy.trn.waiting = [] ∧ (∀ p ∈ slotPallets busy 1023, (busy.pallet p).state = .empty)
        ∧ (busy.kslot 1023).tRetire + busy.obj Obj.SEC_DRAIN_MAX_MS 0 * 1000000 ≤ (busy.at max).now
        ∧ (busy.at (max - 1)).now < (busy.kslot 1023).tRetire + busy.obj Obj.SEC_DRAIN_MAX_MS 0 * 1000000)
      ∧ (((st .drained).kslot 1023).state = .drained ∧ ((st .drained).kslot 1023).tD + 500000 ≤ ((st .drained).at 500030).now
        ∧ ((st .drained).at 500029).now < ((st .drained).kslot 1023).tD + 500000) := by
  refine ⟨⟨by decide +kernel, by decide +kernel⟩, by decide +kernel, ⟨by decide +kernel, by decide +kernel⟩, by decide +kernel, by decide +kernel,
    by decide +kernel, by decide +kernel, by decide +kernel, by decide +kernel, by decide +kernel, by decide +kernel⟩

def policy0 : Policy :=
  { tenantId := 6, consent := 1, pallets := 1, lds := 1, minFwSvn := 0, minKilnSvn := 0, imageSigner := 9, reserved := false }

/-- Tenant 0 owns pallet 0, under the ACTIVE slot 3. -/
def owned : State :=
  let s := net.setKslot 3 { KeySlot.reset with state := .active, tenant := some 0, gen := 1, distributed := true }
  { s with keys := { s.keys with tenants := [(0, { id := 6, consent := 1, pallets := 1, lds := 1, signer := 9, policyDigest := 0 })] } }

theorem witness_KeysAndImagesInstalled :
    let r := (slotIs (fun v => { v with state := .reserved, reportDigest := 8, ekExpire := 50 }))
    let i := (slotIs (fun v => { v with state := .installing, release := some (.mailbox 16) }))
    let x : Install := { src := 0, dst := 0x2000, tag := 1, keyslot := 3, via := .mailbox 16 }
    let w := owned.setPallet 0 { Pallet.reset with installs := [x] }
    let d := digest64 [1]
    let good : ImageCheck :=
      { magic := 0x4A52494D, version := 1, typ := 4, svn := 0, imageId := 6, enc := true, signer := 9, digest := d, bodyDigest := d,
        sigOk := true, tagOk := true }
    Served r (.mailbox 16) ∧ (releaseOk (r.at 50) 0x4B52 1 1023 63 8 = true ∧ releaseOk (r.at 51) 0x4B52 1 1023 63 8 = false)
      ∧ ((i.kslot 1023).state = .installing ∧ (i.kslot 1023).retireWaits = false ∧ (i.kslot 1023).release = some (.mailbox 16)
        ∧ bundleOk (i.at 5) true policy0 = true)
      ∧ (owned.kslot 3).state = .active
      ∧ (Served owned (.mailbox 16) ∧ ownerSlot owned 0 = .ok (3 : SlotNo).val ∧ ownerSlot owned 15 = .error .accessDenied)
      ∧ ((w.pallet 0).installs = x :: [] ∧ installOk w 0 good manifest0 [1] = true ∧ w.vMapped 0 x.dst 1 = true
        ∧ installOk w 0 { good with sigOk := false } manifest0 [1] = false ∧ installOk w 0 good manifest0 [2] = false) :=
  ⟨⟨by decide +kernel, by decide +kernel⟩, by decide +kernel, by decide +kernel, by decide +kernel,
    ⟨⟨by decide +kernel, by decide +kernel⟩, rfl, rfl⟩, by decide +kernel⟩

/-! ## Chapters 13 and 03 -/

def block0 : Block :=
  { active := true, sampled := false, window := 0, vocab := 2, temp := 0, topk := 0, topp := 0x3F800000, minp := 0, rep := 0x3F800000,
    freq := 0, pres := 0, seed := 0, stop := 0 }

def admit0 : AdmitBody :=
  { rid := 5, pallet := 0, pfmt := 0, nstream := 1, keyslot := 3, nlayer := 1, nkv := 1, hdimc := 0, dlayer := 0, dnkv := 0, dhdimc := 0,
    lmax := 64, reserved := false, blocks := [block0] }

/-- A module of role HYBRID whose pallet 0 has an image loaded, with a CMD ring of the FM-owned LD. -/
def serving : State :=
  let s := (owned.setObj Obj.BRK_NODE_ROLE 0 4).setObj Obj.MEM_HBM_QUOTA 0 100
  (s.setPallet 0 { Pallet.reset with state := .ready, loaded := some loaded0 }).setRing 16 63 cmdRing

def reqB : Request := { req0 with keyslot := 3, blocks := [block0] }

theorem witness_RequestCommands :
    let s := serving.at 9
    let h := (withReq serving reqB).at 9
    let bad := { block0 with vocab := 1 }
    let run := ((withReq serving reqB).setPallet 0
      { Pallet.reset with state := .running, loaded := some loaded0, run := some { run0 with entries := [entry0] } }).at 9
    let rel := fun (s : State) =>
      ({ s with
      req := { s.req with
        locals := [(2, { ReqLocal.zero with release := some .device })], hslots := [(2, { gen := 1, freedAt := none })] } } : State)
    ((takeEntry s 16 63).isSome = true ∧ admitRefusal s 16 admit0 = none ∧ (pickSlot s).isSome = true
        ∧ admitRefusal s 16 { admit0 with nstream := 0 } = some (.transportError, none))
      ∧ ((takeEntry h 16 63).isSome = true ∧ h.owned 16 reqB.handle = some (2, reqB) ∧ [block0].length = (maskStreams 1).length
        ∧ (∀ e ∈ (nextBlocks h 2 reqB).zip (applyBlocks 1 [block0] (nextBlocks h 2 reqB)),
          e.1.active = e.2.active ∧ (e.1.active = true → e.1.window = e.2.window ∧ e.1.vocab = e.2.vocab))
        ∧ blocksOk 1 (applyBlocks 1 [block0] (nextBlocks h 2 reqB)) = true ∧ blocksOk 1 (applyBlocks 1 [bad] (nextBlocks h 2 reqB)) = false
        ∧ reserveRefusal h 16 reqB.handle 74 = none ∧ (h.pallet 0).run = none ∧ reqB.life = .resident
        ∧ (h.reqLocal 2).release = none ∧ 2 < reqB.nextStep ∧ reqB.nextStep ≤ 3)
      ∧ ((takeEntry run 16 63).isSome = true ∧ run.owned 16 reqB.handle = some (2, reqB) ∧ (run.pallet 0).run ≠ none
        ∧ run.entryOf 0 2 = some (0, entry0)
        ∧ entry0.nostep = false ∧ entry0.d.step = 3 ∧ beforeJ run { run0 with entries := [entry0] } entry0 = true)
      ∧ ((rel h).request? 2 = some reqB ∧ ((rel h).reqLocal 2).release = some .device ∧ (rel h).inStep 0 2 = false ∧ (rel h).req.out = []
        ∧ (rel h).req.into = [] ∧ NMap.get? (rel h).req.hslots 2 = some { gen := 1, freedAt := none })
      ∧ ((rel run).request? 2 = some reqB ∧ ((rel run).reqLocal 2).release = some .device ∧ (rel run).inStep 0 2 = true) := by
  decide +kernel

def qcmd0 : QCmd := { slot := 7, core := 255, pc := 0, limits := yard.qlimits 0 }

def qslot0 : QSlot :=
  { QSlot.reset with srctype := 1, nblk := 512, outmax := 4, elem := 0x100000, scale := 0x1F0000, outl := 0x180000, stg := 0x190000, outcap := 4 }

theorem windows_none (s : State) (h : s.dict.vals = []) (j : Nat) : s.windows j = [] := by
  unfold State.windows; rw [h]; rfl

theorem witness_QuantiserHaltAndDeath :
    let q := fun (f : QSlot → QSlot) => (yardB (fun k => k.setQslot 7 (f qslot0))).at 4
    let d := { up with rmf := { up.rmf with rack := [(15, rackSlot1 1)] } }
    (((q id).brick 0).qslot 7).busy = false ∧ qslotValid (((q id).brick 0).qslot 7) = true
      ∧ (((q (fun v => { v with busy := true })).brick 0).qslot 7).busy = true
      ∧ (qslotValid (((q (fun v => { v with nblk := 513 })).brick 0).qslot 7) = false
        ∧ (q (fun v => { v with nblk := 513 })).palletOf 0 = some 0 ∧ ((q (fun v => { v with nblk := 513 })).pallet 0).run = none
        ∧ ((q (fun v => { v with nblk := 513 })).pallet 0).state ≠ .empty ∧ (q (fun v => { v with nblk := 513 })).trn.queues = [])
      ∧ ((((yardB (fun k => { k with qqueue := [qcmd0] })).at 4).brick 0).qqueue = qcmd0 :: [] ∧ (yardB id).palletOf 0 = some 0)
      ∧ ((yard.pallet 0).state ≠ .empty ∧ (yard.pallet 0).run = none ∧ yard.trn.queues = [])
      ∧ Served (up.setObj Obj.RMF_DEAD 65535 1) (.mailbox 16) ∧ (up.setObj Obj.RMF_DEAD 65535 1).dead 65535 = true
      ∧ Served d (.mailbox 16) ∧ (d.dead 7 = false ∧ d.trn.queues = [] ∧ d.trn.flows = [] ∧ d.trn.waiting = [] ∧ d.req.requests = []
        ∧ d.req.locals = [] ∧ d.req.into = [] ∧ d.req.out = [] ∧ d.req.homes = [])
      ∧ (∀ j, d.windows j = [] ∧ (d.pallet j).run = none)
      ∧ ∀ e ∈ d.rmf.rack, d.rackSlot (e.1 / 16) (e.1 % 16) = e.2 ∧ e.2.cmd.arrId = 0x1FFFF :=
  ⟨by decide +kernel, by decide +kernel, by decide +kernel, by decide +kernel, by decide +kernel, by decide +kernel,
    ⟨by decide +kernel, by decide +kernel⟩, by decide +kernel, ⟨by decide +kernel, by decide +kernel⟩, by decide +kernel,
    fun j => ⟨windows_none _ rfl j, rfl⟩, by decide +kernel⟩

/-! ## Chapters 04, 05 and 13 -/

/-- A DECODE descriptor with one entry. -/
def sentry1 : StepEntry := { sentry0 with ntok := 0 }

def desc1 : StepDesc :=
  { desc0 with entries := [sentry1], length := 96, imageId := 6, arrTarget := descTarget { desc0 with entries := [sentry1] } manifest0 }

def stepRing : Ring := { Ring.reset with enable := true, kind := 2, state := 1, logSize := 6, tail := 1, visible := 1 }

def window (s : State) (op len : Nat) : State :=
  { s with host := { s.host with window := [(16 * 2 ^ 40, BitVec.ofNat 8 op), (16 * 2 ^ 40 + 8, BitVec.ofNat 8 len)] } }

/-- The descriptor waits with an ORDER entry of the pallet's step domain. -/
def queued (len : Nat) (handle : Nat) : State :=
  let s := withReq (window (serving.setRing 16 1 stepRing) 0x40 len) { reqB with handle := handle }
  { s with
    asc := { s.asc with
      order := [(0, [{ vft := 0, domain := 0, eligible := true, entity := 16 * 64 + 1 }])], descs := [(16 * 64 + 1, [desc1])] } }

def moving (m : OutState) : MoveOut :=
  { rid := 77, dst := 7, dstPallet := 0, alt := none, xid := 1, state := m, tExpire := 20, tPull := 2, dstHandle := 9, last := .ok,
    source := .device, tCheck := 3, checkTag := 5, stuck := false, stride := 1 }

/-- A step whose counter is DONE. -/
def ended (kind : Nat) (st : List Status) (fresh : NMap (Option AttCall)) : State :=
  let e := { entry0 with statuses := st, fresh := fresh, ended := true }
  let run := { run0 with desc := { desc0 with kind := kind }, entries := [e], doneAt := some 8 }
  let s := serving.setPallet 0 { Pallet.reset with state := .running, loaded := some loaded0, seq := 7, run := some run }
  let s := withReq s { reqB with ctxlen := 63 }
  { s with req := { s.req with locals := [(2, { ReqLocal.zero with lmax := 128 })] } }

def endedRun (kind : Nat) (st : List Status) (fresh : NMap (Option AttCall)) : StepRun :=
  { run0 with
    desc := { desc0 with kind := kind }, doneAt := some 8, entries := [{ entry0 with statuses := st, fresh := fresh, ended := true }] }

/-- A PREFILL call of one position and one head, with its fresh rows. -/
def call0 : AttCall :=
  { handle := 2 * 4096 + 1, step := 3, layer := 0, nq := 1, mode := 1, bulk := false, dense := true, fresh := true, qfmt := 5, segmode := 0,
    nqh := 1, nkv := 1, hdimc := 0, part := 0, npart := 1, ctxlen := 0, scaleS := 0x3F800000, massB := 0, reserved := false,
    qseg := [0], parent := [], qElems := List.replicate 32 0, qScales := [127], freshElems := List.replicate 64 0,
    freshScales := [127, 127], length := 291 }

theorem witness_StepLifecycle :
    let v := window (serving.setRing 16 1 stepRing) 0x40 96
    let bad := window (serving.setRing 16 1 stepRing) 0x41 96
    let q := queued 96 (2 * 4096 + 1)
    let old := queued 96 (2 * 4096 + 2)
    let short := queued 64 (2 * 4096 + 1)
    let held := stepOf net (fun e => { e with held := some .moving }) (fun r => { r with desc := { desc0 with kind := 2 } })
    let heldRun := { run0 with desc := { desc0 with kind := 2 }, entries := [{ entry0 with held := some .moving }] }
    let stall := held.obj Obj.MEM_STALL_NS 0
    let away := { held with req := { held.req with out := [moving .offered] } }
    let late := ended 2 [.timeout] []
    let good := ended 2 [] [(0, some call0)]
    ((v.ring 16 1).active = true ∧ (v.ring 16 1).kind = 2 ∧ (v.ring 16 1).draining = false
        ∧ (v.descsOf (16 * 64 + 1)).length < ((v.ring 16 1).visible + 2 ^ 32 - (v.ring 16 1).head) % 2 ^ 32
        ∧ v.winNat 16 ((v.ring 16 1).entryAddr ((v.ring 16 1).head + (v.descsOf (16 * 64 + 1)).length)) 1 = 0x40
        ∧ v.role ≠ 0 ∧ v.role ≠ 3
        ∧ bad.winNat 16 ((bad.ring 16 1).entryAddr ((bad.ring 16 1).head + (bad.descsOf (16 * 64 + 1)).length)) 1 ≠ 0x40)
      ∧ canStart stepping 0 = false
      ∧ (canStart q 0 = true ∧ (orderPop q 0 (fun _ => true)).1.map (fun x => x.entity) = some (16 * 64 + 1)
        ∧ q.descsOf (16 * 64 + 1) = desc1 :: [] ∧ (q.pallet 0).loaded = some loaded0 ∧ desc1.pallet = 0
        ∧ descRefusal q 16 1 (q.winNat 16 ((q.ring 16 1).entryAddr (q.ring 16 1).head + 8) 4) desc1 = none
        ∧ canStart short 0 = true
        ∧ descRefusal short 16 1 (short.winNat 16 ((short.ring 16 1).entryAddr (short.ring 16 1).head + 8) 4) desc1
          = some .transportError
        ∧ 0 < desc1.arrTarget ∧ desc1.entries = [sentry1] ∧ q.byHandle sentry1.handle = some (2, reqB)
        ∧ misnamed 0 desc1 sentry1 reqB = false ∧ refusals q 2 reqB = [] ∧ movingNow q 2 = false ∧ sentry1.attach = false
        ∧ reqB.pendValid = true ∧ (q.reqLocal 2).uncorr = false ∧ (q.reqLocal 2).cancel = none
        ∧ q.abortedStep reqB.rid sentry1.step = false ∧ old.byHandle sentry1.handle = none ∧ canStart old 0 = true)
      ∧ ((held.pallet 0).run = some heldRun ∧ heldRun.entries[0]? = some { entry0 with held := some .moving }
        ∧ held.request? 2 = some req0 ∧ movingNow held 2 = false ∧ movingNow away 2 = true
        ∧ entry0.d.attach = false ∧ heldRun.desc.kind ≠ 1 ∧ entry0.stalled = 0
        ∧ (held.at stall).now - entry0.heldAt ≤ (held.at stall).obj Obj.MEM_STALL_NS 0
        ∧ (held.at (stall + 1)).obj Obj.MEM_STALL_NS 0 < (held.at (stall + 1)).now - entry0.heldAt)
      ∧ ((stepping.pallet 0).run = some run0 ∧ run0.doneAt = none)
      ∧ ((late.pallet 0).run = some (endedRun 2 [.timeout] []) ∧ (endedRun 2 [.timeout] []).doneAt ≠ none ∧ noTokens late 0 7 = true
        ∧ late.req.requests = [(2, { reqB with ctxlen := 63 })] ∧ late.slotRetired 3 = false ∧ (late.pallet 0).unload = false
        ∧ late.dict.groups = []
        ∧ endStatus late (endedRun 2 [.timeout] []) { entry0 with statuses := [.timeout], fresh := [], ended := true } ≠ .ok)
      ∧ ((good.pallet 0).run = some (endedRun 2 [] [(0, some call0)]) ∧ noTokens good 0 7 = true
        ∧ endStatus good (endedRun 2 [] [(0, some call0)]) { entry0 with fresh := [(0, some call0)], ended := true } = .ok
        ∧ (commitRows good 2 [(0, some call0)] (List.range 1)).1 = true) :=
  ⟨by decide +kernel, by decide +kernel, by decide +kernel, by decide +kernel, by decide +kernel, by decide +kernel, by decide +kernel⟩

/-- The module with a service queue, in a step of the request's entry. -/
def answering (f : EntryRun → EntryRun) (calls : List CallRun) : State :=
  let s := (stepOf net f id).setQueue 4 { Queue.reset with state := 1, typ := 3 }
  { s with req := { s.req with calls := calls } }

def callRun (serving : Bool) : CallRun :=
  { call := call0, pallet := 0, srcMod := 7, sq := 6, svq := 4, keyId := 0, port := 11, tArr := 10, paused0 := 0, serving := serving, answered := false }

theorem witness_AttentionCalls :
    let s := (answering id []).at 10
    let w := (answering id [callRun false]).at 10
    let v := (answering id [callRun true]).at 10
    let both := (answering id [callRun false, callRun true]).at 10
    let late := fun (s : State) (c : CallRun) => c.of (2 * 4096 + 1) 0 3 && !c.call.bulk && !c.answered
      && decide (c.tArr + 4000 + s.heldNs c ≤ s.now)
    let other := { call0 with handle := 2 * 4096 + 2 }
    let h : Nat := 2 * 4096 + 1
    Arrives s 11 0x10 pkt0 rx0 ∧ ((s.queue 4).ready 3 = true ∧ sameTenant s pkt0.keyId (s.queue 4).keyId = true
        ∧ s.byHandle call0.handle = some (2, req0) ∧ req0.pallet = (s.queue 4).pallet
        ∧ (s.reqLocal 2).halted.contains call0.step = false ∧ callStatus s call0 = none ∧ s.rmf.aborted = []
        ∧ s.slotRetired req0.keyslot = false
        ∧ callFormOk { call0 with nq := 65 } = false ∧ s.request? (slotOf other.handle) = some req0 ∧ req0.handle ≠ other.handle)
      ∧ (w.byHandle h = some (2, req0) ∧ w.req.calls.find? (fun v => v.of h 0 3 && !v.serving) = some (callRun false)
        ∧ (∀ v ∈ w.req.calls, v.of h 0 3 = true → v.serving = false) ∧ w.entryOf 0 2 = some (0, entry0) ∧ entry0.nostep = false
        ∧ entry0.held = none ∧ entry0.d.step = 3 ∧ w.keysReady 0 = true)
      ∧ (both.byHandle h = some (2, req0) ∧ both.req.calls.find? (fun v => v.of h 0 3 && !v.serving) = some (callRun false)
        ∧ ∃ v ∈ both.req.calls, v.of h 0 3 = true ∧ v.serving = true)
      ∧ (v.byHandle h = some (2, req0) ∧ v.req.calls.find? (fun v => v.of h 0 3 && v.serving) = some (callRun true))
      ∧ (w.at 4009).req.calls.find? (late (w.at 4009)) = none
      ∧ (w.at 4010).req.calls.find? (late (w.at 4010)) = some (callRun false) :=
  ⟨arrives_of (by decide +kernel), by decide +kernel⟩

def logits0 : LogitsMsg :=
  { handle := 2 * 4096 + 1, step := 3, nnodes := 1, nstream := 1, lfmt := 2, vocab := 2 :: List.replicate 15 0, reserved := false,
    logits := [0, 0x3F800000], length := 136 }

def tree0 : Tree := { parent := [0xFF], frames := [[1]], q := [] }

theorem witness_DraftsAndLogits :
    let s := (answering id []).at 10
    let e := { entry0 with tree := some tree0, blocks := [block0] }
    let t := (answering (fun _ => e) []).at 10
    let l := (t.setPallet 0 { t.pallet 0 with loaded := some loaded0 })
    let wait := 1000 * l.obj Obj.DRF_LOGITS_WAIT_US 0
    let h : Nat := 2 * 4096 + 1
    (s.byHandle h = some (2, req0) ∧ s.entryOf 0 2 = some (0, entry0) ∧ (s.pallet 0).run = some { run0 with entries := [entry0] }
        ∧ run0.desc.kind = 1 ∧ entry0.ended = false ∧ entry0.nostep = false ∧ entry0.held = none ∧ entry0.tree = none)
      ∧ (l.entryOf 0 2 = some (0, e) ∧ e.tree = some tree0 ∧ e.logits = none ∧ (l.pallet 0).loaded ≠ none
        ∧ e.sentAt + wait ≤ (l.at wait).now ∧ (l.at (wait - 1)).now < e.sentAt + wait)
      ∧ Arrives t 11 0x13 pkt0 rx0 ∧ ((t.queue 4).ready 3 = true ∧ sameTenant t pkt0.keyId (t.queue 4).keyId = true
        ∧ req0.pallet = (t.queue 4).pallet ∧ t.byHandle (3 * 4096) = none ∧ t.byHandle logits0.handle = some (2, req0)
        ∧ t.entryOf 0 2 = some (0, e) ∧ e.nostep = false ∧ e.d.step = logits0.step ∧ e.ended = false ∧ logitsOk logits0 req0 e = true)
      ∧ ∀ a ∈ (logitRows logits0).map (fun a => a.map logitRow), ∀ b ∈ a, b ≠ [] :=
  ⟨by decide +kernel, by decide +kernel, arrives_of (by decide +kernel), by decide +kernel, by decide +kernel⟩

/-! ## Chapters 06 and 08 -/

/-- A request in a life and its move. -/
def outgoing (s : State) (l : Life) (m : MoveOut) : State :=
  let s := withReq s { req0 with life := l }
  { s with req := { s.req with out := [m], hslots := [(2, { gen := 1, freedAt := none })] } }

def ho0 : HoHdr :=
  { typ := 2, status := .ok, xid := 1, rid := 77, srcHandle := 0, dstHandle := 0, srcMod := 7, dstMod := 5, homeSeq := 4 }

def pktE : Pkt := { pkt0 with data := [] }

def home0 (seq : Nat) : HomeReg :=
  { handle := 2 * 4096 + 1, homeMod := 5, homeSeq := seq, copyVer := 0, cstep := 0, tHome := 0, primary := true, backup := 0xFFFF,
    peer := 5, waiting := [] }

theorem witness_MovesAtSource :
    let cmd := (withReq (net.setRing 16 63 cmdRing) req0).at 9
    let w := (outgoing net .resident (moving .waiting)).at 9
    let run := outgoing (stepOf net id id) .resident (moving .waiting)
    let dead := w.setObj Obj.RMF_DEAD 7 1
    let o := outgoing net .movingOut (moving .offered)
    let alt := outgoing net .movingOut { moving .offered with alt := some 8 }
    let p := outgoing net .movingOut (moving .pulling)
    let due := 2 + p.obj Obj.RQS_OFFER_TIMEOUT 0 + p.obj Obj.RQS_PLACE_WAIT 0
    let own := { p with req := { p.req with homes := [(77, home0 4)] } }
    let far := (outgoing net .movingOut (moving .pulling)).setRequest 2 { req0 with copyGroup := [7, 8, 9, 10, 11, 12] }
    let c := outgoing net .movingOut (moving .check)
    let q := { req0 with life := .movingOut }
    ((takeEntry cmd 16 63).isSome = true ∧ cmd.byRid 77 = some (2, req0) ∧ cmd.ownsPallet 16 0 = true ∧ req0.life = .resident
        ∧ cmd.req.out.any (fun v => v.rid == 77) = false ∧ cmd.byRid 78 = none)
      ∧ Served cmd (.mailbox 16)
      ∧ (moveOf w 2 = some ({ req0 with life := .resident }, moving .waiting) ∧ (moving .waiting).state = .waiting ∧ (w.pallet 0).run = none
        ∧ w.dead (moving .waiting).dst = false ∧ dead.dead (moving .waiting).dst = true ∧ (moving .waiting).alt = none
        ∧ moveOf dead 2 = some ({ req0 with life := .resident }, moving .waiting) ∧ (dead.pallet 0).run = none
        ∧ moveOf run 2 = some ({ req0 with life := .resident }, moving .waiting) ∧ (run.pallet 0).run ≠ none)
      ∧ (moveOf o 2 = some (q, moving .offered) ∧ (moving .offered).state = .offered ∧ (moving .offered).tExpire ≤ (o.at 20).now
        ∧ (moving .offered).alt = none ∧ (o.at 19).now < (moving .offered).tExpire
        ∧ moveOf alt 2 = some (q, { moving .offered with alt := some 8 }) ∧ alt.dead 8 = false ∧ q.life = .movingOut)
      ∧ (Arrives (o.at 10) 11 0x18 pkt0 rx0 ∧ hoKnown ho0 = true ∧ staleHo (o.at 10) ho0 = false ∧ (o.at 10).byRid ho0.rid = some (2, q) ∧ q.rid = ho0.rid
        ∧ (o.at 10).req.out.find? (fun v => v.rid == ho0.rid && v.xid == ho0.xid && v.state == .offered) = some (moving .offered)
        ∧ ho0.status = .ok ∧ ({ ho0 with status := .admitDenied } : HoHdr).status ≠ .ok)
      ∧ (Arrives (p.at 10) 11 0x18 pkt0 rx0 ∧ staleHo (p.at 10) ho0 = false ∧ (p.at 10).byRid ho0.rid = some (2, q)
        ∧ moveOf (p.at 10) 2 = some (q, moving .pulling)
        ∧ (p.at 10).req.out.find? (fun v => v.rid == ho0.rid && v.xid == ho0.xid && (v.state == .pulling || v.state == .check))
          = some (moving .pulling)
        ∧ NMap.get? (p.at 10).req.hslots 2 = some { gen := 1, freedAt := none })
      ∧ ((moving .pulling).tPull + (p.at due).obj Obj.RQS_OFFER_TIMEOUT 0 + (p.at due).obj Obj.RQS_PLACE_WAIT 0 ≤ (p.at due).now
        ∧ (p.at (due - 1)).now < (moving .pulling).tPull + p.obj Obj.RQS_OFFER_TIMEOUT 0 + p.obj Obj.RQS_PLACE_WAIT 0
        ∧ holderOf far { req0 with copyGroup := [7, 8, 9, 10, 11, 12] } ≠ far.moduleNum ∧ holderOf own q = own.moduleNum
        ∧ own.home? 77 = some (home0 4) ∧ (home0 4).homeMod = own.moduleNum ∧ (home0 4).handle = q.handle)
      ∧ (moveOf c 2 = some (q, moving .check)
        ∧ (moving .check).tCheck + c.obj Obj.RQS_PLACE_WAIT 0 ≤ (c.at (3 + c.obj Obj.RQS_PLACE_WAIT 0)).now
        ∧ (moving .check).stuck = false ∧ ({ moving .check with stuck := true } : MoveOut).stuck = true)
      ∧ ((withReq net req0).req.out = [] ∧ (withReq net req0).request? 2 = some req0
        ∧ staleHo ((withReq net req0).at 10) ho0 = false ∧ Arrives ((withReq net req0).at 10) 11 0x18 pkt0 rx0) :=
  ⟨by decide +kernel, ⟨by decide +kernel, by decide +kernel⟩, by decide +kernel, by decide +kernel,
    ⟨arrives_of (by decide +kernel), by decide +kernel⟩, ⟨arrives_of (by decide +kernel), by decide +kernel⟩, by decide +kernel,
    by decide +kernel, by decide +kernel, by decide +kernel, by decide +kernel, arrives_of (by decide +kernel)⟩

/-- The header and body of an OFFER of a request for pallet 0 under slot 3. -/
def imageHdr0 : ImageHdr := { geom := geom0, pfmt := 0, resPages := 1, resSpill := 0, blocks := [block0] }

def offer0 : OfferBody :=
  { kind := 0, last := true, pos0 := 10, ntok := 1, nunits := 1, reg := 0, keyslot := 3, dstPallet := 0, nspill := 0, image := 0,
    tExpire := 10, pending := [1] }

def image0 : Image :=
  { geom := geom0, keyslot := 3, nstream := 1, pfmt := 0, pendValid := true, ctxlen := 0, nextStep := 0, cstep := 0, copyVer := 0,
    admitHandle := 5, resPages := 1, resSpill := 0, copyGroup := [7, 7, 8, 9, 10, 11], tAdmit := 0, tLast := 9, pending := [1],
    blocks := [block0], counts := [], pages := [], inbox := [] }

/-- What the reads of an image met: a source that does not code. -/
def wire0 : WireRead := { stream := [], damaged := [] }

/-- A move at its destination, in slot 2. -/
def incoming (k : InKind) (st : InState) : MoveIn :=
  { MoveIn.begin k ho0 (2 * 4096 + 1) 2 0 .device with
    state := st, flush := 6, copyGroup := [7, 8, 9, 10, 11, 12] }

/-- A flush of nothing, for a purpose. -/
def flushFor (w : FlushFor) : FlushRec := { what := w, pallet := 0, va := 0, len := 0 }

def flushing (s : State) (f : FlushRec) : State := { s with mem := { s.mem with flushes := [(6, f)] } }

def receiving (k : InKind) (st : InState) : State :=
  let s := withReq serving { reqB with life := .movingIn }
  flushing { s with req := { s.req with into := [incoming k st] } } (flushFor .moveIn)

theorem witness_MovesAtDestination :
    let s := serving.at 10
    let i := (withReq serving { reqB with resSpill := 1 }).at 10
    let cache := (serving.setObj Obj.BRK_NODE_ROLE 0 1).at 10
    let h := { ho0 with dstHandle := 2 * 4096 + 1 }
    let inc := receiving .increment .pulling
    let whole := receiving .whole .pulling
    let fl := receiving .whole .flushing
    let finc := receiving .increment .flushing
    let dirty := flushing (serving.onBrick 0 (fun k => { k with dirty := [0] }))
      { what := .moveIn, pallet := 0, va := 0x200000000000, len := 1 }
    let home := { serving with req := { serving.req with homes := [(77, home0 4)] } }
    let back := { serving with req := { serving.req with homes := [(77, { home0 4 with backup := 7 })] } }
    let mir := back.setFlow 0 { flow0 with queued := [{ held 0 with purpose := .homeMirror 77 }] }
    let wait := { serving with req := { serving.req with homes := [(77, { home0 4 with waiting := [(11, pktE)] })] } }
    let pl := receiving .whole .placing
    let lost := pl.setObj Obj.RMF_DEAD 7 1
    let plr := receiving .rebuild .placing
    let due := pl.obj Obj.RQS_PLACE_WAIT 0
    let q := { reqB with life := .movingIn }
    (Arrives s 11 0x18 pkt0 rx0 ∧ hoKnown ho0 = true ∧ staleHo s ho0 = false ∧ pkt0.keyId = 0 ∧ offer0.kind < 2
        ∧ s.takesMoves = true ∧ s.now ≤ offer0.tExpire
        ∧ s.byRid ho0.rid = none ∧ arrivalRefusal s offer0.dstPallet offer0.keyslot 10 0 imageHdr0 false = none ∧ (pickSlot s).isSome = true
        ∧ s.byHandle 0 = none ∧ 2 ≤ { offer0 with kind := 3 }.kind)
      ∧ (Arrives cache 11 0x18 pkt0 rx0 ∧ staleHo cache ho0 = false ∧ cache.takesMoves = false)
      ∧ (Arrives i 11 0x18 pkt0 rx0 ∧ staleHo i h = false ∧ i.byHandle h.dstHandle = some (2, { reqB with resSpill := 1 })
        ∧ incrementRefusal i h { offer0 with nspill := 1 } 2 { reqB with resSpill := 1 } = none ∧ (takeSpills 2 1 i).isSome = true)
      ∧ (inc.req.into.find? (fun v => v.srcMod == 7 && v.xid == 1 && v.state == .pulling && v.kind ≠ .rebuild)
          = some (incoming .increment .pulling) ∧ image0.pages = [] ∧ inc.request? 2 = some q)
      ∧ (whole.req.into.find? (fun v => v.srcMod == 7 && v.xid == 1 && v.state == .pulling && v.kind ≠ .rebuild)
          = some (incoming .whole .pulling) ∧ wire0.stream.isEmpty = true ∧ wire0.damaged.isEmpty = true
        ∧ (installImage whole 2 image0 (wireTables wire0)).any
            (fun s1 => (s1.request? 2).isSome) = true
        ∧ installImage whole 3 image0 (wireTables wire0) = none)
      ∧ (NMap.get? dirty.mem.flushes 6 = some { what := .moveIn, pallet := 0, va := 0x200000000000, len := 1 }
        ∧ flushReady dirty { what := .moveIn, pallet := 0, va := 0x200000000000, len := 1 } = false)
      ∧ (∀ w : FlushFor, NMap.get? (flushing serving (flushFor w)).mem.flushes 6 = some (flushFor w)
        ∧ flushReady (flushing serving (flushFor w)) (flushFor w) = true ∧ (flushFor w).what = w)
      ∧ (finc.req.into.find? (fun v => v.flush == 6 && v.state == .flushing) = some (incoming .increment .flushing)
        ∧ finc.request? 2 = some q ∧ NMap.get? finc.mem.flushes 6 = some (flushFor .moveIn)
        ∧ NMap.get? fl.mem.flushes 6 = some (flushFor .moveIn)
        ∧ flushReady finc (flushFor .moveIn) = true ∧ flushReady fl (flushFor .moveIn) = true
        ∧ fl.req.into.find? (fun v => v.flush == 6 && v.state == .flushing) = some (incoming .whole .flushing)
        ∧ (incoming .whole .flushing).copyGroup.getD 0 0xFFFF ≠ fl.moduleNum ∧ fl.dead 7 = false)
      ∧ (Arrives (home.at 10) 11 0x18 pkt0 rx0 ∧ staleHo (home.at 10) ho0 = false ∧ home.home? ho0.rid = some (home0 4)
        ∧ (home0 4).primary = true ∧ (home0 4).homeSeq = ho0.homeSeq ∧ (home0 4).alone home = true
        ∧ Arrives (back.at 10) 11 0x18 pkt0 rx0 ∧ staleHo (back.at 10) ho0 = false
        ∧ ({ home0 4 with backup := 7 } : HomeReg).alone back = false ∧ (home0 5).homeSeq ≠ ho0.homeSeq ∧ (home0 5).homeMod ≠ pkt0.srcMod)
      ∧ (mirrorPending mir 77 = true ∧ mir.home? 77 = some { home0 4 with backup := 7 })
      ∧ (mirrorPending wait 77 = false ∧ wait.home? 77 = some { home0 4 with waiting := [(11, pktE)] }
        ∧ wait.dead pktE.srcMod = false ∧ NMap.get? wait.trn.rx (rxKey pktE.srcMod pktE.flow) = some rx0)
      ∧ (placingOf pl 77 = some (incoming .whole .placing) ∧ pl.request? 2 = some q ∧ placingOf plr 77 = some (incoming .rebuild .placing)
        ∧ placedAgain pl (incoming .whole .placing) = false ∧ placingOf lost 77 = some (incoming .whole .placing)
        ∧ placedAgain lost (incoming .whole .placing) = true ∧ lost.dead 8 = false ∧ lost.dead 7 = true
        ∧ (incoming .whole .placing).copyGroup.getD 1 0xFFFF = 8
        ∧ (incoming .whole .placing).tPlaced + due ≤ (lost.at due).now ∧ (pl.at (due - 1)).now < (incoming .whole .placing).tPlaced + due) :=
  ⟨⟨arrives_of (by decide +kernel), by decide +kernel⟩, ⟨arrives_of (by decide +kernel), by decide +kernel⟩,
    ⟨arrives_of (by decide +kernel), by decide +kernel⟩, by decide +kernel, by decide +kernel, by decide +kernel,
    fun _ => ⟨rfl, rfl, rfl⟩, by decide +kernel,
    ⟨arrives_of (by decide +kernel), by decide +kernel, by decide +kernel, by decide +kernel, by decide +kernel, by decide +kernel,
      arrives_of (by decide +kernel), by decide +kernel⟩, by decide +kernel, by decide +kernel, by decide +kernel⟩

/-- A block with the length of another type. -/
def badBlock : Stored := { off := 0, block := { rawBlock [] with lenA := 1 } }

/-- A shard of one stripe, of a version whose successor is written. -/
def shard0 : CopyShard :=
  { shard := 5, pallet := 0, version := 1, cstep := 0, stripes := 1, units := [(0, badBlock)], nextVersion := 2, nextShard := 5,
    nextUnits := [], tables := none }

/-- The module with a request, shards of two copies, of which one is coded, and a verification. -/
def copying (l : ReqLocal) : State :=
  let s := withReq serving reqB
  { s with
    req := { s.req with
      locals := [(2, l)], homes := [(77, home0 4)], verify := [(78, .mailbox 16)],
      shards := [(77, shard0), (78, { shard0 with tables := some ([], 0) })] } }

def refresh0 (member : Nat) : Refresh :=
  { version := 2, cstep := 3, stripes := 1, unacked := [(member, 0)], again := [], units := [], stride := 1 }

/-- The flush of a COPY_COMMIT of version 2 or 3. -/
def commitFlush (v : Nat) : FlushRec := flushFor (.commit (some (11, pktE)) ho0 v 3 1)

theorem witness_CopiesRebuildsAndImages :
    let s := (copying ReqLocal.zero).at 10
    let due := copying { ReqLocal.zero with refreshDue := true }
    let parked := copying { ReqLocal.zero with refreshDue := true, parked := true }
    let r := fun (k : Nat) => (copying { ReqLocal.zero with refresh := some (refresh0 k) }).setObj Obj.RMF_DEAD 11 1
    let two := flushing (copying ReqLocal.zero) (commitFlush 2)
    let three := flushing (copying ReqLocal.zero) (commitFlush 3)
    let busy := { (stepOf net id id) with boot := up.boot }
    let off := copying ReqLocal.zero |>.setObj Obj.CMP_WIRE_MODE 0 0
    let coded := outgoing serving .movingOut (moving .pulling)
    let srv := coded.setObj Obj.CMP_WIRE_MODE 0 0
    let reb := receiving .rebuild .pulling
    let mi : IncOut := { rid := 77, xid := 1, handle := 9, dst := 7, tExpire := 20, pulling := true, tPull := 2, units := [[1]] }
    let inc := { serving with req := { serving.req with incs := [mi] } }
    let m := incoming .rebuild .pulling
    let hdr : ImageHdr := { geom := geom0, pfmt := 0, resPages := 1, resSpill := 0, blocks := [block0] }
    let checked := { (stepOf net id id) with req := { (stepOf net id id).req with verify := [(78, .mailbox 16)], shards := [(78, shard0)] } }
    (s.request? 2 = some reqB ∧ (due.reqLocal 2).refreshDue = true ∧ (due.reqLocal 2).refresh = none ∧ reqB.life ≠ .movingIn
        ∧ (due.reqLocal 2).parked = false ∧ (s.reqLocal 2).refreshDue = false
        ∧ (copyMembers (due.setObj Obj.RMF_DEAD 11 1) 2 reqB).length < 6)
      ∧ (parked.request? 2 = some reqB ∧ (parked.reqLocal 2).parked = true ∧ parkDamaged parked reqB = true)
      ∧ (((r 0).reqLocal 2).refresh = some (refresh0 0) ∧ (∃ y ∈ (refresh0 0).unacked, y.1 ∈ copyMembers (r 0) 2 reqB)
        ∧ ((r 5).reqLocal 2).refresh = some (refresh0 5) ∧ ∀ y ∈ (refresh0 5).unacked, y.1 ∉ copyMembers (r 5) 2 reqB)
      ∧ (Arrives s 11 0x18 pkt0 rx0 ∧ hoKnown ho0 = true ∧ staleHo s ho0 = false ∧ ((s.shard? ho0.rid).bind (·.tables)) = none)
      ∧ (NMap.get? two.mem.flushes 6 = some (commitFlush 2) ∧ NMap.get? three.mem.flushes 6 = some (commitFlush 3)
        ∧ flushReady two (commitFlush 2) = true ∧ flushReady three (commitFlush 3) = true
        ∧ two.shard? ho0.rid = some shard0 ∧ shard0.nextVersion = 2 ∧ shard0.nextVersion ≠ 3 ∧ shard0.version ≠ 0
        ∧ shard0.follows 2 shard0.nextShard = true)
      ∧ Served s (.mailbox 16) ∧ (s.takesMoves = true ∧ s.byRid 80 = none ∧ s.req.into.any (fun y => y.rid == 80) = false
        ∧ (pickSlot s).isSome = true ∧ net.takesMoves = false ∧ s.byRid 77 = some (2, reqB)
        ∧ groupChangeOk reqB.copyGroup [5, 7, 8, 9, 10, 12] = true ∧ groupChangeOk reqB.copyGroup [5, 7, 8, 9, 12, 10] = false
        ∧ s.inStep 0 2 = false ∧ busy.inStep 0 2 = true ∧ busy.byRid 77 = some (2, req0) ∧ codedHere s 78 = true ∧ codedHere s 77 = false)
      ∧ Served net (.mailbox 16) ∧ Served busy (.mailbox 16)
      ∧ (reb.req.into.find? (fun y => y.rid == 77 && y.kind == .rebuild && y.state == .pulling) = some m
        ∧ arrivalRefusal reb 0 image0.keyslot image0.ctxlen (imageSpill image0) hdr true = none
        ∧ (installImage (reserveArrival reb 2 m.handle 77 image0.keyslot 0 4 (imageSpill image0) hdr) 2
            { image0 with copyVer := 2, copyGroup := m.copyGroup } none).any (fun s => (s.request? 2).isSome) = true)
      ∧ (Sys2Proof.Machine.serving s 80 = none ∧ Sys2Proof.Machine.serving inc 77 = some (.increment mi) ∧ (Sys2Proof.Machine.serving srv 77).isSome = true ∧ srv.wireCodes = false
        ∧ (Sys2Proof.Machine.serving coded 77).isSome = true ∧ coded.wireCodes = true ∧ (coded.reqLocal 2).parked = false
        ∧ Sys2Proof.Machine.serving s 77 = some (.shard shard0) ∧ s.wireCodes = true ∧ Sys2Proof.Machine.serving off 77 = some (.shard shard0) ∧ off.wireCodes = false
        ∧ NMap.get? shard0.units 0 = some badBlock
        ∧ checkedUnit true shard0.codes badBlock.block = .damaged .len)
      ∧ (s.req.verify.find? (fun y => y.1 == 78) = some (78, .mailbox 16) ∧ ∀ n ∈ verifyPallets s 78, (s.pallet n).run = none)
      ∧ (checked.req.verify.find? (fun y => y.1 == 78) = some (78, .mailbox 16)
        ∧ ∃ n ∈ verifyPallets checked 78, (checked.pallet n).run ≠ none) :=
  ⟨by decide +kernel, by decide +kernel, by decide +kernel, ⟨arrives_of (by decide +kernel), by decide +kernel⟩, by decide +kernel,
    ⟨by decide +kernel, by decide +kernel⟩, by decide +kernel, ⟨by decide +kernel, by decide +kernel⟩,
    ⟨by decide +kernel, by decide +kernel⟩, by decide +kernel, by decide +kernel, by decide +kernel, by decide +kernel⟩

/-- The read of a stripe that is whole. -/
theorem witness_CopiesRebuildsAndImages_stripe :
    let b : Stored := { off := 0, block := rawBlock (zeros unitSize) }
    let k := { shard0 with units := [(0, b)] }
    let s := { serving with req := { serving.req with shards := [(77, k)] } }
    Sys2Proof.Machine.serving s 77 = some (.shard k) ∧ NMap.get? k.units 0 = some b
      ∧ checkedUnit true k.codes b.block = .ok (zeros unitSize) := by
  have h : (zeros unitSize).length = unitSize := by simp [zeros]
  exact ⟨rfl, rfl, by simp [checkedUnit, decodeUnit, rawBlock, h]⟩

/-- Commits of version 2: by a primary that holds another shard, and by one with a backup, module 0, to wait for. -/
theorem witness_CopiesRebuildsAndImages_home :
    let a := flushing (copying ReqLocal.zero) (commitFlush 2)
    let k := { shard0 with shard := 0, nextShard := 0, nextUnits := [(0, badBlock)] }
    let e : CompEntry := { record := modRec 0, emask := 1, staged := false, drop := false }
    let b := { a with req := { a.req with shards := [(77, k)] }, rmf := { a.rmf with entries := a.rmf.entries ++ [(4, e)] } }
    let x := { home0 4 with primary := false, backup := 0xFFFF, peer := 0xFFFF }
    let y := { home0 4 with copyVer := 2, cstep := 3, backup := 0 }
    (committedHome a ho0 2 3 = some x ∧ x.alone a = true)
      ∧ (NMap.get? b.mem.flushes 6 = some (commitFlush 2) ∧ flushReady b (commitFlush 2) = true ∧ b.shard? ho0.rid = some k
        ∧ committedHome b ho0 2 3 = some y ∧ y.alone b = false) := by
  decide +kernel
/-! ## Well-formedness: each check refuses a term that breaks it -/

def hdrM : MortarHdr := { src := 3, pallet := 0, tag := 4 }

def qmod0 : QModify := { typ := 2, relaxed := false, pallet := 0, cls := 3, keyId := 0, cqn := 0, logSize := 16, ring := 0, reserved := false }

def abort0 : CollAbort := { gid := 9, reason := .timeout, step := 3, rid := 2, tDetect := 0, origin := 7 }

def callW : AttCall := { call0 with qseg := List.replicate 64 0, parent := List.replicate 64 0 }

def hint0 : Hint := { entry := 0, layer := 0, kvhead := 0, page := 0 }

def carried0 : CarriedEntry := { step := 0, status := .ok, frames := [] }

def page0 : PageRec := { layer := 0, head := 0, page := 0, elems := List.replicate 8192 0, side := List.replicate 1024 0, spill := [] }

def inc0 : Increment := { pos0 := 0, ntok := 1, last := false, pending := [1], nspill := 0, pages := [] }

def addr0 : ObjAddr := { index := 0x2200, sub := 1, inst := 0 }

theorem test_wf_token : tok1.wf = true
    ∧ ([{ tok1 with src := 2 ^ 12 }, { tok1 with kind := 2 ^ 8 }, { tok1 with engines := 2 ^ 8 },
      { tok1 with passes := 2 ^ 16 }, { tok1 with arrId := 2 ^ 17 }, { tok1 with page := 2 ^ 48 }, { tok1 with args := [] },
      { tok1 with tag := 2 ^ 16 }] : List Token).all (fun x => !x.wf) = true := by
  decide +kernel

theorem test_wf_mortarHdr : hdrM.wf = true
    ∧ ([{ hdrM with src := 2 ^ 12 }, { hdrM with tag := 2 ^ 16 }] : List MortarHdr).all (fun x => !x.wf) = true := by
  decide +kernel

theorem test_wf_pkt : pktE.wf = true
    ∧ ([{ pktE with epoch := 2 ^ 16 }, { pktE with srcMod := 2 ^ 16 }, { pktE with dstMod := 2 ^ 16 },
      { pktE with flow := 2 ^ 14 }, { pktE with keyId := 2 ^ 16 }, { pktE with psn := 2 ^ 24 }, { pktE with fgen := 2 ^ 8 },
      { pktE with flowT := 2 ^ 64 }, { pktE with dq := 2 ^ 18 }, { pktE with sq := 2 ^ 18 }, { pktE with addr := 2 ^ 64 },
      { pktE with rkey := 2 ^ 32 }, { pktE with tag := 2 ^ 32 }, { pktE with imm := 2 ^ 32 }, { pktE with ackPsn := 2 ^ 24 },
      { pktE with aux := 2 ^ 32 }, { pktE with birth := 2 ^ 64 }, { pktE with icv := .bytes (2 ^ 128) }, { pktE with cls := 2 ^ 3 }] : List Pkt).all (fun x => !x.wf) = true := by
  decide +kernel

theorem test_wf_wqe : wqe0.wf = true
    ∧ ([{ wqe0 with dstMod := 2 ^ 16 }, { wqe0 with dq := 2 ^ 18 }, { wqe0 with wrid := 2 ^ 64 },
      { wqe0 with laddr := 2 ^ 64 }, { wqe0 with lkey := 2 ^ 32 }, { wqe0 with len := 2 ^ 32 },
      { wqe0 with raddr := 2 ^ 64 }, { wqe0 with rkey := 2 ^ 32 }, { wqe0 with imm := 2 ^ 32 }, { wqe0 with wcq := 2 ^ 18 },
      { wqe0 with wcount := 2 ^ 32 }] : List Wqe).all (fun x => !x.wf) = true := by
  decide +kernel

theorem test_wf_qModify : qmod0.wf = true
    ∧ ([{ qmod0 with typ := 2 ^ 3 }, { qmod0 with cls := 2 ^ 2 }, { qmod0 with keyId := 2 ^ 16 }, { qmod0 with cqn := 2 ^ 18 },
      { qmod0 with logSize := 2 ^ 5 }, { qmod0 with ring := 2 ^ 64 }] : List QModify).all (fun x => !x.wf) = true := by
  decide +kernel

theorem test_wf_rackCmd : (rackCmd 64).wf = true
    ∧ ([{ (rackCmd 64) with aop := 2 ^ 4 }, { (rackCmd 64) with region := 2 ^ 32 }, { (rackCmd 64) with offset := 2 ^ 48 },
      { (rackCmd 64) with laddr := 2 ^ 32 }, { (rackCmd 64) with len := 2 ^ 32 }, { (rackCmd 64) with opnd1 := 2 ^ 64 },
      { (rackCmd 64) with opnd2 := 2 ^ 64 }, { (rackCmd 64) with arrId := 2 ^ 17 }, { (rackCmd 64) with arrTag := 2 ^ 16 }] : List RackCmd).all (fun x => !x.wf) = true := by
  decide +kernel

theorem test_wf_mapRecord : mod7.wf = true
    ∧ ([{ mod7 with kind := 2 ^ 4 }, { mod7 with key := 2 ^ 32 }, { mod7 with ports := 2 ^ 12 }, { mod7 with home := 2 ^ 16 },
      { mod7 with writer := 2 ^ 16 }, { mod7 with rkey := 2 ^ 32 }, { mod7 with base := 2 ^ 48 },
      { mod7 with length := 2 ^ 48 }, { mod7 with split := 2 ^ 2 }, { mod7 with accel := 2 ^ 16 },
      { mod7 with members := List.replicate 17 0 }, { mod7 with members := List.replicate 1 (2 ^ 16) },
      { mod7 with rid := 2 ^ 64 }] : List MapRecord).all (fun x => !x.wf) = true := by
  decide +kernel

theorem test_wf_collAbort : abort0.wf = true
    ∧ ([{ abort0 with gid := 2 ^ 16 }, { abort0 with step := 2 ^ 32 }, { abort0 with rid := 2 ^ 64 },
      { abort0 with tDetect := 2 ^ 64 }, { abort0 with origin := 2 ^ 16 }] : List CollAbort).all (fun x => !x.wf) = true := by
  decide +kernel

theorem test_wf_attCall : callW.wf = true
    ∧ ([{ callW with handle := 2 ^ 32 }, { callW with step := 2 ^ 32 }, { callW with layer := 2 ^ 8 }, { callW with nq := 0 },
      { callW with nq := 65 }, { callW with mode := 2 ^ 2 }, { callW with qfmt := 2 ^ 3 }, { callW with segmode := 2 ^ 2 },
      { callW with nqh := 2 ^ 8 }, { callW with nkv := 2 ^ 5 }, { callW with hdimc := 2 ^ 2 }, { callW with part := 2 ^ 8 },
      { callW with npart := 2 ^ 8 }, { callW with ctxlen := 2 ^ 32 }, { callW with massB := 2 ^ 16 },
      { callW with qseg := [] }, { callW with qseg := List.replicate 64 (2 ^ 8) }, { callW with parent := [] },
      { callW with parent := List.replicate 64 (2 ^ 8) }, { callW with qElems := List.replicate 1 (2 ^ 8) },
      { callW with qScales := List.replicate 1 (2 ^ 8) }, { callW with freshElems := List.replicate 1 (2 ^ 8) },
      { callW with freshScales := List.replicate 1 (2 ^ 8) }] : List AttCall).all (fun x => !x.wf) = true := by
  decide +kernel

theorem test_wf_logitsMsg : logits0.wf = true
    ∧ ([{ logits0 with handle := 2 ^ 32 }, { logits0 with step := 2 ^ 32 }, { logits0 with nnodes := 2 ^ 6 },
      { logits0 with nstream := 2 ^ 5 }, { logits0 with lfmt := 2 ^ 2 }, { logits0 with vocab := [] },
      { logits0 with vocab := List.replicate 16 (2 ^ 32) }, { logits0 with logits := List.replicate 1 (2 ^ 32) }] : List LogitsMsg).all (fun x => !x.wf) = true := by
  decide +kernel

theorem test_wf_block : block0.wf = true
    ∧ ([{ block0 with window := 2 ^ 16 }, { block0 with vocab := 2 ^ 32 }, { block0 with topk := 2 ^ 32 },
      { block0 with seed := 2 ^ 64 }, { block0 with stop := 2 ^ 32 }] : List Block).all (fun x => !x.wf) = true := by
  decide +kernel

theorem test_wf_geom : geom0.wf = true
    ∧ ([{ geom0 with nlayer := 2 ^ 8 }, { geom0 with nkv := 2 ^ 5 }, { geom0 with hdimc := 2 ^ 2 },
      { geom0 with dlayer := 2 ^ 7 }, { geom0 with dnkv := 2 ^ 5 }, { geom0 with dhdimc := 2 ^ 2 }] : List Geom).all (fun x => !x.wf) = true := by
  decide +kernel

theorem test_wf_admitBody : admit0.wf = true
    ∧ ([{ admit0 with rid := 2 ^ 64 }, { admit0 with pfmt := 2 ^ 2 }, { admit0 with nstream := 2 ^ 5 },
      { admit0 with nlayer := 2 ^ 8 }, { admit0 with nkv := 2 ^ 5 }, { admit0 with hdimc := 2 ^ 2 },
      { admit0 with dlayer := 2 ^ 7 }, { admit0 with dnkv := 2 ^ 5 }, { admit0 with dhdimc := 2 ^ 2 },
      { admit0 with lmax := 2 ^ 32 }, { admit0 with blocks := [{ block0 with window := 2 ^ 16 }] }] : List AdmitBody).all (fun x => !x.wf) = true := by
  decide +kernel

theorem test_wf_stepEntry : sentry0.wf = true
    ∧ ([{ sentry0 with handle := 2 ^ 32 }, { sentry0 with step := 2 ^ 32 }, { sentry0 with ntok := 2 ^ 7 },
      { sentry0 with incPos0 := 2 ^ 32 }, { sentry0 with dstHandle := 2 ^ 32 }, { sentry0 with dstMod := 2 ^ 16 },
      { sentry0 with dstPallet := 2 ^ 4 }, { sentry0 with deadline := 2 ^ 64 }] : List StepEntry).all (fun x => !x.wf) = true := by
  decide +kernel

theorem test_wf_hint : hint0.wf = true
    ∧ ([{ hint0 with entry := 2 ^ 9 }, { hint0 with layer := 2 ^ 8 }, { hint0 with kvhead := 2 ^ 4 },
      { hint0 with page := 2 ^ 32 }] : List Hint).all (fun x => !x.wf) = true := by
  decide +kernel

theorem test_wf_carriedEntry : carried0.wf = true
    ∧ ([{ carried0 with step := 2 ^ 32 }, { carried0 with frames := [List.replicate 17 0] },
      { carried0 with frames := [[2 ^ 32]] }] : List CarriedEntry).all (fun x => !x.wf) = true := by
  decide +kernel

theorem test_wf_stepDesc : desc1.wf = true
    ∧ ([{ desc1 with batch := 2 ^ 32 }, { desc1 with kind := 2 ^ 2 }, { desc1 with arrTarget := 2 ^ 32 },
      { desc1 with accelMod := 2 ^ 16 }, { desc1 with accelQ := 2 ^ 18 }, { desc1 with imageId := 2 ^ 64 },
      { desc1 with length := 2 ^ 32 }, { desc1 with entries := List.replicate 1024 sentry0 },
      { desc1 with entries := [{ sentry0 with ntok := 2 ^ 7 }] }, { desc1 with hints := List.replicate 8192 hint0 },
      { desc1 with hints := [{ hint0 with layer := 2 ^ 8 }] }, { desc1 with replay := [{ carried0 with step := 2 ^ 32 }] }] : List StepDesc).all (fun x => !x.wf) = true := by
  decide +kernel

theorem test_wf_hoHdr : ho0.wf = true
    ∧ ([{ ho0 with xid := 2 ^ 32 }, { ho0 with rid := 2 ^ 64 }, { ho0 with srcHandle := 2 ^ 32 },
      { ho0 with dstHandle := 2 ^ 32 }, { ho0 with srcMod := 2 ^ 16 }, { ho0 with dstMod := 2 ^ 16 },
      { ho0 with homeSeq := 2 ^ 32 }, { ho0 with typ := 2 ^ 8 }] : List HoHdr).all (fun x => !x.wf) = true := by
  decide +kernel

theorem test_wf_offerBody : offer0.wf = true
    ∧ ([{ offer0 with kind := 2 ^ 2 }, { offer0 with pos0 := 2 ^ 32 }, { offer0 with ntok := 2 ^ 32 }, { offer0 with nunits := 2 ^ 32 },
      { offer0 with reg := 2 ^ 16 }, { offer0 with nspill := 2 ^ 32 }, { offer0 with image := 2 ^ 48 },
      { offer0 with tExpire := 2 ^ 64 }, { offer0 with pending := List.replicate 17 0 },
      { offer0 with pending := List.replicate 1 (2 ^ 32) }] : List OfferBody).all (fun x => !x.wf) = true := by
  decide +kernel

theorem test_wf_imageHdr : imageHdr0.wf = true
    ∧ ([{ imageHdr0 with geom := { geom0 with nkv := 2 ^ 5 } }, { imageHdr0 with pfmt := 2 ^ 3 },
      { imageHdr0 with resPages := 2 ^ 32 }, { imageHdr0 with resSpill := 2 ^ 32 },
      { imageHdr0 with blocks := [{ block0 with window := 2 ^ 16 }] }] : List ImageHdr).all (fun x => !x.wf) = true := by
  decide +kernel

theorem test_wf_pageRec : page0.wf = true
    ∧ ([{ page0 with layer := 2 ^ 8 }, { page0 with head := 2 ^ 5 }, { page0 with page := 2 ^ 32 }, { page0 with elems := [] },
      { page0 with side := [] }, { page0 with spill := [[]] }] : List PageRec).all (fun x => !x.wf) = true := by
  decide +kernel

theorem test_wf_increment : inc0.wf = true
    ∧ ([{ inc0 with pos0 := 2 ^ 32 }, { inc0 with ntok := 2 ^ 32 }, { inc0 with pending := List.replicate 17 0 },
      { inc0 with pending := List.replicate 1 (2 ^ 32) }, { inc0 with nspill := 2 ^ 32 },
      { inc0 with pages := [{ page0 with layer := 2 ^ 8 }] }] : List Increment).all (fun x => !x.wf) = true := by
  decide +kernel

theorem test_wf_image : image0.wf = true
    ∧ ([{ image0 with geom := { geom0 with nkv := 2 ^ 5 } }, { image0 with nstream := 2 ^ 5 }, { image0 with pfmt := 2 ^ 3 },
      { image0 with ctxlen := 2 ^ 32 }, { image0 with nextStep := 2 ^ 32 }, { image0 with cstep := 2 ^ 32 },
      { image0 with copyVer := 2 ^ 32 }, { image0 with admitHandle := 2 ^ 32 }, { image0 with resPages := 2 ^ 32 },
      { image0 with resSpill := 2 ^ 32 }, { image0 with copyGroup := [] },
      { image0 with copyGroup := List.replicate 6 (2 ^ 16) }, { image0 with tAdmit := 2 ^ 64 }, { image0 with tLast := 2 ^ 64 },
      { image0 with pending := List.replicate 17 0 }, { image0 with pending := List.replicate 1 (2 ^ 32) },
      { image0 with blocks := List.replicate 17 block0 }, { image0 with blocks := [{ block0 with window := 2 ^ 16 }] },
      { image0 with pages := [{ page0 with layer := 2 ^ 8 }] }, { image0 with inbox := [{ inc0 with pos0 := 2 ^ 32 }] }] : List Image).all (fun x => !x.wf) = true := by
  decide +kernel

theorem test_wf_wireRead : wire0.wf = true
    ∧ ([{ wire0 with stream := zeros 2241 }, { wire0 with damaged := [List.replicate 257 .code] }] : List WireRead).all
      (fun x => !x.wf) = true := by
  decide +kernel

def keys0 : SlotKeys := { xts := 0, link := 0, model := 0 }

theorem test_wf_slotKeys : keys0.wf = true
    ∧ ([{ keys0 with xts := 2 ^ 512 }, { keys0 with link := 2 ^ 256 }, { keys0 with model := 2 ^ 256 }] : List SlotKeys).all
      (fun x => !x.wf) = true := by
  decide +kernel

def master0 : PtpMaster :=
  { priority1 := 128, clockClass := 6, accuracy := 33, variance := 0, priority2 := 128, identity := 1, steps := 0, sender := 1 }

theorem test_wf_ptpMaster : master0.wf = true
    ∧ ([{ master0 with priority1 := 2 ^ 8 }, { master0 with clockClass := 2 ^ 8 }, { master0 with accuracy := 2 ^ 8 },
      { master0 with variance := 2 ^ 16 }, { master0 with priority2 := 2 ^ 8 }, { master0 with identity := 2 ^ 64 },
      { master0 with steps := 2 ^ 16 }, { master0 with sender := 2 ^ 80 }] : List PtpMaster).all (fun x => !x.wf) = true := by
  decide +kernel

/-- A single packet stands with its trailer's bytes (R239). -/
theorem test_wf_onePacket : ({ pktE with icv := .bytes 0 } : Pkt).wfOne = true
    ∧ ({ pktE with icv := .checked true } : Pkt).wfOne = false := by
  decide +kernel

theorem test_wf_placeCmd : place0.wf = true
    ∧ ([{ place0 with stackMask := 2 ^ 8 }, { place0 with npages := 2 ^ 32 }, { place0 with va := 2 ^ 48 },
      { place0 with hostPa := 2 ^ 64 }, { place0 with tag := 2 ^ 32 }] : List PlaceCmd).all (fun x => !x.wf) = true := by
  decide +kernel

theorem test_wf_objAddr : addr0.wf = true
    ∧ ([{ addr0 with index := 2 ^ 16 }, { addr0 with sub := 2 ^ 8 }, { addr0 with inst := 2 ^ 32 }] : List ObjAddr).all (fun x => !x.wf) = true := by
  decide +kernel

theorem test_wf_manifest : manifest0.wf = true
    ∧ ([{ manifest0 with magic := 2 ^ 16 }, { manifest0 with version := 2 ^ 8 }, { manifest0 with kind := 2 ^ 2 },
      { manifest0 with ncourse := 2 ^ 5 }, { manifest0 with imageId := 2 ^ 64 },
      { manifest0 with geom := { geom0 with nkv := 2 ^ 5 } }, { manifest0 with nqh := 2 ^ 8 },
      { manifest0 with macPerNode := 2 ^ 64 }, { manifest0 with counts := [] },
      { manifest0 with counts := List.replicate 3 (2 ^ 32, 0, 0) },
      { manifest0 with variants := List.replicate 16 (0, [0, 0, 0, 0]) },
      { manifest0 with variants := [(2 ^ 6, [0, 0, 0, 0])] }, { manifest0 with variants := [(1, [])] },
      { manifest0 with variants := [(1, [2 ^ 16, 0, 0, 0])] }, { manifest0 with loads := [(2 ^ 6, [])] },
      { manifest0 with loads := [(1, [(2 ^ 11, 0, 0, 0)])] }] : List Manifest).all (fun x => !x.wf) = true := by
  decide +kernel

theorem test_wf_policy : policy0.wf = true
    ∧ ([{ policy0 with tenantId := 2 ^ 64 }, { policy0 with consent := 2 ^ 4 }, { policy0 with pallets := 2 ^ 16 },
      { policy0 with lds := 2 ^ 16 }, { policy0 with minFwSvn := 2 ^ 16 }, { policy0 with minKilnSvn := 2 ^ 16 },
      { policy0 with imageSigner := 2 ^ 512 }] : List Policy).all (fun x => !x.wf) = true := by
  decide +kernel

theorem test_wf_frame : frame0.wf = true
    ∧ ([{ frame0 with tpid := 2 ^ 16 }, { frame0 with etype := 2 ^ 16 }, { frame0 with gver := 2 ^ 8 },
      { frame0 with kind := 2 ^ 8 }, { frame0 with op := 2 ^ 8 }, { frame0 with plen := 2 ^ 16 }, { frame0 with bytes := 2 ^ 16 }] : List Frame).all (fun x => !x.wf) = true := by
  decide +kernel

def image9 : ImageCheck := { image 1 true 1 with signer := 9 }

theorem test_wf_imageCheck : image9.wf = true
    ∧ ([{ image9 with magic := 2 ^ 32 }, { image9 with version := 2 ^ 8 }, { image9 with typ := 2 ^ 8 },
      { image9 with svn := 2 ^ 16 }, { image9 with imageId := 2 ^ 64 }, { image9 with digest := 2 ^ 512 },
      { image9 with bodyDigest := 2 ^ 512 }, { image9 with signer := 2 ^ 512 }] : List ImageCheck).all (fun x => !x.wf) = true := by
  decide +kernel

theorem test_wf_refuses_0 : ([
    .baseInstruction 0 0 0 (2 ^ 64), .jxTake 0 0 0 0 (2 ^ 64), .jxTakenb 0 0 0 0 (2 ^ 64), .jxPut 0 0 0 0 0 (2 ^ 64),
    .jxCwait 0 0 0 0 0 (2 ^ 64), .jxAwait 0 0 0 0 0 (2 ^ 64), .jxArrive 0 0 0 0 (2 ^ 64), .jxTbrlo 0 0 0 (2 ^ 64),
    .jxBwait 0 0 0 (2 ^ 64), .jxBmove 0 0 0 0 0 0 (2 ^ 64), .jxVld 0 0 0 0 0 (2 ^ 64), .jxVst 0 0 0 0 0 (2 ^ 64),
    .jxWaitEnd 0 0 (2 ^ 64), .arriveSend 0 0 (2 ^ 64), .rd (.brick 0) { hdrM with tag := 2 ^ 16 } 0 0,
    .wr (.brick 0) { hdrM with tag := 2 ^ 16 } 0 [], .wrAck (.brick 0) { hdrM with tag := 2 ^ 16 } 0 [],
    .rdData 0 { hdrM with tag := 2 ^ 16 } [], .wrDone 0 { hdrM with tag := 2 ^ 16 },
    .err 0 { hdrM with tag := 2 ^ 16 } .ok, .token 0 { tok1 with tag := 2 ^ 16 }, .arm 0 (2 ^ 16) 0 0,
    .arrive 0 (2 ^ 16) 0 0, .stepDone 0 (2 ^ 16) 0, .flitUncorrectable 0 (2 ^ 12) 0 false 0,
    .islandTempSample [] (2 ^ 64), .governorDecision (2 ^ 32) 0 0 0 0 0, .step 0 0 { desc1 with kind := 4 } 0,
    .stepStart 0 (2 ^ 64), .heldEntryResume 0 (2 ^ 10) 0, .stepBoundary 0 (2 ^ 64), .quantiserGo 0 0 0 (2 ^ 64),
    .quantiserDone 0 (2 ^ 64), .attCall 0 { pktE with psn := 2 ^ 24 } callW 0, .attCallService (2 ^ 32) 0 0 0,
    .attAnswer (2 ^ 32) 0 0 false 0, .attDeadline (2 ^ 32) 0 0 0, .draftTree (2 ^ 32) [] 0,
    .logits 0 { pktE with psn := 2 ^ 24 } logits0 0, .drfLogitsTimeout (2 ^ 32) 0, .admitCmd 0 0 (2 ^ 32) admit0 0,
    .reqUpdate 0 0 (2 ^ 32) 0 0 [] 0, .reserve 0 0 (2 ^ 32) 0 0 0, .release 0 0 (2 ^ 32) 0 0, .releaseFree (2 ^ 20) 0,
    .cancel 0 0 (2 ^ 32) 0 0 0, .move 0 0 (2 ^ 32) 0 0 0 0 0, .rqsMove .unauth (2 ^ 64) 0 0 0 0, .moveOffer (2 ^ 20) 0,
    .offerWhole 0 { pktE with psn := 2 ^ 24 } ho0 offer0 imageHdr0 0,
    .offerIncrement 0 { pktE with psn := 2 ^ 24 } ho0 offer0 0, .pull 0 { pktE with psn := 2 ^ 24 } ho0 0,
    .offerExpiry (2 ^ 20) 0, .imageReadDone (2 ^ 16) 0 image0 wire0 0, .flushComplete (2 ^ 64) 0,
    .placed 0 { pktE with psn := 2 ^ 24 } ho0 0 0, .homeRegisterMirror 0 { pktE with psn := 2 ^ 24 } 0 0 0 0 0 0 0 0,
    .homeUpdateAck (2 ^ 64) 0, .placedResponse (2 ^ 64) false 0, .placedResendExpiry (2 ^ 64) 0] : List Instr).all (fun i => !i.wf) = true := by
  decide +kernel

theorem test_wf_refuses_1 : ([
    .handoverRelease 0 { pktE with psn := 2 ^ 24 } ho0 0, .placeWaitExpiry (2 ^ 20) 0, .moveStuck (2 ^ 20) 0,
    .copyRefresh (2 ^ 20) 0, .copyWrite 0 { pktE with psn := 2 ^ 24 } ho0 0 0 0 [] false 0, .copyCommitSend (2 ^ 20) 0,
    .copyCommit 0 { pktE with psn := 2 ^ 24 } ho0 0 0 0 0, .rqsRebuild .unauth (2 ^ 64) [] 0 0,
    .rebuildReadDone (2 ^ 64) 0 0 0 ⟨none, wire0⟩ 0, .rqsRegroup .unauth (2 ^ 64) [],
    .placeHbm 0 0 { place0 with tag := 2 ^ 32 } 0, .placeHost 0 0 { place0 with tag := 2 ^ 32 } 0,
    .flush 0 0 { place0 with tag := 2 ^ 32 } 0, .placementDone (2 ^ 64) 0, .translationWalkDone 0 0 (2 ^ 48) 0,
    .prefetch 0 (2 ^ 48) 0, .stallThreshold 0 ⟨0, 2 ^ 48, 0, 0⟩ 0, .writebackComplete 0 ⟨2 ^ 20, 0⟩,
    .protectedRead (.requestState (2 ^ 20) 0) 0 (0, 0) 0, .hbmScrub 0 [] [] (.requestState 0 0) 0,
    .brickScrub 0 0 0 false 0 (2 ^ 64), .imageTableRead (2 ^ 64) 0, .imageUnitRead (2 ^ 64) 0 ⟨0, 0⟩ true,
    .cmpVerify .unauth (2 ^ 64), .cmpVerifyDone (2 ^ 64) [], .alignmentLoss 0 (2 ^ 64),
    .predictiveTrigger 0 [] ⟨[], 0, 0⟩ 0, .predictiveTrigger 0 (List.replicate 9 0) ⟨[], 0, 0⟩ (2 ^ 64),
    .suddenTrigger 0 [] (2 ^ 64), .mirrorReq 0 0 0 false (2 ^ 16),
    .switched 0 0 0 (2 ^ 16), .goullorFrame 0 { frame0 with gver := 256 } 0, .xon 0 0 (2 ^ 64), .pfcFrame 0 (2 ^ 8) [] 0,
    .pauseExpiry 0 0 (2 ^ 64), .pfcStorm 0 0 (2 ^ 64), .ptpSync ⟨.pps, 0⟩ false 0 0 (2 ^ 64),
    .ptpSync ⟨.pps, 2 ^ 8⟩ false 0 0 0, .ptpFollowUp ⟨.pps, 0⟩ 0 (2 ^ 64),
    .ptpDelayReq .pps (2 ^ 64), .ptpDelayResp ⟨.pps, 0⟩ 0 (2 ^ 64), .ptpAnnounce .pps (2 ^ 8) master0,
    .tbPpsInEdge false false (2 ^ 64), .tbSourceLoss .pps (2 ^ 64), .tbHoldoverExpiry (2 ^ 64),
    .tbHoldoverS .unauth (2 ^ 32) 0, .tbPpsOut (2 ^ 64), .send 0 { pktE with psn := 2 ^ 24 } 0,
    .sendImm 0 { pktE with psn := 2 ^ 24 } 0, .write 0 { pktE with psn := 2 ^ 24 } 0,
    .writeImm 0 { pktE with psn := 2 ^ 24 } 0, .readReq 0 { pktE with psn := 2 ^ 24 } 0,
    .readResp 0 { pktE with psn := 2 ^ 24 } 0, .ack 0 { pktE with psn := 2 ^ 24 } 0,
    .nakSeq 0 { pktE with psn := 2 ^ 24 } 0, .nakNotReady 0 { pktE with psn := 2 ^ 24 } 0,
    .nakNoFlow 0 { pktE with psn := 2 ^ 24 } 0, .nakStatus 0 { pktE with psn := 2 ^ 24 } 0,
    .flushAck 0 { pktE with psn := 2 ^ 24 } 0, .nrBackoffExpiry (2 ^ 14) 0, .trnTimerExpiry (2 ^ 14) 0,
    .flowFail (2 ^ 14) 0] : List Instr).all (fun i => !i.wf) = true := by
  decide +kernel

theorem test_wf_refuses_2 : ([
    .flowIdleExpiry (2 ^ 14) 0, .flowEntryWaitEnd (2 ^ 64), .receiverFlowExpiry (2 ^ 16) 0 0,
    .contextFetchDone 0 (2 ^ 64), .contextIdleMove 0 (2 ^ 64), .queueDoorbell 0 0 (2 ^ 32) 0, .cqDoorbell 0 0 (2 ^ 32) 0,
    .wqeSend 0 { wqe0 with len := 2 ^ 32 } 0, .wqeSendImm 0 { wqe0 with len := 2 ^ 32 } 0,
    .wqeWrite 0 { wqe0 with len := 2 ^ 32 } 0, .wqeWriteImm 0 { wqe0 with len := 2 ^ 32 } 0,
    .wqeRead 0 { wqe0 with len := 2 ^ 32 } 0, .waitCq 0 { wqe0 with len := 2 ^ 32 } 0, .waitCqSatisfied 0 (2 ^ 64),
    .nop 0 { wqe0 with len := 2 ^ 32 } 0, .qmodifyReady .unauth 0 { qmod0 with typ := 8 } 0,
    .qmodifyReset .unauth 0 { qmod0 with typ := 8 }, .qmodifyError .unauth 0 { qmod0 with typ := 8 } 0,
    .register 0 0 (2 ^ 32) 0 0 0 0 0 0, .revoke 0 0 (2 ^ 32) 0 0, .revokeDrained 0 (2 ^ 64),
    .registrationFree 0 (2 ^ 64), .rmfMapStage .unauth { mod7 with kind := 16 }, .rmfMapCommit .unauth (2 ^ 16),
    .load 0 0 0 { rackCmd 64 with aop := 16 } 0, .store 0 0 0 { rackCmd 64 with aop := 16 } 0,
    .atomic 0 0 0 { rackCmd 64 with aop := 16 } 0, .put 0 0 0 { rackCmd 64 with aop := 16 } 0,
    .get 0 0 0 { rackCmd 64 with aop := 16 } 0, .rmLoad 0 { pktE with psn := 2 ^ 24 } 0 0,
    .rmLoadResp 0 { pktE with psn := 2 ^ 24 } 0, .rmStore 0 { pktE with psn := 2 ^ 24 } 0 0,
    .fetchAdd 0 { pktE with psn := 2 ^ 24 } 0 0, .swap 0 { pktE with psn := 2 ^ 24 } 0 0,
    .cas 0 { pktE with psn := 2 ^ 24 } 0 0, .fetchMaxu 0 { pktE with psn := 2 ^ 24 } 0 0,
    .fetchMinu 0 { pktE with psn := 2 ^ 24 } 0 0, .fetchOr 0 { pktE with psn := 2 ^ 24 } 0 0,
    .fetchAnd 0 { pktE with psn := 2 ^ 24 } 0 0, .rmAtomicResp 0 { pktE with psn := 2 ^ 24 } 0,
    .rmPut 0 { pktE with psn := 2 ^ 24 } 0 0, .rmGetReq 0 { pktE with psn := 2 ^ 24 } 0 0,
    .rmGetResp 0 { pktE with psn := 2 ^ 24 } 0, .rmfDeadSet .unauth (2 ^ 16) 0, .rmfDeadClear .unauth (2 ^ 16),
    .collAbort 0 { pktE with psn := 2 ^ 24 } abort0 0, .collAbortUnreachable (2 ^ 16) 0 0 0, .orderInsert (2 ^ 5) 0 0,
    .slackMove (2 ^ 7), .domainRebase (2 ^ 5), .portBurstPop 0 (2 ^ 64), .shaperRefill (2 ^ 64),
    .palImageApply 0 (2 ^ 64), .palletSaveDone 0 (2 ^ 64), .palletLoadDone 0 false (2 ^ 64), .geometryApply (2 ^ 64),
    .commitGroupApply (2 ^ 64) 0, .brkCommit .unauth (2 ^ 64) 0, .brkStageDiscard .unauth (2 ^ 64),
    .objectWrite .unauth { addr0 with sub := 256 } [] 0] : List Instr).all (fun i => !i.wf) = true := by
  decide +kernel

theorem test_wf_refuses_3 : ([
    .secSlotAssign .unauth 0 (2 ^ 6) 0, .secAttestReq .unauth (2 ^ 10) 0 0, .attestReportSigned [] 0,
    .ekExpiry 0 (2 ^ 64), .secKeyRelease .unauth (2 ^ 32) 0 0 0 0 0,
    .keyInstallDone 0 false ⟨keys0, { policy0 with consent := 16 }⟩ 0,
    .keyInstallDone 0 false ⟨{ keys0 with xts := 2 ^ 512 }, policy0⟩ 0, .keyDistributionDone 0 (2 ^ 64),
    .secRetire .unauth 0 (2 ^ 64), .drainComplete 0 (2 ^ 64), .drainForced 0 (2 ^ 64), .zeroise 0 (2 ^ 64),
    .secImageInstall .unauth 0 (2 ^ 64) 0 0 0, .imageInstallDone 0 { image9 with svn := 2 ^ 16 } manifest0 [] 0,
    .hello 0 false (2 ^ 64), .challenge (2 ^ 32) 0, .challengeExpiry (2 ^ 32) 0, .auth 0 (2 ^ 32) false 0,
    .close (2 ^ 32), .sessionIdleExpiry (2 ^ 32) 0, .reassemblyExpiry (2 ^ 32) 0 0, .vdpRead 0 (2 ^ 32) 0 addr0 0 0 0,
    .vdpWrite 0 (2 ^ 32) 0 addr0 0 [] 0, .readShadow 0 (2 ^ 32) 0 addr0 0 0 0, .keepalive 0 (2 ^ 32) 0 0,
    .telemetrySample 0 (2 ^ 64), .errFaultClear .unauth (2 ^ 32), .dictRead 0 { addr0 with sub := 256 } 0 0 0,
    .dictWrite 0 { addr0 with sub := 256 } 0 [] 0, .clearEventRecords 0 0 false (List.replicate 256 0),
    .setEventInterruptPolicy 0 [], .getTimestamp 0 (2 ^ 64), .getLog 0 (2 ^ 128) 0 0,
    .setLdAllocations 0 (List.replicate 17 0), .getLdAllocations 0 (2 ^ 32), .hdmDecoderCommit 0 (2 ^ 4) 0,
    .cxlMemRead 0 (2 ^ 64) false false 0, .cxlMemWrite 0 (2 ^ 64) [], .ringTailDoorbell 0 0 (2 ^ 32) 0,
    .ringHeadDoorbell 0 0 (2 ^ 32) 0, .seqReread 0 0 (2 ^ 64), .seqWaitExpiry 0 0 (2 ^ 64),
    .msixCoalesceExpiry 0 0 (2 ^ 64), .hstFmDoorbell .unauth (2 ^ 32) 0 0, .hostDmaDone (2 ^ 64) false 0,
    .dmaTimeout (2 ^ 64) 0, .ldReset 0 (2 ^ 64), .cxlPerstN (2 ^ 64), .cxlLinkTrained (2 ^ 8) 0 0,
    .pcSample 0 false (2 ^ 64), .counterIntervalRecord none (2 ^ 64), .traceArm .unauth 0 (2 ^ 64),
    .traceTimeTrigger (2 ^ 64), .traceTrigger (2 ^ 4) 0 0, .traceFinalRead .unauth (2 ^ 32) 0, .obsMuxSel .unauth [],
    .inputExcursion (2 ^ 32) 0, .brownOut (2 ^ 64), .overVoltage (2 ^ 64), .powerRestart (2 ^ 64), .refclkLoss (2 ^ 64)] : List Instr).all (fun i => !i.wf) = true := by
  decide +kernel

theorem test_wf_refuses_4 : ([
    .resetN (2 ^ 64) 0, .bulkCharged (2 ^ 64), .modPwrgd (2 ^ 64), .internalResetRelease 0 (2 ^ 64),
    .kilnFwVerified { image9 with svn := 2 ^ 16 } image9,
    .configVerified { image9 with svn := 2 ^ 16 } image9 [], .hbmTrained (2 ^ 64),
    .marchTest 0 false (2 ^ 64), .codecSelftest 0 [] (2 ^ 64),
    .runtimeFwRunning { image9 with svn := 2 ^ 16 } image9 0, .mailboxesOpen (2 ^ 64), .powerOn (2 ^ 32) 0,
    .configurationRequest 0 .write none none (2 ^ 64), .configurationRequest 0 (.read none 2) none none 0, .conventionalReset (2 ^ 64), .managementPortLink 0 false (2 ^ 64),
    .vdpFrame 0 (2 ^ 32) 0 0 0 0 0 0 0 false false 0 0, .tbSourceSwitch .pps (2 ^ 64), .msixVectorUnmask 0 (2 ^ 12),
    .ringConfigurationWrite 0 0 0 (2 ^ 32), .qosTelemetry 0 (some [256]), .pufIdentity (some (2 ^ 512)) none 0] : List Instr).all (fun i => !i.wf) = true := by
  decide +kernel

/-! ## Single commands; the rule of spec/ that gives each result stands above the test -/

/-- The state a command answers; reset where it answers none. -/
def after (i : Instr) (s : State) : State := match exec i s with
  | .next u => u
  | _ => State.reset

/-- An invariant state and a command that changes memory. -/
theorem witness_StepKeepsInvariant :
    let s := { State.reset with pending := [.wr (.hbm 1) hdrM 8192 [7]] }
    s.Inv ∧ ∃ u, step s = .next u ∧ u.mem.hbm = [(8192, 7)] :=
  ⟨⟨⟨by decide, by decide, by decide⟩, by decide⟩, _, rfl, by decide +kernel⟩

/-- Queue: first in, first out. -/
theorem test_queue_order :
    let s := { State.reset with pending := [.marchTest 0 true 5, .counterRelease 1] }
    (match step s with
      | .next u => u.pending == [.counterRelease 1]
      | _ => false) = true := by
  decide +kernel

/-- 02, Micro-cores: RV32I. ADDI x1, x1, 1 of all ones wraps to 0, and the pc moves by 4. -/
theorem test_addi_wraps :
    let u := after (.baseInstruction 0 0 0x00108093 0) (yardX 0xFFFFFFFF)
    (u.core 0 0).getX 1 = 0 ∧ (u.core 0 0).pc = 4 := by
  decide +kernel

/-- RV32I: LUI x2, 0x12345. -/
theorem test_lui : ((after (.baseInstruction 0 0 0x12345137 0) yard).core 0 0).getX 2 = 0x12345000 := by decide +kernel

/-- RV32M: DIV by zero gives all ones (DIV x1, x1, x0). -/
theorem test_div_by_zero : ((after (.baseInstruction 0 0 0x0200C0B3 0) (yardX 5)).core 0 0).getX 1 = 0xFFFFFFFF := by decide +kernel

/-- RV32F, R61: FADD.S f1, f1, f1 of 1.0 is 2.0. -/
theorem test_fadd :
    let s := yard.onCore 0 0 (fun k => k.setF 1 0x3F800000)
    ((after (.baseInstruction 0 0 0x001080D3 0) s).core 0 0).getF 1 = 0x40000000 := by
  decide +kernel

/-- R48: four FP16 lanes of 1.0 and 2.0 add to 3.0. -/
theorem test_vadd :
    let s := yard.onCore 0 0 (fun k => (k.setV 1 0x3C003C003C003C00).setV 2 0x4000400040004000)
    ((after (.jxVadd 0 0 .fp16 3 1 2) s).core 0 0).getV 3 = 0x4200420042004200 := by
  decide +kernel

/-- R51: TAKENB on an empty queue gives 0 and goes on. -/
theorem test_takenb_empty :
    let u := after (.jxTakenb 0 0 2 1 0) (yard.onCore 0 0 (fun k => k.setX 2 9))
    (u.core 0 0).getX 2 = 0 ∧ (u.core 0 0).waiting = none := by
  decide +kernel

/-- R27: RD answers the bytes; a request outside the store is answered ERR. -/
theorem test_rd_outside : (after (.rd (.brick 0) hdrM 0x1FFFFF 2) yard).out = [.mortarErr 3 4 .accessDenied] := by decide +kernel

/-- R42: an ARRIVE that reaches the target makes the counter DONE and sends STEP_DONE. -/
theorem test_arrive_done :
    let u := after (.arrive 0 7 2 0) (yard.setCounter 0 { state := .armed, count := 1, target := 3, tag := 7 })
    (u.counter 0).state = .done ∧ u.out = [.stepDone 0 7] := by
  decide +kernel

/-- R42: an ARRIVE of another step tag is counted and discarded. -/
theorem test_arrive_stale :
    let u := after (.arrive 0 8 2 0) (yard.setCounter 0 { state := .armed, count := 1, target := 3, tag := 7 })
    (u.counter 0).count = 1 ∧ u.obj Obj.BRK_ARR_STALE 0 = 1 := by
  decide +kernel

/-- R38: a token that has passed every brick of the rectangle of four is taken. -/
theorem test_token_forced : ((after (.token 0 { tok1 with src := 0x820, passes := 4 }) yard).brick 0).tokens.length = 1 := by decide +kernel

/-- R27: the last byte of a WR of two lands at the next address. -/
theorem test_wr_hbm : (after (.wr (.hbm 2) hdrM 16384 [1, 2]) State.reset).mem.hbm = [(16384, 1), (16385, 2)] := by decide +kernel

/-- R211: agreement takes NEGOTIATING to TRAINING. -/
theorem test_negotiation_done :
    ((after (.negotiationDone 11 true) (portIs (fun v => { v with state := .negotiating }))).port 11).state = .training := by
  decide +kernel

/-- R225: a pause of one quantum lasts 0.32 ns, rounded up to 1 ns. -/
theorem test_pfc_quantum :
    NMap.get 0 ((after (.pfcFrame 11 1 [65535, 0, 0, 0, 0, 0, 0, 0] 0) portUp).port 11).pausedTill 0 = 20972 := by
  decide +kernel

/-- R246: a duplicate is acknowledged again with the expected PSN. -/
theorem test_duplicate :
    (after (.write 11 { pkt0 with psn := 2 ^ 24 - 2, data := [] } 10) net).obj Obj.TRN_DUP_RX 0 = 1 := by
  decide +kernel

/-- R255, R257: a NOP leaves the ring; HEAD wraps at 2^32. -/
theorem test_nop_head_wraps :
    let s := net.setQueue 9 { Queue.reset with state := 1, head := 2 ^ 32 - 1, tail := 0, logSize := 6, cqn := 10 }
    ((after (.nop 9 wqe0 5) s).queue 9).head = 0 := by
  decide +kernel

/-- R273: FETCH_ADD of 4 bytes wraps and answers the prior word. -/
theorem test_fetch_add_wraps :
    let s := { net with mem := { net.mem with hbm := [(0x8000 + 4, 0xFF), (0x8000 + 5, 0xFF), (0x8000 + 6, 0xFF), (0x8000 + 7, 0xFF)] } }
    (after (.fetchAdd 11 { rackPkt 4 0 8 with data := [2, 0, 0, 0, 0, 0, 0, 0] } 9 10) s).mem.hbm = [(0x8000 + 4, 1)] := by
  decide +kernel

/-- R324: weight 1 and cost 3 give VFT 3 × 65,536. -/
theorem test_order_insert :
    ((after (.orderInsert 27 0 3) net).orderBlock 0).map (fun x => x.vft) = [3 * 65536] := by
  decide +kernel

/-- R386: BRK_COMMIT answers its number. -/
theorem test_commit_number : (after (.brkCommit (.mailbox 16) 0 0) up).out = [.answer (.mailbox 16) 0 .ok 4 [1, 0, 0, 0]] := by decide +kernel

/-- R345: a slot cannot take the generation it had last. -/
theorem test_assign_same_generation :
    (after (.secSlotAssign (.mailbox 16) 5 3 0) (up.setKslot 5 { KeySlot.reset with lastGen := 3 })).kslot 5
      = { KeySlot.reset with lastGen := 3 } := by
  decide +kernel

/-- R394: the ninth session is answered NOT_READY. -/
theorem test_ninth_session : (after (.hello 1 true 5) eight).out = [.vdp 1 0 0x13 0 [9]] := by decide +kernel

/-- R360: a write to the window keeps the canonical form: a line of zeros lists nothing. -/
theorem test_window_zeros :
    (after (.cxlMemWrite 15 64 (List.replicate 64 0)) windowed).host.window = [] := by
  decide +kernel

/-- R361: an address outside the window does not exist. -/
theorem test_outside_window : (match exec (.cxlMemRead 15 (2 ^ 28) false false 0) windowed with
    | .fault r => r == .outsideWindow
    | _ => false) = true := by
  decide +kernel

/-- R460: training HBM starts every island at frequency code 0. -/
theorem test_hbm_trained :
    islandFreq ((after (.hbmTrained 5) (stage .configUp id)).island 1199) = 0 ∧ (after (.hbmTrained 5) up).boot.stage = .running := by
  decide +kernel

/-- R430: another value than 1 keeps the assertion. -/
theorem test_fault_clear_other :
    (after (.errFaultClear (.mailbox 16) 2) { up with boot := { up.boot with assertion := true } }).boot.assertion = true := by
  decide +kernel

end Sys2Proof.Machine.Tests
end

section
/-! PROOF. The whole-value writes of dictionary objects that have no command of their own (R383 to R385), and with them the
floor of the error bounds (R69). -/

namespace Sys2Proof.Machine

/-! ## A served access -/

theorem running_iff (s : State) : s.running = true ↔ s.boot.stage = .running ∨ s.boot.stage = .trip := by
  simp [State.running]

/-- Time does not close the view an access comes through. -/
theorem Served.at {s : State} {via : Via} (h : Served s via) (t : Nat) : Served (s.at t) via :=
  ⟨h.1, by cases via <;> exact h.2⟩

theorem Served.serves {s : State} {via : Via} (h : Served s via) : s.serves via = true := by
  simp [State.serves, h.1]

/-- The open mailboxes serve more than the identity area. -/
theorem Served.not_identityOnly {s : State} {via : Via} (h : Served s via) : s.identityOnly = false := by
  rcases (running_iff s).1 h.1 with hstage | hstage <;> simp [State.identityOnly, hstage]

theorem Served.mayWrite {s : State} {via : Via} (h : Served s via) (r : ObjRow) (i : Nat) :
    mayWrite s via r i = true := by
  simp [Machine.mayWrite, h.not_identityOnly, h.2]

/-! ## Shadows -/

/-- The state with a pending shadow recorded for an object (R385). -/
def State.setShadow (s : State) (oid i v : Nat) : State :=
  { s with dict := { s.dict with shadow := NMap.ins s.dict.shadow (objKey oid i) v } }

@[simp] theorem State.setShadow_obj (s : State) (oid i v o' i' : Nat) : (s.setShadow oid i v).obj o' i' = s.obj o' i' := rfl

@[simp] theorem State.setShadow_shadow_self (s : State) (oid i v : Nat) :
    NMap.get? (s.setShadow oid i v).dict.shadow (objKey oid i) = some v :=
  NMap.get?_ins_self _ _ _

@[simp] theorem bump_shadow (s : State) (oid i : Nat) : (s.bump oid i).dict.shadow = s.dict.shadow := rfl

@[simp] theorem bump_obj_oid (s : State) (oid i o' i' : Nat) (h : o' ≠ oid) : (s.bump oid i).obj o' i' = s.obj o' i' := by
  rw [State.bump_eq, State.setObj_obj_oid _ _ _ _ _ _ h]

@[simp] theorem reply_dict (s : State) (via : Via) (st : Status) (data : List Byte) :
    (s.reply via st data).dict = s.dict := rfl

@[simp] theorem reply_obj (s : State) (via : Via) (st : Status) (data : List Byte) (o' i' : Nat) :
    (s.reply via st data).obj o' i' = s.obj o' i' := rfl

/-! ## Whole values -/

/-- A value outside its object's range is refused and changes nothing (R383). -/
theorem storeValue_out_of_range {r : ObjRow} {i v : Nat} {s : State} (h : rangeOk s r (maskReserved r.oid v) = false) :
    storeValue r i v s = (s, .refuse .transportError) := by
  simp [storeValue, h]

/-- A value of an RWS object that its range and the module's state permit is recorded in the shadow (R385). -/
theorem storeValue_shadow {r : ObjRow} {i v : Nat} {s : State} (hacc : r.access = .rws)
    (hrange : rangeOk s r (maskReserved r.oid v) = true) (hallow : writeAllowed s r i (maskReserved r.oid v) = true) :
    storeValue r i v s = (s.setShadow r.oid i (maskReserved r.oid v), { status := .ok, length := 0, data := [] }) := by
  simp [storeValue, hacc, hrange, hallow, State.setShadow]

/-- A row whose objects a write stores or stages as one value: writable, not written in pieces, and not the window. -/
structure ObjRow.WholeValue (r : ObjRow) : Prop where
  writable : r.access ≠ .ro
  notOctet : r.octet = false
  notWindow : r.oid ≠ Obj.HST_FM_WINDOW

/-- A served write of a whole value counts the access, then checks and keeps the value and answers what came of it. -/
theorem objectWrite_wholeValue {s : State} {via : Via} {addr : ObjAddr} {r : ObjRow} {data : List Byte} (hs : Served s via)
    (hrow : objAt addr = some r) (hr : r.WholeValue) (hlen : data.length = r.size)
    (hcmd : commandWrite via r.oid addr.inst (ofBytes data) = none) :
    objectWrite via addr data s =
      (storeValue r addr.inst (ofBytes data) (s.bump Obj.BRK_DICT_WRITES 0)).1.answer via
        (storeValue r addr.inst (ofBytes data) (s.bump Obj.BRK_DICT_WRITES 0)).2 := by
  obtain ⟨hro, hoct, hwin⟩ := hr
  simp [objectWrite, hs.serves, writeObject, hrow, hs.mayWrite, hro, hwin, hoct, hlen, writeWhole, hcmd]

/-! ## The error bounds -/

/-- The row of the FMT_ERR_BOUND object of a format: two bytes, of a pallet, staged for its step boundary, at least 272. -/
def errBoundRow (sub : Fin 5) : ObjRow :=
  { oid := Obj.FMT_ERR_BOUND_MXFP4 + sub, size := 2, fixed := true, octet := false, access := .rws, readBoth := true,
    writeBoth := false, space := .pallet, dflt := objDefault (Obj.FMT_ERR_BOUND_MXFP4 + sub), point := .stepBoundary,
    lo := 272, hi := 65535 }

theorem objRow?_errBound (sub : Fin 5) : objRow? (Obj.FMT_ERR_BOUND_MXFP4 + sub) = some (errBoundRow sub) := by
  fin_cases sub <;> rfl

theorem errBoundRow_wholeValue (sub : Fin 5) : (errBoundRow sub).WholeValue where
  writable := by simp [errBoundRow]
  notOctet := rfl
  notWindow := by simp only [errBoundRow, Obj.FMT_ERR_BOUND_MXFP4, Obj.HST_FM_WINDOW]; omega

/-- The address of a pallet's error bound for a format. -/
def errBoundAddr (sub : Fin 5) (p : PalletNo) : ObjAddr := { index := 0x2200, sub := 1 + sub, inst := p }

theorem oidOf_errBoundAddr (sub : Fin 5) (p : PalletNo) :
    oidOf (errBoundAddr sub p) = some (Obj.FMT_ERR_BOUND_MXFP4 + sub) := by
  have hindex : (errBoundAddr sub p).index < 65536 := by simp [errBoundAddr]
  have hsub : (errBoundAddr sub p).sub < 256 := by simp only [errBoundAddr]; omega
  have hoid : (errBoundAddr sub p).index * 256 + (errBoundAddr sub p).sub = Obj.FMT_ERR_BOUND_MXFP4 + sub := by
    simp only [errBoundAddr, Obj.FMT_ERR_BOUND_MXFP4]; omega
  simp [oidOf, hindex, hsub, hoid]

theorem objAt_errBoundAddr (sub : Fin 5) (p : PalletNo) : objAt (errBoundAddr sub p) = some (errBoundRow sub) := by
  have hinst : (errBoundRow sub).space.has (errBoundAddr sub p).inst = true := by simp [errBoundRow, errBoundAddr, Space.has]
  simp only [objAt, oidOf_errBoundAddr, Option.bind_some, objRow?_errBound, hinst, if_true]

/-- No error bound has a command of its own. -/
theorem commandWrite_errBound (via : Via) (sub : Fin 5) (i v : Nat) : commandWrite via (errBoundRow sub).oid i v = none := by
  fin_cases sub <;> rfl

/-- An error bound has no reserved bits. -/
theorem maskReserved_errBound (sub : Fin 5) (v : Nat) : maskReserved (errBoundRow sub).oid v = v := by
  fin_cases sub <;> rfl

/-- The range of an error bound is the interval of its row, and nothing else. -/
theorem rangeOk_errBound (s : State) (sub : Fin 5) (v : Nat) :
    rangeOk s (errBoundRow sub) v = (decide (272 ≤ v) && decide (v ≤ 65535)) := by
  fin_cases sub <;> rfl

/-- No state of the module forbids the write of an error bound. -/
theorem writeAllowed_errBound (s : State) (sub : Fin 5) (i v : Nat) : writeAllowed s (errBoundRow sub) i v = true := by
  fin_cases sub <;> rfl

theorem errBoundRow_ne_dictWrites (sub : Fin 5) : Obj.FMT_ERR_BOUND_MXFP4 + sub.val ≠ Obj.BRK_DICT_WRITES := by
  simp only [Obj.FMT_ERR_BOUND_MXFP4, Obj.BRK_DICT_WRITES]; omega

theorem ofBytes_pair (a b : Byte) : ofBytes [a, b] = a.toNat + 256 * b.toNat := by simp [ofBytes]

/-- A served write of two bytes to an error bound keeps or refuses the number they spell. -/
theorem objectWrite_errBound {s : State} {via : Via} (hs : Served s via) (sub : Fin 5) (p : PalletNo) (a b : Byte) :
    objectWrite via (errBoundAddr sub p) [a, b] s =
      (storeValue (errBoundRow sub) p (a.toNat + 256 * b.toNat) (s.bump Obj.BRK_DICT_WRITES 0)).1.answer via
        (storeValue (errBoundRow sub) p (a.toNat + 256 * b.toNat) (s.bump Obj.BRK_DICT_WRITES 0)).2 := by
  rw [← ofBytes_pair]
  exact objectWrite_wholeValue hs (objAt_errBoundAddr sub p) (errBoundRow_wholeValue sub) rfl (commandWrite_errBound ..)

/-- Below 272 the write is counted and refused, and that is all it does. -/
theorem objectWrite_errBound_below {s : State} {via : Via} (hs : Served s via) (sub : Fin 5) (p : PalletNo) {a b : Byte}
    (h : a.toNat + 256 * b.toNat < 272) :
    objectWrite via (errBoundAddr sub p) [a, b] s = (s.bump Obj.BRK_DICT_WRITES 0).reply via .transportError [] := by
  have hrange : rangeOk (s.bump Obj.BRK_DICT_WRITES 0) (errBoundRow sub)
      (maskReserved (errBoundRow sub).oid (a.toNat + 256 * b.toNat)) = false := by
    rw [maskReserved_errBound, rangeOk_errBound, decide_eq_false (by omega), Bool.false_and]
  rw [objectWrite_errBound hs, storeValue_out_of_range hrange]
  rfl

/-- From 272 on the write is counted, staged in the object's shadow and answered OK: two bytes never exceed the range. -/
theorem objectWrite_errBound_from {s : State} {via : Via} (hs : Served s via) (sub : Fin 5) (p : PalletNo) {a b : Byte}
    (h : 272 ≤ a.toNat + 256 * b.toNat) :
    objectWrite via (errBoundAddr sub p) [a, b] s =
      ((s.bump Obj.BRK_DICT_WRITES 0).setShadow (Obj.FMT_ERR_BOUND_MXFP4 + sub) p (a.toNat + 256 * b.toNat)).reply via .ok [] := by
  have htop : a.toNat + 256 * b.toNat ≤ 65535 := by have := a.isLt; have := b.isLt; omega
  have hrange : rangeOk (s.bump Obj.BRK_DICT_WRITES 0) (errBoundRow sub)
      (maskReserved (errBoundRow sub).oid (a.toNat + 256 * b.toNat)) = true := by
    rw [maskReserved_errBound, rangeOk_errBound, decide_eq_true h, decide_eq_true htop, Bool.true_and]
  rw [objectWrite_errBound hs, storeValue_shadow rfl hrange (writeAllowed_errBound ..), maskReserved_errBound]
  rfl

/-- OBJECT_WRITE runs to the state that the write leaves at its instant. -/
theorem runs_objectWrite {via : Via} {addr : ObjAddr} {data : List Byte} {t : Nat} {s u : State} {post : State → Prop}
    (hu : objectWrite via addr data (s.at t) = u) (hpost : post u) : Runs (.objectWrite via addr data t) s post :=
  ⟨objectWrite via addr data (s.at t), rfl, hu ▸ hpost⟩

/-- Settles O33: the interval of the row is the whole range check (R69), so a code below 272 is refused with the shadows and the
object as they were, and any other code of two bytes is staged. -/
theorem errorBoundFloor : Obligations.ErrorBoundFloor := by
  unfold Obligations.ErrorBoundFloor
  intro s via p sub t a b hs
  have hoid := errBoundRow_ne_dictWrites sub
  constructor
  · intro hlow
    exact runs_objectWrite (objectWrite_errBound_below (hs.at t) sub p hlow)
      ⟨by simp [hoid], by simp, .transportError, by decide, reply_replied ..⟩
  · intro hfrom
    exact runs_objectWrite (objectWrite_errBound_from (hs.at t) sub p hfrom)
      ⟨by simp [hoid], by simp, reply_replied ..⟩

end Sys2Proof.Machine
end

section
/-! PROOF. Captured groups whose objects do nothing beside standing at their values (R386 to R389), and with them the selection
objects of a pallet: refused together above ATT_DENSE_LIMIT, taken together up to it (R102). -/

namespace Sys2Proof.NMap

/-- A key that is not listed has no value. -/
theorem get?_eq_none_of_not_mem {β : Type} {m : NMap β} {k : Nat} (h : k ∉ m.map (fun e => e.1)) :
    get? m k = none := by
  induction m with
  | nil => rfl
  | cons e m ih =>
    obtain ⟨hne, hmem⟩ : k ≠ e.1 ∧ k ∉ m.map (fun e => e.1) := by
      simpa only [List.map_cons, List.mem_cons, not_or] using h
    rw [get?, if_neg (Ne.symm hne), ih hmem]

end Sys2Proof.NMap

namespace Sys2Proof.Machine

/-! ## Object keys -/

@[simp] theorem keyOid_objKey (oid i : Nat) : keyOid (objKey oid i) = oid := by unfold keyOid objKey; omega

/-- A key is put together again from its two parts. -/
@[simp] theorem objKey_keyOid_keyInst (k : Nat) : objKey (keyOid k) (keyInst k) = k := by
  unfold objKey keyOid keyInst; omega

/-! ## Setting the values of a list of keys -/

/-- The state with every listed key at its value. -/
def State.setValues (s : State) (items : NMap Nat) : State :=
  items.foldl (fun s e => s.setObj (keyOid e.1) (keyInst e.1) e.2) s

@[simp] theorem State.setValues_nil (s : State) : s.setValues [] = s := rfl

@[simp] theorem State.setValues_cons (s : State) (k v : Nat) (items : NMap Nat) :
    s.setValues ((k, v) :: items) = (s.setObj (keyOid k) (keyInst k) v).setValues items := rfl

theorem State.setValues_only (s : State) (items : NMap Nat) : OnlyParts [.dict] s (s.setValues items) := by
  unfold State.setValues
  exact OnlyParts.foldl (fun _ _ => setObj_only _ _ _ _) items s

@[simp] theorem State.setValues_groups (s : State) (items : NMap Nat) : (s.setValues items).dict.groups = s.dict.groups := by
  induction items generalizing s with
  | nil => rfl
  | cons e items ih => rw [State.setValues_cons, ih, State.setObj_dict]

/-- Where no key is listed twice, an object reads as its listed value, and as before where it has none. -/
theorem State.setValues_obj {items : NMap Nat} (hnodup : (items.map (fun e => e.1)).Nodup) (s : State) (oid i : Nat) :
    (s.setValues items).obj oid i = (NMap.get? items (objKey oid i)).getD (s.obj oid i) := by
  induction items generalizing s with
  | nil => rfl
  | cons e items ih =>
    obtain ⟨k, v⟩ := e
    obtain ⟨hk, hitems⟩ := List.nodup_cons.1 hnodup
    rw [State.setValues_cons, ih hitems, State.setObj_obj, objKey_keyOid_keyInst, NMap.get?]
    by_cases h : objKey oid i = k
    · subst h
      rw [NMap.get?_eq_none_of_not_mem hk, if_pos rfl, if_pos rfl]; rfl
    · rw [if_neg h, if_neg (Ne.symm h)]

/-! ## Groups of plain objects -/

/-- The objects whose commit does something beside setting their values. -/
def actingOids : List Nat :=
  [Obj.OBS_CNT_SELECT, Obj.OBS_CNT_GLOBAL_SELECT, Obj.RMF_WINDOW, Obj.ASC_RULE, Obj.OBS_PC_PERIOD_NS, Obj.OBS_PC_BUF_KIB,
    Obj.MEM_PREFETCH_KIB, Obj.TB_SOURCE_ORDER, Obj.RQS_COPY_GROUP, Obj.ASC_TABLE_BLOCKS, Obj.BRK_NODE_ROLE, Obj.BRK_VDP_PORT]

theorem beforeItem_plain {k : Nat} (h : keyOid k ∉ actingOids) (s : State) : beforeItem s k = s := by
  simp only [actingOids, List.mem_cons, List.not_mem_nil, or_false, not_or] at h
  simp only [beforeItem, h, if_false]

theorem afterItem_plain {k : Nat} (h : keyOid k ∉ actingOids) (s0 s : State) : afterItem s0 s k = s := by
  simp only [actingOids, List.mem_cons, List.not_mem_nil, or_false, not_or] at h
  simp only [afterItem, h, if_false]

/-- A fold of operations that do nothing does nothing. -/
theorem foldl_eq_self {α : Type} {f : State → α → State} {l : List α} (h : ∀ a ∈ l, ∀ s, f s a = s) (s : State) :
    l.foldl f s = s := by
  calc l.foldl f s = l.foldl (fun s _ => s) s := List.foldl_ext _ _ _ fun s a ha => h a ha s
    _ = s := List.foldl_fixed l

/-- A group of plain objects does no more than set their values. -/
theorem setItems_plain {g : Group} (h : ∀ e ∈ g.items, keyOid e.1 ∉ actingOids) (s : State) :
    setItems s g = s.setValues g.items := by
  unfold setItems
  rw [foldl_eq_self fun e he u => beforeItem_plain (h e he) u, foldl_eq_self fun e he u => afterItem_plain (h e he) _ u]
  rfl

/-! ## The refusal and the application of a group -/

@[simp] theorem dropGroup_obj (s : State) (g : Group) (oid i : Nat) : (dropGroup s g).obj oid i = s.obj oid i := rfl

theorem dropGroup_only (s : State) (g : Group) : OnlyParts [.dict] s (dropGroup s g) := by
  intro part hpart
  cases part with
  | dict => exact absurd (List.mem_singleton_self _) hpart
  | _ => rfl

/-- The only waiting group leaves none behind. -/
theorem dropGroup_groups_of_single {s : State} {g : Group} (h : s.dict.groups = [g]) : (dropGroup s g).dict.groups = [] := by
  simp [dropGroup, h]

/-- A refusal counts itself, and every object keeps its value but that counter (R389). -/
theorem refuseGroup_obj (s : State) (g : Group) {oid : Nat} (h : oid ≠ Obj.BRK_COMMIT_REFUSED) (i : Nat) :
    (refuseGroup s g).obj oid i = s.obj oid i :=
  bump_obj_oid _ _ _ _ _ h

theorem refuseGroup_counted (s : State) (g : Group) : Counted Obj.BRK_COMMIT_REFUSED 0 s (refuseGroup s g) :=
  State.setObj_obj_self _ _ _ _

theorem refuseGroup_groups (s : State) (g : Group) : (refuseGroup s g).dict.groups = (dropGroup s g).dict.groups := rfl

/-- COMMIT_GROUP_APPLY of the only waiting group, at its pallet's step boundary, applies or refuses it. -/
theorem commitGroupApply_boundary {s : State} {g : Group} {p : Nat} (hgroups : s.dict.groups = [g])
    (hpoint : g.point = .stepBoundary) (hpallet : g.pallet = some p) (hcalm : s.calm p = true) :
    commitGroupApply g.id s = applyGroup s g := by
  have hreached : g.reached s = true := by simp only [Group.reached, hpoint, hpallet, hcalm]
  simp [commitGroupApply, hgroups, groupApply, hreached, hpoint]

/-! ## Selection objects (R102) -/

/-- The selection objects of a pallet. -/
def selectionOids : List Nat := [Obj.ATT_SINK_PAGES, Obj.ATT_RECENT_PAGES, Obj.ATT_SEL_PAGES, Obj.ATT_DENSE_LIMIT]

/-- A group of a pallet's step boundary that holds selection objects of the pallet, and nothing else. -/
structure Group.OfSelection (g : Group) (p : PalletNo) : Prop where
  point : g.point = .stepBoundary
  pallet : g.pallet = some p.val
  nonempty : g.items ≠ []
  keys : ∀ e ∈ g.items, ∃ oid ∈ selectionOids, e.1 = objKey oid p

theorem Group.OfSelection.keyOid_mem {g : Group} {p : PalletNo} (hg : g.OfSelection p) {e : Nat × Nat} (he : e ∈ g.items) :
    keyOid e.1 ∈ selectionOids := by
  obtain ⟨oid, hoid, hkey⟩ := hg.keys e he
  rwa [hkey, keyOid_objKey]

/-- No selection object acts at its commit. -/
theorem selectionOids_disjoint_actingOids : ∀ oid ∈ selectionOids, oid ∉ actingOids := by decide

theorem selectionOids_ne_commitRefused : ∀ oid ∈ selectionOids, oid ≠ Obj.BRK_COMMIT_REFUSED := by decide

theorem Group.OfSelection.names_eq_false {g : Group} {p : PalletNo} (hg : g.OfSelection p) {oid : Nat}
    (h : oid ∉ selectionOids) : g.names oid = false := by
  refine List.any_eq_false.2 fun e he heq => h ?_
  rw [← beq_iff_eq.1 heq]
  exact hg.keyOid_mem he

/-- The group names one of the four objects, so the sum is checked. -/
theorem Group.OfSelection.names_some {g : Group} {p : PalletNo} (hg : g.OfSelection p) :
    (g.names Obj.ATT_SINK_PAGES || g.names Obj.ATT_RECENT_PAGES || g.names Obj.ATT_SEL_PAGES || g.names Obj.ATT_DENSE_LIMIT)
      = true := by
  obtain ⟨e, he⟩ := List.exists_mem_of_ne_nil _ hg.nonempty
  have hnames : g.names (keyOid e.1) = true := List.any_eq_true.2 ⟨e, he, beq_self_eq_true _⟩
  have hoid := hg.keyOid_mem he
  simp only [selectionOids, List.mem_cons, List.not_mem_nil, or_false] at hoid
  rcases hoid with h | h | h | h <;> simp [← h, hnames]

/-- The sum of R102 is all that is checked of a group of selection objects. -/
theorem Group.OfSelection.ok_eq {g : Group} {p : PalletNo} (hg : g.OfSelection p) (s : State) :
    g.ok s = selectionOk g s p := by
  simp [Group.ok, hg.point, hg.pallet, boundaryOk, hg.names_some, hg.names_eq_false (oid := Obj.DRF_NODES) (by decide),
    hg.names_eq_false (oid := Obj.DRF_SHAPE) (by decide), hg.names_eq_false (oid := Obj.RQS_COPY_GROUP) (by decide),
    hg.names_eq_false (oid := Obj.RMF_WINDOW) (by decide)]

/-- Above the dense limit the group is refused. -/
theorem Group.OfSelection.applyGroup_above {g : Group} {p : PalletNo} (hg : g.OfSelection p) {s : State}
    (h : g.obj s Obj.ATT_DENSE_LIMIT p
      < g.obj s Obj.ATT_SINK_PAGES p + g.obj s Obj.ATT_RECENT_PAGES p + g.obj s Obj.ATT_SEL_PAGES p) :
    applyGroup s g = refuseGroup s g := by
  rw [applyGroup, hg.ok_eq, selectionOk, decide_eq_false (Nat.not_le.2 h)]; rfl

/-- Up to the dense limit, equal included, the group's values are set, and that is all. -/
theorem Group.OfSelection.applyGroup_upto {g : Group} {p : PalletNo} (hg : g.OfSelection p) {s : State}
    (h : g.obj s Obj.ATT_SINK_PAGES p + g.obj s Obj.ATT_RECENT_PAGES p + g.obj s Obj.ATT_SEL_PAGES p
      ≤ g.obj s Obj.ATT_DENSE_LIMIT p) :
    applyGroup s g = (dropGroup s g).setValues g.items := by
  rw [applyGroup, hg.ok_eq, selectionOk, decide_eq_true h, if_pos rfl]
  exact setItems_plain (fun e he => selectionOids_disjoint_actingOids _ (hg.keyOid_mem he)) _

/-- COMMIT_GROUP_APPLY runs to the state that applying the groups leaves at its instant. -/
theorem runs_commitGroupApply {id t : Nat} {s u : State} {post : State → Prop} (hu : commitGroupApply id (s.at t) = u)
    (hpost : post u) : Runs (.commitGroupApply id t) s post :=
  ⟨commitGroupApply id (s.at t), rfl, hu ▸ hpost⟩

/-- Settles O34: the sum is the only check that applies to a group of selection objects (R102), and none of them acts at its
commit, so the group is refused whole above the dense limit and its values are set, and nothing else, up to it. -/
theorem selectionSums : Obligations.SelectionSums := by
  unfold Obligations.SelectionSums
  intro s p g t s' names sum hgroups hpoint hpallet hcalm hitems hkeys hnodup
  have hg : g.OfSelection p := ⟨hpoint, hpallet, hitems, hkeys⟩
  have happly : commitGroupApply g.id s' = applyGroup s' g := commitGroupApply_boundary hgroups hpoint hpallet hcalm
  have hdrop : (dropGroup s' g).dict.groups = [] := dropGroup_groups_of_single hgroups
  constructor
  · intro habove
    refine runs_commitGroupApply (happly.trans (hg.applyGroup_above habove)) ⟨?_, ?_, refuseGroup_counted s' g⟩
    · exact fun oid hoid => refuseGroup_obj s' g (selectionOids_ne_commitRefused oid hoid) p
    · rw [refuseGroup_groups, hdrop]
  · intro hupto
    refine runs_commitGroupApply (happly.trans (hg.applyGroup_upto hupto)) ⟨?_, ?_, ?_⟩
    · exact fun oid _ => State.setValues_obj hnodup (dropGroup s' g) oid p
    · rw [State.setValues_groups, hdrop]
    · exact (dropGroup_only s' g).trans (State.setValues_only _ _)

end Sys2Proof.Machine
end

section
/-! PROOF. The refill of the shapers' tokens (R329): each shaper once, by its own rate and cap, whatever the others do. -/

namespace Sys2Proof.NMap

/-- A key that is not listed reads as the default. -/
theorem get_eq_default_of_not_mem {β : Type} {d : β} {m : NMap β} {k : Nat} (h : k ∉ m.map (fun e => e.1)) :
    get d m k = d := by
  induction m with
  | nil => rfl
  | cons e m ih =>
    obtain ⟨hne, hmem⟩ : k ≠ e.1 ∧ k ∉ m.map (fun e => e.1) := by
      simpa only [List.map_cons, List.mem_cons, not_or] using h
    rw [get, if_neg (Ne.symm hne), ih hmem]

end Sys2Proof.NMap

namespace Sys2Proof.Machine

/-- The first occurrences of a list's elements are listed once each. -/
theorem nodup_eraseDups {α : Type} [BEq α] [LawfulBEq α] (l : List α) : l.eraseDups.Nodup := by
  match l with
  | [] => exact List.nodup_nil
  | a :: as =>
    rw [List.eraseDups_cons, List.nodup_cons]
    exact ⟨by simp, nodup_eraseDups (as.filter fun b => !b == a)⟩
termination_by l.length
decreasing_by exact Nat.lt_succ_of_le (List.length_filter_le _ as)

/-! ## Listed instances -/

/-- An instance that is not listed has its object's default value. -/
theorem obj_eq_default_of_not_mem_instancesOf {s : State} {oid i : Nat} (hi : i < 2 ^ 32) (h : i ∉ s.instancesOf oid) :
    s.obj oid i = objDefault oid := by
  refine NMap.get_eq_default_of_not_mem fun hkey => h ?_
  obtain ⟨e, he, hek⟩ := List.mem_map.1 hkey
  have hoid : e.1 / 2 ^ 32 = oid := by rw [hek]; exact keyOid_objKey oid i
  have hinst : e.1 % 2 ^ 32 = i := by rw [hek, objKey]; omega
  exact List.mem_map.2 ⟨e, List.mem_filter.2 ⟨he, beq_iff_eq.2 hoid⟩, hinst⟩

/-! ## Tokens -/

theorem State.setTokens_tokensOf (s : State) (k v k' : Nat) :
    (s.setTokens k v).tokensOf k' = if k' = k then v else s.tokensOf k' :=
  NMap.get_put _ _ _ _ _

@[simp] theorem orderModify_tokensOf (s : State) (d e : Nat) (eligible : Bool) (k : Nat) :
    (orderModify s d e eligible).tokensOf k = s.tokensOf k := rfl

/-- Rewriting ELIGIBLE takes no tokens (R331). -/
@[simp] theorem refreshEligible_tokensOf (c : Flow → Bool) (s : State) (k : Nat) :
    (refreshEligible c s).tokensOf k = s.tokensOf k := by
  unfold refreshEligible
  exact List.foldlRecOn (motive := fun (u : State) => u.tokensOf k = s.tokensOf k) _ _ rfl
    fun u hu e _ => (orderModify_tokensOf ..).trans hu

/-! ## The refill of one shaper -/

/-- TOKENS of a shaper after its refill (R329). -/
def State.refilledTokens (s : State) (k : Nat) : Nat :=
  if shaperBusy s k then
    min (s.shaperBurst k) (s.tokensOf k + s.shaperRate k * s.obj Obj.SCH_REFILL_NS 0 / 1000)
  else 0

theorem refillShaper_eq (s : State) (k : Nat) : refillShaper s k = s.setTokens k (s.refilledTokens k) := by
  unfold refillShaper State.refilledTokens
  split <;> rfl

/-- What a refill gives a shaper depends on no other shaper's tokens. -/
theorem State.setTokens_refilledTokens (s : State) {k k' : Nat} (v : Nat) (h : k' ≠ k) :
    (s.setTokens k v).refilledTokens k' = s.refilledTokens k' := by
  have htok : (s.setTokens k v).tokensOf k' = s.tokensOf k' := by rw [State.setTokens_tokensOf, if_neg h]
  unfold State.refilledTokens
  rw [htok]
  rfl

/-- Refilling a list of different shapers gives each its refill, and leaves every other shaper's tokens. -/
theorem foldl_refillShaper_tokensOf {l : List Nat} (hl : l.Nodup) (s : State) (k : Nat) :
    (l.foldl refillShaper s).tokensOf k = if k ∈ l then s.refilledTokens k else s.tokensOf k := by
  induction l generalizing s with
  | nil => simp
  | cons a l ih =>
    obtain ⟨ha, hl⟩ := List.nodup_cons.1 hl
    rw [List.foldl_cons, ih hl, refillShaper_eq]
    by_cases hk : k = a
    · subst hk
      simp [ha, State.setTokens_tokensOf]
    · simp [hk, State.setTokens_refilledTokens, State.setTokens_tokensOf]

/-! ## The shapers in use -/

theorem shaperBusy_iff (s : State) (k : Nat) :
    shaperBusy s k = true ↔ ¬ ∀ e ∈ s.trn.flows, e.2.shaper = k → e.2.queued = [] := by
  simp [shaperBusy]

theorem State.shapersInUse_nodup (s : State) : s.shapersInUse.Nodup := nodup_eraseDups _

/-- A shaper that is not in use has neither tokens nor a cap above 0, so a refill would leave it as it is. -/
theorem refilledTokens_of_not_inUse {s : State} {k : Nat} (hk : k < 4096) (h : k ∉ s.shapersInUse) :
    s.refilledTokens k = s.tokensOf k := by
  obtain ⟨hinst, htok⟩ : k ∉ s.instancesOf Obj.SCH_SHAPER ∧ k ∉ s.asc.tokens.map (fun e => e.1) := by
    simpa only [State.shapersInUse, List.mem_eraseDups, List.mem_append, not_or] using h
  have hobj : s.obj Obj.SCH_SHAPER k = 0 := obj_eq_default_of_not_mem_instancesOf (by omega) hinst
  have hburst : s.shaperBurst k = 0 := by simp [State.shaperBurst, State.objField, hobj, bitsOf]
  have htokens : s.tokensOf k = 0 := NMap.get_eq_default_of_not_mem htok
  simp [State.refilledTokens, hburst, htokens]

/-! ## The refill instant -/

/-- Between refill instants the command does nothing. -/
theorem shaperRefill_between {s : State} (h : s.now % s.obj Obj.SCH_REFILL_NS 0 ≠ 0) : shaperRefill s = s :=
  if_pos h

/-- At a refill instant that no captured shaper waits for, the shapers in use are refilled and ELIGIBLE follows. -/
theorem shaperRefill_eq {s : State} (hnow : s.now % s.obj Obj.SCH_REFILL_NS 0 = 0)
    (hgroups : ∀ g ∈ s.dict.groups, g.point ≠ .refill) :
    shaperRefill s = refreshEligible (fun _ => true) (s.shapersInUse.foldl refillShaper s) := by
  have hnone : s.dict.groups.filter (fun g => g.point == .refill) = [] :=
    List.filter_eq_nil_iff.2 fun g hg => by simpa using hgroups g hg
  simp [shaperRefill, hnow, hnone]

/-- At such an instant every shaper has its refill, in use or not. -/
theorem shaperRefill_tokensOf {s : State} (hnow : s.now % s.obj Obj.SCH_REFILL_NS 0 = 0)
    (hgroups : ∀ g ∈ s.dict.groups, g.point ≠ .refill) {k : Nat} (hk : k < 4096) :
    (shaperRefill s).tokensOf k = s.refilledTokens k := by
  rw [shaperRefill_eq hnow hgroups, refreshEligible_tokensOf, foldl_refillShaper_tokensOf s.shapersInUse_nodup]
  split
  · rfl
  · next h => exact (refilledTokens_of_not_inUse hk h).symm

/-- SHAPER_REFILL runs to the state that the refill leaves at its instant. -/
theorem runs_shaperRefill {t : Nat} {s : State} {post : State → Prop} (hpost : post (shaperRefill (s.at t))) :
    Runs (.shaperRefill t) s post :=
  ⟨shaperRefill (s.at t), rfl, hpost⟩

/-- Settles O30: the shapers in use are refilled once each and independently, and one out of use has TOKENS 0 and BURST 0, which
its refill would leave (R329). -/
theorem shaperRefillInstants : Obligations.ShaperRefill := by
  unfold Obligations.ShaperRefill
  intro s t s' period
  constructor
  · intro hnow hgroups
    refine runs_shaperRefill fun k hk => ?_
    rw [shaperRefill_tokensOf hnow hgroups hk, State.refilledTokens]
    by_cases hidle : ∀ e ∈ s'.trn.flows, e.2.shaper = k → e.2.queued = []
    · rw [if_pos hidle, if_neg fun hbusy => (shaperBusy_iff s' k).1 hbusy hidle]
    · rw [if_neg hidle, if_pos ((shaperBusy_iff s' k).2 hidle)]
  · exact fun hnow => runs_shaperRefill (shaperRefill_between hnow)

end Sys2Proof.Machine
end
